-- ==== Sys2Proof/Word.lean ====
section
/-! DEFINITION. The words of the Skeratrix SX9 and their plainest arithmetic (00 R4 R7 R8): bit
fields of unbounded naturals, sign extension, byte lists in little-endian order, and tables kept in
one canonical form. -/

namespace Sys2Proof

/-- A byte of memory. -/
abbrev Byte := BitVec 8
/-- A general register, an instruction word. -/
abbrev Word := BitVec 32
/-- A register pair, a front register, a member mask. -/
abbrev DWord := BitVec 64
/-- A virtual address or a program counter (01 R10). -/
abbrev VAddr := BitVec 51

/-- A finite map with natural keys, as a list of pairs with strictly rising keys. -/
abbrev Table (α : Type) := List (Nat × α)

end Sys2Proof
end

