-- ==== Sys2Proof/Config.lean ====
section
/-! DEFINITION. What one implementation fixes and the values the spec leaves open. A value that the
spec leaves open is an opaque constant: nothing can be proved of it but what holds for every value. -/

namespace Sys2Proof.Config

/-- Arithmetic-clock cycles that pass with the n-th step of the model (01 R17; log 3). -/
opaque cycles : Nat → Nat

/-- The n-th choice the part makes among the agents that may move next (06 R160-R162; log 4). -/
opaque choose : Nat → Nat

/-- A choice between two outcomes that the spec allows: the n-th of a run (log 5). -/
opaque flip : Nat → Bool

/-- The byte that an undefined byte of a stash reads as: the serial of the storage and the offset
(07 R174 R183 R193; log 6). -/
opaque freeStash : Nat → Nat → Byte

/-- The byte that an undefined byte of a pool allocation reads as (11 R276; log 6). -/
opaque freePool : Nat → Nat → Byte

/-- The bytes of package memory outside the dump area after a reset that follows a fatal error: the
incarnation and the address (16 R398; log 7). -/
opaque freeMemory : Nat → Nat → Byte

/-- The result that an SLH-DSA-SHA2-128s verification under a public key gives a message and a signature
(16 R388; log 8). -/
opaque slhVerify : BitVec 256 → List Byte → List Byte → Bool

/-- Byte `i` of the SLH-DSA-SHA2-128s signature of a message by the device key (16 R389 R398; log 8). -/
opaque slhByte : List Byte → Nat → Byte

/-- The length of an SLH-DSA-SHA2-128s signature (16 R388). -/
def signatureBytes : Nat := 7856

/-- The signature of a message by the device key (16 R389 R398). -/
def slhSign (m : List Byte) : List Byte := (List.range signatureBytes).map (slhByte m)

/-- The SHA-256 digest of the key of the first-stage firmware, fused at manufacture (16 R388; log 8). -/
opaque fusedDigest : BitVec 256

/-- Whether a stage of the boot chain, given by its bytes, takes a key for that of the next stage (16 R388; log 8). -/
opaque stageTrusts : List Byte → BitVec 256 → Bool

/-- The value of the fused rollback counter (16 R388; log 8). -/
opaque rollback : Nat

/-- Whether the n-th use of bytes that an error code guards meets an error: one that is not corrected in a pool, or
one in a line of an instruction cache (11 R282 R292; log 62). -/
opaque softError : Nat → Bool

/-- How many times a burst of package memory doubles a 32-byte sector, to be taken modulo 3 (14 R349; log 64). -/
opaque burstSize : Nat

/-- The threshold of the activation counts of a row, less one (14 R347; log 63). -/
opaque alertAt : Nat

/-- Whether the PCIe completion of an access to host memory returns an error status (16 R383; log 40). -/
opaque hostFails : Nat → Bool

/-- A byte that an engine reads from poisoned stash bytes (09 R263; log 18). -/
opaque poisonByte : Nat → Byte

/-- The total that the draft unit shows for a set that failed to load (08 R233 R238; log 17). -/
opaque failedTotal : Nat → BitVec 32

/-- The code with which a reel command ends at a line that a CONF frame or its home device refuses
(08 R228; log 28). -/
opaque refusedCode : Nat → BitVec 8

/-- Byte `i` of a race-log record with some contents, of which the spec does not give the places (15 R374;
log 15). -/
opaque recordByte : List Nat → Nat → Byte

/-- Byte `i` of the image of a context switch with a serial (13 R329; log 54). -/
opaque imageByte : Nat → Nat → Byte

/-- The length of the control state in an image, to be taken modulo 131,073 (13 R329; log 54). -/
opaque imageControl : Nat → Nat

/-- What a register or a byte `i` holds that a switch loaded from a changed image with a serial
(13 R329; log 54). -/
opaque changedImage : Nat → Nat → Nat

/-- The sections of a fatal-error dump: their number, and their bytes for an incarnation of the package
(16 R398; log 29). -/
opaque dumpSections : Nat → Nat

/-- The bytes of the sections of a fatal-error dump (16 R398; log 29). -/
opaque dumpBytes : Nat → List Byte

/-- The incarnation of a device that the links taught when they were last brought up (16 R390; log 32). -/
opaque deviceInc : Nat → Nat → BitVec 8

/-- The set of a line in an L2, to be taken modulo the 32 × 1,024 sets of its slices (12 R298; log 59). -/
opaque l2Set : Nat → Nat

/-- The set of a global line in a directory, to be taken modulo its 65,536 sets (12 R304; log 59). -/
opaque dirSet : Nat → Nat

/-- The slice of a die translation cache that holds the translation of a context and VA[50:21], to be taken modulo
8 (12 R308; log 59). -/
opaque xlatSlice : Nat → Nat → Nat

/-- Base of the device-register range; the capability list begins there (16 R378). -/
def regBase : Nat := 0xF000000000

/-- Base of the front-end register block, as the model's capability list names it (13 R315; log 9). -/
def frontEndBase : Nat := 0xF000010000

/-- Base of the translation block of compute die `d` (12 R311; log 9). -/
def translationBase (d : Nat) : Nat := 0xF000020000 + 0x1000 * d

/-- Base of the package memory block (14 R352; log 9). -/
def memoryBase : Nat := 0xF000030000

/-- Base of the Hahan block (15 R370; log 9). -/
def hahanBase : Nat := 0xF000040000

/-- Base of the Krytist block (16 R392; log 9). -/
def krytistBase : Nat := 0xF000050000

/-- Base of the security block (16 R387; log 9). -/
def securityBase : Nat := 0xF000060000

/-- Base of the health block (16 R396; log 9). -/
def healthBase : Nat := 0xF000070000

/-- Base of the host-link block (16 R379; log 9). -/
def hostLinkBase : Nat := 0xF000090000

/-- Base of the dump area (16 R378). -/
def dumpBase : Nat := 0x7FF0000000

/-- The number of measurement registers that the security block reports (16 R387 R389; log 10). -/
def measurementCount : Nat := 4

end Sys2Proof.Config
end

