-- ==== Sys2Proof/Syntax.lean ====
section
/-! DEFINITION. The instructions of the Skeratrix SX9: one constructor for each row of
spec/opcode_table.json. The first 382 constructors are instruction words; their arguments are the
fields of the word, named as the table names them, at the table's widths (02 R48 R50 R55). The other
94 are the steps the part takes by itself or on a command from outside (95): their arguments name
the object the step acts on. -/

namespace Sys2Proof

/-- Who issues a word: a strand of fibres or the front context of a skein (06 R160 R162). The
number is the strand's or the skein's key in the state. -/
inductive Who where
  | strand (n : Nat)
  | front (n : Nat)
  deriving DecidableEq, Repr

/-- One context that makes accesses of its own: a fibre or a front context (05 R145, 08 R211). -/
inductive Ctx where
  | fibre (n : Nat)
  | front (n : Nat)
  deriving DecidableEq, Repr

/-- The target fields of a stop command: SCORE, SSLOT, SFIBRE, SFRONT and SREG (04 R127). -/
structure StopTarget where
  core : BitVec 6
  slot : BitVec 6
  fibre : BitVec 10
  front : Bool
  reg : BitVec 16
  deriving DecidableEq, Repr

/-- A firmware image of the boot chain: its bytes, its signature and the public key of the signature, its
security version and the measurement register that its stage extends (16 R388 R389). -/
structure BootImage where
  bytes : List (BitVec 8)
  key : BitVec 256
  signature : List (BitVec 8)
  version : Nat
  register : BitVec 2
  deriving DecidableEq, Repr

/-- What a request of another package asks of this package's memory (16 R390 R393). -/
inductive RemoteOp where
  | read (n : Nat)
  | write (data : List (BitVec 8))
  | atomic (op : BitVec 5) (n : Nat) (data : Nat) (compare : Nat) (returns : Bool)
  | reduce (op : BitVec 4) (terms : List Nat)
  /-- Atomics without a returned value that the switches have combined (16 R393). -/
  | combined (op : BitVec 5) (n : Nat) (terms : List Nat)
  deriving DecidableEq, Repr

/-- A Krytist request that arrives at this package (16 R390): its source device, the incarnation it
carries, the address and what it asks. -/
structure RemoteReq where
  src : BitVec 14
  inc : BitVec 8
  pa : BitVec 52
  op : RemoteOp
  deriving DecidableEq, Repr

/-- What comes back for a request this package sent (16 R390): data, a refusal of its rights, or
data that the home found poisoned (05 R149). -/
inductive RemoteResp where
  | data (bytes : List (BitVec 8))
  | dropped
  | poisoned
  deriving DecidableEq, Repr

/-- The instruction set of the SX9, one constructor for each row of the opcode table. -/
inductive Instr where
  /-- `add` (R76): Writes a + b modulo 2^32 to vd. -/
  | add (d : BitVec 7) (a : BitVec 7) (b : BitVec 7)
  /-- `sub` (R76): Writes a - b modulo 2^32 to vd. -/
  | sub (d : BitVec 7) (a : BitVec 7) (b : BitVec 7)
  /-- `mullo` (R76): Writes the low 32 bits of a × b. -/
  | mullo (d : BitVec 7) (a : BitVec 7) (b : BitVec 7)
  /-- `mulhi.i32` (R76): Writes the high 32 bits of the signed product. -/
  | mulhiI32 (d : BitVec 7) (a : BitVec 7) (b : BitVec 7)
  /-- `mulhi.n32` (R76): Writes the high 32 bits of the unsigned product. -/
  | mulhiN32 (d : BitVec 7) (a : BitVec 7) (b : BitVec 7)
  /-- `min.i32` (R76): Writes the signed minimum. -/
  | minI32 (d : BitVec 7) (a : BitVec 7) (b : BitVec 7)
  /-- `max.i32` (R76): Writes the signed maximum. -/
  | maxI32 (d : BitVec 7) (a : BitVec 7) (b : BitVec 7)
  /-- `min.n32` (R76): Writes the unsigned minimum. -/
  | minN32 (d : BitVec 7) (a : BitVec 7) (b : BitVec 7)
  /-- `max.n32` (R76): Writes the unsigned maximum. -/
  | maxN32 (d : BitVec 7) (a : BitVec 7) (b : BitVec 7)
  /-- `and` (R76): Writes a and b. -/
  | and (d : BitVec 7) (a : BitVec 7) (b : BitVec 7)
  /-- `or` (R76): Writes a or b. -/
  | or (d : BitVec 7) (a : BitVec 7) (b : BitVec 7)
  /-- `xor` (R76): Writes a xor b. -/
  | xor (d : BitVec 7) (a : BitVec 7) (b : BitVec 7)
  /-- `andn` (R76): Writes a and not b. -/
  | andn (d : BitVec 7) (a : BitVec 7) (b : BitVec 7)
  /-- `shl` (R76): Shifts a left by b[4:0]. -/
  | shl (d : BitVec 7) (a : BitVec 7) (b : BitVec 7)
  /-- `shr.n32` (R76): Shifts a right logically by b[4:0]. -/
  | shrN32 (d : BitVec 7) (a : BitVec 7) (b : BitVec 7)
  /-- `shr.i32` (R76): Shifts a right arithmetically by b[4:0]. -/
  | shrI32 (d : BitVec 7) (a : BitVec 7) (b : BitVec 7)
  /-- `rotl` (R76): Rotates a left by b[4:0]. -/
  | rotl (d : BitVec 7) (a : BitVec 7) (b : BitVec 7)
  /-- `abs` (R76): Writes the absolute value of signed a. -/
  | abs (d : BitVec 7) (a : BitVec 7)
  /-- `neg` (R76): Writes -a modulo 2^32. -/
  | neg (d : BitVec 7) (a : BitVec 7)
  /-- `clz` (R76): Counts leading zero bits of a. -/
  | clz (d : BitVec 7) (a : BitVec 7)
  /-- `popc` (R76): Counts one bits of a. -/
  | popc (d : BitVec 7) (a : BitVec 7)
  /-- `brev` (R76): Reverses the bits of a. -/
  | brev (d : BitVec 7) (a : BitVec 7)
  /-- `bfx.n32` (R76): Extracts an unsigned bit field. -/
  | bfxN32 (d : BitVec 7) (a : BitVec 7) (b : BitVec 7)
  /-- `bfx.i32` (R76): Extracts a signed bit field. -/
  | bfxI32 (d : BitVec 7) (a : BitVec 7) (b : BitVec 7)
  /-- `bfi` (R76): Inserts a bit field of a into c. -/
  | bfi (d : BitVec 7) (a : BitVec 7) (b : BitVec 7)
  /-- `mad` (R76): Writes a × b + c modulo 2^32. -/
  | mad (d : BitVec 7) (a : BitVec 7) (b : BitVec 7)
  /-- `addi` (R77): Adds a sign-extended 12-bit immediate. -/
  | addi (d : BitVec 7) (a : BitVec 7) (i : BitVec 12)
  /-- `andi` (R77): Ands a zero-extended 12-bit immediate. -/
  | andi (d : BitVec 7) (a : BitVec 7) (i : BitVec 12)
  /-- `ori` (R77): Ors a zero-extended 12-bit immediate. -/
  | ori (d : BitVec 7) (a : BitVec 7) (i : BitVec 12)
  /-- `xori` (R77): Xors a zero-extended 12-bit immediate. -/
  | xori (d : BitVec 7) (a : BitVec 7) (i : BitVec 12)
  /-- `shli` (R77): Shifts left by an immediate amount. -/
  | shli (d : BitVec 7) (a : BitVec 7) (n : BitVec 6)
  /-- `shri.n32` (R77): Shifts right logically by an immediate amount. -/
  | shriN32 (d : BitVec 7) (a : BitVec 7) (n : BitVec 6)
  /-- `shri.i32` (R77): Shifts right arithmetically by an immediate amount. -/
  | shriI32 (d : BitVec 7) (a : BitVec 7) (n : BitVec 6)
  /-- `rotli` (R77): Rotates left by an immediate amount. -/
  | rotli (d : BitVec 7) (a : BitVec 7) (n : BitVec 6)
  /-- `lui` (R77): Writes a 19-bit immediate shifted left by 13. -/
  | lui (d : BitVec 7) (i : BitVec 19)
  /-- `movi` (R77): Writes a sign-extended 19-bit immediate. -/
  | movi (d : BitVec 7) (i : BitVec 19)
  /-- `add.i64` (R78): Adds two register pairs modulo 2^64. -/
  | addI64 (d : BitVec 7) (a : BitVec 7) (b : BitVec 7)
  /-- `sub.i64` (R78): Subtracts two register pairs modulo 2^64. -/
  | subI64 (d : BitVec 7) (a : BitVec 7) (b : BitVec 7)
  /-- `mullo.i64` (R78): Writes the low 64 bits of the pair product. -/
  | mulloI64 (d : BitVec 7) (a : BitVec 7) (b : BitVec 7)
  /-- `mulhi.i64` (R78): Writes the high 64 bits of the signed pair product. -/
  | mulhiI64 (d : BitVec 7) (a : BitVec 7) (b : BitVec 7)
  /-- `mulhi.n64` (R78): Writes the high 64 bits of the unsigned pair product. -/
  | mulhiN64 (d : BitVec 7) (a : BitVec 7) (b : BitVec 7)
  /-- `min.i64` (R78): Writes the signed 64-bit minimum. -/
  | minI64 (d : BitVec 7) (a : BitVec 7) (b : BitVec 7)
  /-- `max.i64` (R78): Writes the signed 64-bit maximum. -/
  | maxI64 (d : BitVec 7) (a : BitVec 7) (b : BitVec 7)
  /-- `min.n64` (R78): Writes the unsigned 64-bit minimum. -/
  | minN64 (d : BitVec 7) (a : BitVec 7) (b : BitVec 7)
  /-- `max.n64` (R78): Writes the unsigned 64-bit maximum. -/
  | maxN64 (d : BitVec 7) (a : BitVec 7) (b : BitVec 7)
  /-- `shl.b64` (R78): Shifts a pair left by b[5:0]. -/
  | shlB64 (d : BitVec 7) (a : BitVec 7) (b : BitVec 7)
  /-- `shr.n64` (R78): Shifts a pair right logically. -/
  | shrN64 (d : BitVec 7) (a : BitVec 7) (b : BitVec 7)
  /-- `shr.i64` (R78): Shifts a pair right arithmetically. -/
  | shrI64 (d : BitVec 7) (a : BitVec 7) (b : BitVec 7)
  /-- `neg.i64` (R78): Negates a pair modulo 2^64. -/
  | negI64 (d : BitVec 7) (a : BitVec 7)
  /-- `clz.b64` (R78): Counts leading zeros of a pair. -/
  | clzB64 (d : BitVec 7) (a : BitVec 7)
  /-- `popc.b64` (R78): Counts one bits of a pair. -/
  | popcB64 (d : BitVec 7) (a : BitVec 7)
  /-- `mulw.i32` (R78): Writes the exact signed 64-bit product of two words. -/
  | mulwI32 (d : BitVec 7) (a : BitVec 7) (b : BitVec 7)
  /-- `mulw.n32` (R78): Writes the exact unsigned 64-bit product of two words. -/
  | mulwN32 (d : BitVec 7) (a : BitVec 7) (b : BitVec 7)
  /-- `addx.i64` (R78): Adds a sign-extended word to a pair. -/
  | addxI64 (d : BitVec 7) (a : BitVec 7) (b : BitVec 7)
  /-- `cmp.eq.i32` (R79): Sets pd when the words are equal. -/
  | cmpEqI32 (p : BitVec 3) (a : BitVec 7) (b : BitVec 7)
  /-- `cmp.ne.i32` (R79): Sets pd when the words differ. -/
  | cmpNeI32 (p : BitVec 3) (a : BitVec 7) (b : BitVec 7)
  /-- `cmp.lt.i32` (R79): Sets pd on signed less-than. -/
  | cmpLtI32 (p : BitVec 3) (a : BitVec 7) (b : BitVec 7)
  /-- `cmp.le.i32` (R79): Sets pd on signed less-or-equal. -/
  | cmpLeI32 (p : BitVec 3) (a : BitVec 7) (b : BitVec 7)
  /-- `cmp.lt.n32` (R79): Sets pd on unsigned less-than. -/
  | cmpLtN32 (p : BitVec 3) (a : BitVec 7) (b : BitVec 7)
  /-- `cmp.le.n32` (R79): Sets pd on unsigned less-or-equal. -/
  | cmpLeN32 (p : BitVec 3) (a : BitVec 7) (b : BitVec 7)
  /-- `cmp.eq.i64` (R79): Sets pd when two pairs are equal. -/
  | cmpEqI64 (p : BitVec 3) (a : BitVec 7) (b : BitVec 7)
  /-- `cmp.ne.i64` (R79): Sets pd when two pairs differ. -/
  | cmpNeI64 (p : BitVec 3) (a : BitVec 7) (b : BitVec 7)
  /-- `cmp.lt.i64` (R79): Sets pd on signed 64-bit less-than. -/
  | cmpLtI64 (p : BitVec 3) (a : BitVec 7) (b : BitVec 7)
  /-- `cmp.le.i64` (R79): Sets pd on signed 64-bit less-or-equal. -/
  | cmpLeI64 (p : BitVec 3) (a : BitVec 7) (b : BitVec 7)
  /-- `cmp.lt.n64` (R79): Sets pd on unsigned 64-bit less-than. -/
  | cmpLtN64 (p : BitVec 3) (a : BitVec 7) (b : BitVec 7)
  /-- `cmp.le.n64` (R79): Sets pd on unsigned 64-bit less-or-equal. -/
  | cmpLeN64 (p : BitVec 3) (a : BitVec 7) (b : BitVec 7)
  /-- `cmp.eq.f32` (R79): Sets pd on f32 equality. -/
  | cmpEqF32 (p : BitVec 3) (a : BitVec 7) (b : BitVec 7)
  /-- `cmp.ne.f32` (R79): Sets pd on f32 inequality or NaN. -/
  | cmpNeF32 (p : BitVec 3) (a : BitVec 7) (b : BitVec 7)
  /-- `cmp.lt.f32` (R79): Sets pd on ordered f32 less-than. -/
  | cmpLtF32 (p : BitVec 3) (a : BitVec 7) (b : BitVec 7)
  /-- `cmp.le.f32` (R79): Sets pd on ordered f32 less-or-equal. -/
  | cmpLeF32 (p : BitVec 3) (a : BitVec 7) (b : BitVec 7)
  /-- `cmp.un.f32` (R79): Sets pd when either f32 operand is NaN. -/
  | cmpUnF32 (p : BitVec 3) (a : BitVec 7) (b : BitVec 7)
  /-- `cmp.eq.f64` (R79): Sets pd on f64 equality. -/
  | cmpEqF64 (p : BitVec 3) (a : BitVec 7) (b : BitVec 7)
  /-- `cmp.ne.f64` (R79): Sets pd on f64 inequality or NaN. -/
  | cmpNeF64 (p : BitVec 3) (a : BitVec 7) (b : BitVec 7)
  /-- `cmp.lt.f64` (R79): Sets pd on ordered f64 less-than. -/
  | cmpLtF64 (p : BitVec 3) (a : BitVec 7) (b : BitVec 7)
  /-- `cmp.le.f64` (R79): Sets pd on ordered f64 less-or-equal. -/
  | cmpLeF64 (p : BitVec 3) (a : BitVec 7) (b : BitVec 7)
  /-- `cmp.un.f64` (R79): Sets pd when either f64 operand is NaN. -/
  | cmpUnF64 (p : BitVec 3) (a : BitVec 7) (b : BitVec 7)
  /-- `pand` (R80): Writes pa and pb to pd. -/
  | pand (d : BitVec 3) (a : BitVec 3) (b : BitVec 3)
  /-- `por` (R80): Writes pa or pb to pd. -/
  | por (d : BitVec 3) (a : BitVec 3) (b : BitVec 3)
  /-- `pxor` (R80): Writes pa xor pb to pd. -/
  | pxor (d : BitVec 3) (a : BitVec 3) (b : BitVec 3)
  /-- `pandn` (R80): Writes pa and not pb to pd. -/
  | pandn (d : BitVec 3) (a : BitVec 3) (b : BitVec 3)
  /-- `pnot` (R80): Writes not pa to pd. -/
  | pnot (d : BitVec 3) (a : BitVec 3)
  /-- `pmov` (R80): Copies pa to pd. -/
  | pmov (d : BitVec 3) (a : BitVec 3)
  /-- `sel` (R81): Writes va or vb according to a predicate. -/
  | sel (d : BitVec 7) (a : BitVec 7) (b : BitVec 7) (n : BitVec 1) (p : BitVec 3)
  /-- `sel64` (R81): Selects one of two pairs by a predicate. -/
  | sel64 (d : BitVec 7) (a : BitVec 7) (b : BitVec 7) (n : BitVec 1) (p : BitVec 3)
  /-- `mov` (R82): Copies a register. -/
  | mov (d : BitVec 7) (a : BitVec 7)
  /-- `mov64` (R82): Copies a register pair. -/
  | mov64 (d : BitVec 7) (a : BitVec 7)
  /-- `pget` (R82): Packs p0-p7 into a register. -/
  | pget (d : BitVec 7)
  /-- `pput` (R82): Sets p1-p7 from register bits. -/
  | pput (a : BitVec 7)
  /-- `dqpop` (R83): Takes the decision-queue entry at the fibre's cursor, waiting until pushed, checking the tag. -/
  | dqpop (d : BitVec 7) (t : BitVec 7)
  /-- `add.f32` (R85): Adds two f32 values, rounded once. -/
  | addF32 (d : BitVec 7) (a : BitVec 7) (b : BitVec 7)
  /-- `sub.f32` (R85): Subtracts two f32 values. -/
  | subF32 (d : BitVec 7) (a : BitVec 7) (b : BitVec 7)
  /-- `mul.f32` (R85): Multiplies two f32 values. -/
  | mulF32 (d : BitVec 7) (a : BitVec 7) (b : BitVec 7)
  /-- `fma.f32` (R85): Fused multiply-add in f32. -/
  | fmaF32 (d : BitVec 7) (a : BitVec 7) (b : BitVec 7)
  /-- `min.f32` (R85): f32 minimum ignoring a single NaN. -/
  | minF32 (d : BitVec 7) (a : BitVec 7) (b : BitVec 7)
  /-- `max.f32` (R85): f32 maximum ignoring a single NaN. -/
  | maxF32 (d : BitVec 7) (a : BitVec 7) (b : BitVec 7)
  /-- `minm.f32` (R85): f32 minimum propagating NaN. -/
  | minmF32 (d : BitVec 7) (a : BitVec 7) (b : BitVec 7)
  /-- `maxm.f32` (R85): f32 maximum propagating NaN. -/
  | maxmF32 (d : BitVec 7) (a : BitVec 7) (b : BitVec 7)
  /-- `abs.f32` (R85): Clears the sign bit. -/
  | absF32 (d : BitVec 7) (a : BitVec 7)
  /-- `neg.f32` (R85): Inverts the sign bit. -/
  | negF32 (d : BitVec 7) (a : BitVec 7)
  /-- `copysign.f32` (R85): Gives a the sign bit of b. -/
  | copysignF32 (d : BitVec 7) (a : BitVec 7) (b : BitVec 7)
  /-- `div.f32` (R85): Correctly rounded f32 division. -/
  | divF32 (d : BitVec 7) (a : BitVec 7) (b : BitVec 7)
  /-- `sqrt.f32` (R85): Correctly rounded f32 square root. -/
  | sqrtF32 (d : BitVec 7) (a : BitVec 7)
  /-- `rcp.f32` (R85): Correctly rounded f32 reciprocal. -/
  | rcpF32 (d : BitVec 7) (a : BitVec 7)
  /-- `rsqrt.f32` (R85): Correctly rounded f32 reciprocal square root. -/
  | rsqrtF32 (d : BitVec 7) (a : BitVec 7)
  /-- `exp2.f32` (R85): Correctly rounded 2^a. -/
  | exp2F32 (d : BitVec 7) (a : BitVec 7)
  /-- `log2.f32` (R85): Correctly rounded log2 a. -/
  | log2F32 (d : BitVec 7) (a : BitVec 7)
  /-- `tanh.f32` (R85): Correctly rounded tanh a. -/
  | tanhF32 (d : BitVec 7) (a : BitVec 7)
  /-- `floor.f32` (R85): Rounds to the integral value towards -inf. -/
  | floorF32 (d : BitVec 7) (a : BitVec 7)
  /-- `ceil.f32` (R85): Rounds to the integral value towards +inf. -/
  | ceilF32 (d : BitVec 7) (a : BitVec 7)
  /-- `trunc.f32` (R85): Rounds to the integral value towards zero. -/
  | truncF32 (d : BitVec 7) (a : BitVec 7)
  /-- `rint.f32` (R85): Rounds to an integral value under the mode. -/
  | rintF32 (d : BitVec 7) (a : BitVec 7)
  /-- `class.f32` (R87): Writes the class mask of the input after FZI. -/
  | classF32 (d : BitVec 7) (a : BitVec 7)
  /-- `ldexp.f32` (R85): Writes a × 2^b. -/
  | ldexpF32 (d : BitVec 7) (a : BitVec 7) (b : BitVec 7)
  /-- `add.f64` (R86): Adds two f64 pairs. -/
  | addF64 (d : BitVec 7) (a : BitVec 7) (b : BitVec 7)
  /-- `sub.f64` (R86): Subtracts two f64 pairs. -/
  | subF64 (d : BitVec 7) (a : BitVec 7) (b : BitVec 7)
  /-- `mul.f64` (R86): Multiplies two f64 pairs. -/
  | mulF64 (d : BitVec 7) (a : BitVec 7) (b : BitVec 7)
  /-- `fma.f64` (R86): Fused multiply-add in f64. -/
  | fmaF64 (d : BitVec 7) (a : BitVec 7) (b : BitVec 7)
  /-- `min.f64` (R86): f64 minimum. -/
  | minF64 (d : BitVec 7) (a : BitVec 7) (b : BitVec 7)
  /-- `max.f64` (R86): f64 maximum. -/
  | maxF64 (d : BitVec 7) (a : BitVec 7) (b : BitVec 7)
  /-- `abs.f64` (R86): Clears the f64 sign bit. -/
  | absF64 (d : BitVec 7) (a : BitVec 7)
  /-- `neg.f64` (R86): Inverts the f64 sign bit. -/
  | negF64 (d : BitVec 7) (a : BitVec 7)
  /-- `div.f64` (R86): Correctly rounded f64 division. -/
  | divF64 (d : BitVec 7) (a : BitVec 7) (b : BitVec 7)
  /-- `sqrt.f64` (R86): Correctly rounded f64 square root. -/
  | sqrtF64 (d : BitVec 7) (a : BitVec 7)
  /-- `floor.f64` (R86): f64 floor. -/
  | floorF64 (d : BitVec 7) (a : BitVec 7)
  /-- `ceil.f64` (R86): f64 ceiling. -/
  | ceilF64 (d : BitVec 7) (a : BitVec 7)
  /-- `trunc.f64` (R86): f64 truncation. -/
  | truncF64 (d : BitVec 7) (a : BitVec 7)
  /-- `rint.f64` (R86): f64 round to integral under the mode. -/
  | rintF64 (d : BitVec 7) (a : BitVec 7)
  /-- `add.f16x2` (R86): Element-wise f16 addition. -/
  | addF16x2 (d : BitVec 7) (a : BitVec 7) (b : BitVec 7)
  /-- `sub.f16x2` (R86): Element-wise f16 subtraction. -/
  | subF16x2 (d : BitVec 7) (a : BitVec 7) (b : BitVec 7)
  /-- `mul.f16x2` (R86): Element-wise f16 multiplication. -/
  | mulF16x2 (d : BitVec 7) (a : BitVec 7) (b : BitVec 7)
  /-- `fma.f16x2` (R86): Element-wise f16 fused multiply-add. -/
  | fmaF16x2 (d : BitVec 7) (a : BitVec 7) (b : BitVec 7)
  /-- `min.f16x2` (R86): Element-wise f16 minimum. -/
  | minF16x2 (d : BitVec 7) (a : BitVec 7) (b : BitVec 7)
  /-- `max.f16x2` (R86): Element-wise f16 maximum. -/
  | maxF16x2 (d : BitVec 7) (a : BitVec 7) (b : BitVec 7)
  /-- `add.bf16x2` (R86): Element-wise bf16 addition. -/
  | addBf16x2 (d : BitVec 7) (a : BitVec 7) (b : BitVec 7)
  /-- `sub.bf16x2` (R86): Element-wise bf16 subtraction. -/
  | subBf16x2 (d : BitVec 7) (a : BitVec 7) (b : BitVec 7)
  /-- `mul.bf16x2` (R86): Element-wise bf16 multiplication. -/
  | mulBf16x2 (d : BitVec 7) (a : BitVec 7) (b : BitVec 7)
  /-- `fma.bf16x2` (R86): Element-wise bf16 fused multiply-add. -/
  | fmaBf16x2 (d : BitVec 7) (a : BitVec 7) (b : BitVec 7)
  /-- `min.bf16x2` (R86): Element-wise bf16 minimum. -/
  | minBf16x2 (d : BitVec 7) (a : BitVec 7) (b : BitVec 7)
  /-- `max.bf16x2` (R86): Element-wise bf16 maximum. -/
  | maxBf16x2 (d : BitVec 7) (a : BitVec 7) (b : BitVec 7)
  /-- `cvt` (R89): Converts between the source and destination types with narrowing under the overflow table. -/
  | cvt (d : BitVec 7) (a : BitVec 7) (s : BitVec 5) (t : BitVec 5)
  /-- `dot2.f16x2` (R90): Accumulates an exact f16 dot product into f32. -/
  | dot2F16x2 (d : BitVec 7) (a : BitVec 7) (b : BitVec 7)
  /-- `dot2.bf16x2` (R90): Accumulates an exact bf16 dot product into f32. -/
  | dot2Bf16x2 (d : BitVec 7) (a : BitVec 7) (b : BitVec 7)
  /-- `dot4.e4m3x4` (R90): Accumulates an exact e4m3 dot product into f32. -/
  | dot4E4m3x4 (d : BitVec 7) (a : BitVec 7) (b : BitVec 7)
  /-- `dot4.i8x4` (R90): Accumulates a signed byte dot product. -/
  | dot4I8x4 (d : BitVec 7) (a : BitVec 7) (b : BitVec 7)
  /-- `dot4.n8x4` (R90): Accumulates an unsigned byte dot product. -/
  | dot4N8x4 (d : BitVec 7) (a : BitVec 7) (b : BitVec 7)
  /-- `mvc` (R231): Computes a constant-store network layer on the fibre's registers. -/
  | mvc (d : BitVec 7) (a : BitVec 7) (l : BitVec 8)
  /-- `mvc.acc` (R231): Computes a network layer accumulating into the destination registers. -/
  | mvcAcc (d : BitVec 7) (a : BitVec 7) (l : BitVec 8)
  /-- `xshfl.idx` (R94): Gathers members and reads va from an indexed lane. -/
  | xshflIdx (d : BitVec 7) (a : BitVec 7) (b : BitVec 7) (m : BitVec 3)
  /-- `xshfl.up` (R94): Gathers members and reads va from lane l - d. -/
  | xshflUp (d : BitVec 7) (a : BitVec 7) (b : BitVec 7) (m : BitVec 3)
  /-- `xshfl.down` (R94): Gathers members and reads va from lane l + d. -/
  | xshflDown (d : BitVec 7) (a : BitVec 7) (b : BitVec 7) (m : BitVec 3)
  /-- `xshfl.xor` (R94): Gathers members and reads va from an xor-indexed lane. -/
  | xshflXor (d : BitVec 7) (a : BitVec 7) (b : BitVec 7) (m : BitVec 3)
  /-- `xred.add.i32` (R95): Sums va over active members modulo 2^32. -/
  | xredAddI32 (d : BitVec 7) (a : BitVec 7) (m : BitVec 3)
  /-- `xred.min.i32` (R95): Signed minimum over members. -/
  | xredMinI32 (d : BitVec 7) (a : BitVec 7) (m : BitVec 3)
  /-- `xred.max.i32` (R95): Signed maximum over members. -/
  | xredMaxI32 (d : BitVec 7) (a : BitVec 7) (m : BitVec 3)
  /-- `xred.min.n32` (R95): Unsigned minimum over members. -/
  | xredMinN32 (d : BitVec 7) (a : BitVec 7) (m : BitVec 3)
  /-- `xred.max.n32` (R95): Unsigned maximum over members. -/
  | xredMaxN32 (d : BitVec 7) (a : BitVec 7) (m : BitVec 3)
  /-- `xred.and` (R95): Bitwise and over members. -/
  | xredAnd (d : BitVec 7) (a : BitVec 7) (m : BitVec 3)
  /-- `xred.or` (R95): Bitwise or over members. -/
  | xredOr (d : BitVec 7) (a : BitVec 7) (m : BitVec 3)
  /-- `xred.xor` (R95): Bitwise xor over members. -/
  | xredXor (d : BitVec 7) (a : BitVec 7) (m : BitVec 3)
  /-- `xred.add.f32` (R95): Exact f32 sum over members rounded once per lane. -/
  | xredAddF32 (d : BitVec 7) (a : BitVec 7) (m : BitVec 3)
  /-- `xred.min.f32` (R95): f32 minimum over members. -/
  | xredMinF32 (d : BitVec 7) (a : BitVec 7) (m : BitVec 3)
  /-- `xred.max.f32` (R95): f32 maximum over members. -/
  | xredMaxF32 (d : BitVec 7) (a : BitVec 7) (m : BitVec 3)
  /-- `ballot` (R96): Writes the mask of members whose predicate is 1. -/
  | ballot (d : BitVec 7) (s : BitVec 3) (m : BitVec 3)
  /-- `any` (R96): Sets pd if the predicate is 1 in some member. -/
  | any (p : BitVec 3) (s : BitVec 3) (m : BitVec 3)
  /-- `all` (R96): Sets pd if the predicate is 1 in every member. -/
  | all (p : BitVec 3) (s : BitVec 3) (m : BitVec 3)
  /-- `uni` (R96): Sets pd if va is equal in every member. -/
  | uni (p : BitVec 3) (a : BitVec 7) (m : BitVec 3)
  /-- `ld.s64` (R210): Front context loads 8 bytes into an s register. -/
  | ldS64 (d : BitVec 6) (a : BitVec 6) (b : BitVec 6) (i : BitVec 6)
  /-- `st.s64` (R210): Front context stores 8 bytes. -/
  | stS64 (d : BitVec 6) (a : BitVec 6) (b : BitVec 6) (i : BitVec 6)
  /-- `ld.s32` (R210): Front context loads 4 bytes zero-extended. -/
  | ldS32 (d : BitVec 6) (a : BitVec 6) (b : BitVec 6) (i : BitVec 6)
  /-- `st.s32` (R210): Front context stores 4 bytes. -/
  | stS32 (d : BitVec 6) (a : BitVec 6) (b : BitVec 6) (i : BitVec 6)
  /-- `bra` (R101): Predicated direct branch, divergent when lanes disagree. -/
  | bra (p : BitVec 3) (n : BitVec 1) (o : BitVec 22)
  /-- `bru.d` (R101): Branch on the taken bit of the next decision-queue entry. -/
  | bruD (t : BitVec 7) (o : BitVec 14)
  /-- `bru.p` (R101): Asserted-uniform predicated branch, trapping or demoting on disagreement. -/
  | bruP (p : BitVec 3) (n : BitVec 1) (o : BitVec 14)
  /-- `call` (R103): Writes the fall-through address to v0:v1 and branches. -/
  | call (p : BitVec 3) (n : BitVec 1) (o : BitVec 22)
  /-- `jmp` (R104): Jumps to the address in a pair. -/
  | jmp (a : BitVec 7)
  /-- `callr` (R104): Indirect call writing the link to a pair. -/
  | callr (d : BitVec 7) (a : BitVec 7)
  /-- `ret` (R104): Returns to the address in a pair. -/
  | ret (a : BitVec 7)
  /-- `jmp.u` (R104): Indirect jump asserted uniform across the strand. -/
  | jmpU (a : BitVec 7)
  /-- `card` (R105): Re-files the fibre into a card bin at its fall-through address. -/
  | card
  /-- `exit` (R108): Drains stores, adds to the completion counter and ends the fibre or front context. -/
  | exit
  /-- `exit.relay` (R109): Restarts the fibre at a relay-table entry keeping selected registers. -/
  | exitRelay (e : BitVec 8)
  /-- `karm` (R167): Arms a knot in member mode with a count. -/
  | karm (k : BitVec 4) (v : BitVec 7)
  /-- `karm.byte` (R167): Arms a knot in byte mode. -/
  | karmByte (k : BitVec 4)
  /-- `tie` (R167): Ties the fibre into the knot's open phase. -/
  | tie (k : BitVec 4)
  /-- `tiew` (R167): Ties and waits until the phase has passed. -/
  | tiew (k : BitVec 4)
  /-- `kexpect` (R167): Posts an expected byte count to a byte-mode knot. -/
  | kexpect (k : BitVec 4) (v : BitVec 7)
  /-- `kwait` (R167): Waits until the fibre's recorded phase has passed. -/
  | kwait (k : BitVec 4)
  /-- `kstat` (R167): Reads the knot's balance or tie count and phase. -/
  | kstat (k : BitVec 4) (d : BitVec 7)
  /-- `wait` (R111): Stalls until the LD, ST, CP and TL counters meet the bounds. -/
  | wait (l : BitVec 4) (s : BitVec 4) (c : BitVec 3) (t : BitVec 3)
  /-- `nop` (R112): Does nothing. -/
  | nop
  /-- `yield` (R112): Permits the slot to exchange the strand. -/
  | yield
  /-- `ipf` (R112): Asks the cluster instruction cache to prefetch a line. -/
  | ipf (o : BitVec 22)
  /-- `brk` (R112): Raises BREAKPOINT for the strand. -/
  | brk (c : BitVec 16)
  /-- `ld.n8` (R137): Loads a zero-extended byte through a binding. -/
  | ldN8 (d : BitVec 7) (a : BitVec 7) (b : BitVec 6) (c : BitVec 2) (s : BitVec 1)
  /-- `ld.i8` (R137): Loads a sign-extended byte. -/
  | ldI8 (d : BitVec 7) (a : BitVec 7) (b : BitVec 6) (c : BitVec 2) (s : BitVec 1)
  /-- `ld.n16` (R137): Loads a zero-extended halfword. -/
  | ldN16 (d : BitVec 7) (a : BitVec 7) (b : BitVec 6) (c : BitVec 2) (s : BitVec 1)
  /-- `ld.i16` (R137): Loads a sign-extended halfword. -/
  | ldI16 (d : BitVec 7) (a : BitVec 7) (b : BitVec 6) (c : BitVec 2) (s : BitVec 1)
  /-- `ld.b32` (R137): Loads a word. -/
  | ldB32 (d : BitVec 7) (a : BitVec 7) (b : BitVec 6) (c : BitVec 2) (s : BitVec 1)
  /-- `ld.b64` (R137): Loads 8 bytes into a pair. -/
  | ldB64 (d : BitVec 7) (a : BitVec 7) (b : BitVec 6) (c : BitVec 2) (s : BitVec 1)
  /-- `ld.b128` (R137): Loads 16 bytes into a group. -/
  | ldB128 (d : BitVec 7) (a : BitVec 7) (b : BitVec 6) (c : BitVec 2) (s : BitVec 1)
  /-- `st.b8` (R137): Stores a byte through a binding. -/
  | stB8 (d : BitVec 7) (a : BitVec 7) (b : BitVec 6) (c : BitVec 2)
  /-- `st.b16` (R137): Stores a halfword. -/
  | stB16 (d : BitVec 7) (a : BitVec 7) (b : BitVec 6) (c : BitVec 2)
  /-- `st.b32` (R137): Stores a word. -/
  | stB32 (d : BitVec 7) (a : BitVec 7) (b : BitVec 6) (c : BitVec 2)
  /-- `st.b64` (R137): Stores a pair. -/
  | stB64 (d : BitVec 7) (a : BitVec 7) (b : BitVec 6) (c : BitVec 2)
  /-- `st.b128` (R137): Stores a group. -/
  | stB128 (d : BitVec 7) (a : BitVec 7) (b : BitVec 6) (c : BitVec 2)
  /-- `lda.n8` (R140): Acquiring zero-extended byte load. -/
  | ldaN8 (d : BitVec 7) (a : BitVec 7) (b : BitVec 6) (s : BitVec 3)
  /-- `lda.i8` (R140): Acquiring sign-extended byte load. -/
  | ldaI8 (d : BitVec 7) (a : BitVec 7) (b : BitVec 6) (s : BitVec 3)
  /-- `lda.n16` (R140): Acquiring zero-extended halfword load. -/
  | ldaN16 (d : BitVec 7) (a : BitVec 7) (b : BitVec 6) (s : BitVec 3)
  /-- `lda.i16` (R140): Acquiring sign-extended halfword load. -/
  | ldaI16 (d : BitVec 7) (a : BitVec 7) (b : BitVec 6) (s : BitVec 3)
  /-- `lda.b32` (R140): Acquiring word load. -/
  | ldaB32 (d : BitVec 7) (a : BitVec 7) (b : BitVec 6) (s : BitVec 3)
  /-- `lda.b64` (R140): Acquiring pair load. -/
  | ldaB64 (d : BitVec 7) (a : BitVec 7) (b : BitVec 6) (s : BitVec 3)
  /-- `lda.b128` (R140): Acquiring group load. -/
  | ldaB128 (d : BitVec 7) (a : BitVec 7) (b : BitVec 6) (s : BitVec 3)
  /-- `stl.b8` (R140): Releasing byte store. -/
  | stlB8 (d : BitVec 7) (a : BitVec 7) (b : BitVec 6) (s : BitVec 3)
  /-- `stl.b16` (R140): Releasing halfword store. -/
  | stlB16 (d : BitVec 7) (a : BitVec 7) (b : BitVec 6) (s : BitVec 3)
  /-- `stl.b32` (R140): Releasing word store. -/
  | stlB32 (d : BitVec 7) (a : BitVec 7) (b : BitVec 6) (s : BitVec 3)
  /-- `stl.b64` (R140): Releasing pair store. -/
  | stlB64 (d : BitVec 7) (a : BitVec 7) (b : BitVec 6) (s : BitVec 3)
  /-- `stl.b128` (R140): Releasing group store. -/
  | stlB128 (d : BitVec 7) (a : BitVec 7) (b : BitVec 6) (s : BitVec 3)
  /-- `atom.add.i32` (R141): Atomic 32-bit add. -/
  | atomAddI32 (d : BitVec 7) (a : BitVec 7) (b : BitVec 6) (n : BitVec 1)
  /-- `atom.add.i64` (R141): Atomic 64-bit add. -/
  | atomAddI64 (d : BitVec 7) (a : BitVec 7) (b : BitVec 6) (n : BitVec 1)
  /-- `atom.min.i32` (R141): Atomic signed minimum. -/
  | atomMinI32 (d : BitVec 7) (a : BitVec 7) (b : BitVec 6) (n : BitVec 1)
  /-- `atom.max.i32` (R141): Atomic signed maximum. -/
  | atomMaxI32 (d : BitVec 7) (a : BitVec 7) (b : BitVec 6) (n : BitVec 1)
  /-- `atom.min.n32` (R141): Atomic unsigned minimum. -/
  | atomMinN32 (d : BitVec 7) (a : BitVec 7) (b : BitVec 6) (n : BitVec 1)
  /-- `atom.max.n32` (R141): Atomic unsigned maximum. -/
  | atomMaxN32 (d : BitVec 7) (a : BitVec 7) (b : BitVec 6) (n : BitVec 1)
  /-- `atom.and.b32` (R141): Atomic bitwise and. -/
  | atomAndB32 (d : BitVec 7) (a : BitVec 7) (b : BitVec 6) (n : BitVec 1)
  /-- `atom.or.b32` (R141): Atomic bitwise or. -/
  | atomOrB32 (d : BitVec 7) (a : BitVec 7) (b : BitVec 6) (n : BitVec 1)
  /-- `atom.xor.b32` (R141): Atomic bitwise xor. -/
  | atomXorB32 (d : BitVec 7) (a : BitVec 7) (b : BitVec 6) (n : BitVec 1)
  /-- `atom.xchg.b32` (R141): Atomic 32-bit exchange. -/
  | atomXchgB32 (d : BitVec 7) (a : BitVec 7) (b : BitVec 6) (n : BitVec 1)
  /-- `atom.xchg.b64` (R141): Atomic 64-bit exchange. -/
  | atomXchgB64 (d : BitVec 7) (a : BitVec 7) (b : BitVec 6) (n : BitVec 1)
  /-- `atom.cas.b32` (R141): Atomic 32-bit compare-and-swap. -/
  | atomCasB32 (d : BitVec 7) (a : BitVec 7) (b : BitVec 6) (n : BitVec 1)
  /-- `atom.cas.b64` (R141): Atomic 64-bit compare-and-swap. -/
  | atomCasB64 (d : BitVec 7) (a : BitVec 7) (b : BitVec 6) (n : BitVec 1)
  /-- `atom.cas.b128` (R141): Atomic 128-bit compare-and-swap. -/
  | atomCasB128 (d : BitVec 7) (a : BitVec 7) (b : BitVec 6) (n : BitVec 1)
  /-- `atom.fadd.f32` (R141): Atomic f32 add rounded RNE. -/
  | atomFaddF32 (d : BitVec 7) (a : BitVec 7) (b : BitVec 6) (n : BitVec 1)
  /-- `atom.fadd.f64` (R141): Atomic f64 add rounded RNE. -/
  | atomFaddF64 (d : BitVec 7) (a : BitVec 7) (b : BitVec 6) (n : BitVec 1)
  /-- `atom.fadd.f16x2` (R141): Atomic element-wise f16 add. -/
  | atomFaddF16x2 (d : BitVec 7) (a : BitVec 7) (b : BitVec 6) (n : BitVec 1)
  /-- `atom.fadd.bf16x2` (R141): Atomic element-wise bf16 add. -/
  | atomFaddBf16x2 (d : BitVec 7) (a : BitVec 7) (b : BitVec 6) (n : BitVec 1)
  /-- `atom.fmin.f32` (R141): Atomic f32 minimum. -/
  | atomFminF32 (d : BitVec 7) (a : BitVec 7) (b : BitVec 6) (n : BitVec 1)
  /-- `atom.fmax.f32` (R141): Atomic f32 maximum. -/
  | atomFmaxF32 (d : BitVec 7) (a : BitVec 7) (b : BitVec 6) (n : BitVec 1)
  /-- `atom.fmin.f64` (R141): Atomic f64 minimum. -/
  | atomFminF64 (d : BitVec 7) (a : BitVec 7) (b : BitVec 6) (n : BitVec 1)
  /-- `atom.fmax.f64` (R141): Atomic f64 maximum. -/
  | atomFmaxF64 (d : BitVec 7) (a : BitVec 7) (b : BitVec 6) (n : BitVec 1)
  /-- `atom.fmin.f16x2` (R141): Atomic element-wise f16 minimum. -/
  | atomFminF16x2 (d : BitVec 7) (a : BitVec 7) (b : BitVec 6) (n : BitVec 1)
  /-- `atom.fmax.f16x2` (R141): Atomic element-wise f16 maximum. -/
  | atomFmaxF16x2 (d : BitVec 7) (a : BitVec 7) (b : BitVec 6) (n : BitVec 1)
  /-- `atom.fmin.bf16x2` (R141): Atomic element-wise bf16 minimum. -/
  | atomFminBf16x2 (d : BitVec 7) (a : BitVec 7) (b : BitVec 6) (n : BitVec 1)
  /-- `atom.fmax.bf16x2` (R141): Atomic element-wise bf16 maximum. -/
  | atomFmaxBf16x2 (d : BitVec 7) (a : BitVec 7) (b : BitVec 6) (n : BitVec 1)
  /-- `` (R143): At the end of the aggregator window performs a group of like atomics as one indivisible access. -/
  | aggregatorGroup (members : List Nat)
  /-- `fence.acq` (R144): Acquire fence at a scope, with optional engine, record-cache and instruction flags. -/
  | fenceAcq (f : BitVec 1) (s : BitVec 3) (i : BitVec 1) (r : BitVec 1) (e : BitVec 1)
  /-- `fence.rel` (R144): Release fence at a scope. -/
  | fenceRel (f : BitVec 1) (s : BitVec 3) (i : BitVec 1) (r : BitVec 1) (e : BitVec 1)
  /-- `fence.acqrel` (R144): Acquire-release fence at a scope. -/
  | fenceAcqrel (f : BitVec 1) (s : BitVec 3) (i : BitVec 1) (r : BitVec 1) (e : BitVec 1)
  /-- `fence.sc` (R144): Sequentially consistent fence at a scope. -/
  | fenceSc (f : BitVec 1) (s : BitVec 3) (i : BitVec 1) (r : BitVec 1) (e : BitVec 1)
  /-- `sld.n8` (R176): Stash load of a zero-extended byte. -/
  | sldN8 (d : BitVec 7) (a : BitVec 7) (i : BitVec 9)
  /-- `sld.i8` (R176): Stash load of a sign-extended byte. -/
  | sldI8 (d : BitVec 7) (a : BitVec 7) (i : BitVec 9)
  /-- `sld.n16` (R176): Stash load of a zero-extended halfword. -/
  | sldN16 (d : BitVec 7) (a : BitVec 7) (i : BitVec 9)
  /-- `sld.i16` (R176): Stash load of a sign-extended halfword. -/
  | sldI16 (d : BitVec 7) (a : BitVec 7) (i : BitVec 9)
  /-- `sld.b32` (R176): Stash load of a word. -/
  | sldB32 (d : BitVec 7) (a : BitVec 7) (i : BitVec 9)
  /-- `sld.b64` (R176): Stash load of a pair. -/
  | sldB64 (d : BitVec 7) (a : BitVec 7) (i : BitVec 9)
  /-- `sld.b128` (R176): Stash load of a group. -/
  | sldB128 (d : BitVec 7) (a : BitVec 7) (i : BitVec 9)
  /-- `sst.b8` (R176): Stash store of a byte. -/
  | sstB8 (d : BitVec 7) (a : BitVec 7) (i : BitVec 9)
  /-- `sst.b16` (R176): Stash store of a halfword. -/
  | sstB16 (d : BitVec 7) (a : BitVec 7) (i : BitVec 9)
  /-- `sst.b32` (R176): Stash store of a word. -/
  | sstB32 (d : BitVec 7) (a : BitVec 7) (i : BitVec 9)
  /-- `sst.b64` (R176): Stash store of a pair. -/
  | sstB64 (d : BitVec 7) (a : BitVec 7) (i : BitVec 9)
  /-- `sst.b128` (R176): Stash store of a group. -/
  | sstB128 (d : BitVec 7) (a : BitVec 7) (i : BitVec 9)
  /-- `cld.n8` (R197): Constant-store load of a zero-extended byte. -/
  | cldN8 (d : BitVec 7) (a : BitVec 7) (i : BitVec 9)
  /-- `cld.i8` (R197): Constant-store load of a sign-extended byte. -/
  | cldI8 (d : BitVec 7) (a : BitVec 7) (i : BitVec 9)
  /-- `cld.n16` (R197): Constant-store load of a zero-extended halfword. -/
  | cldN16 (d : BitVec 7) (a : BitVec 7) (i : BitVec 9)
  /-- `cld.i16` (R197): Constant-store load of a sign-extended halfword. -/
  | cldI16 (d : BitVec 7) (a : BitVec 7) (i : BitVec 9)
  /-- `cld.b32` (R197): Constant-store load of a word. -/
  | cldB32 (d : BitVec 7) (a : BitVec 7) (i : BitVec 9)
  /-- `cld.b64` (R197): Constant-store load of a pair. -/
  | cldB64 (d : BitVec 7) (a : BitVec 7) (i : BitVec 9)
  /-- `cld.b128` (R197): Constant-store load of a group. -/
  | cldB128 (d : BitVec 7) (a : BitVec 7) (i : BitVec 9)
  /-- `pld.n8` (R277): Pool load of a zero-extended byte. -/
  | pldN8 (d : BitVec 7) (a : BitVec 7) (i : BitVec 8)
  /-- `pld.i8` (R277): Pool load of a sign-extended byte. -/
  | pldI8 (d : BitVec 7) (a : BitVec 7) (i : BitVec 8)
  /-- `pld.n16` (R277): Pool load of a zero-extended halfword. -/
  | pldN16 (d : BitVec 7) (a : BitVec 7) (i : BitVec 8)
  /-- `pld.i16` (R277): Pool load of a sign-extended halfword. -/
  | pldI16 (d : BitVec 7) (a : BitVec 7) (i : BitVec 8)
  /-- `pld.b32` (R277): Pool load of a word. -/
  | pldB32 (d : BitVec 7) (a : BitVec 7) (i : BitVec 8)
  /-- `pld.b64` (R277): Pool load of a pair. -/
  | pldB64 (d : BitVec 7) (a : BitVec 7) (i : BitVec 8)
  /-- `pld.b128` (R277): Pool load of a group. -/
  | pldB128 (d : BitVec 7) (a : BitVec 7) (i : BitVec 8)
  /-- `pst.b8` (R277): Pool store of a byte. -/
  | pstB8 (d : BitVec 7) (a : BitVec 7) (i : BitVec 8)
  /-- `pst.b16` (R277): Pool store of a halfword. -/
  | pstB16 (d : BitVec 7) (a : BitVec 7) (i : BitVec 8)
  /-- `pst.b32` (R277): Pool store of a word. -/
  | pstB32 (d : BitVec 7) (a : BitVec 7) (i : BitVec 8)
  /-- `pst.b64` (R277): Pool store of a pair. -/
  | pstB64 (d : BitVec 7) (a : BitVec 7) (i : BitVec 8)
  /-- `pst.b128` (R277): Pool store of a group. -/
  | pstB128 (d : BitVec 7) (a : BitVec 7) (i : BitVec 8)
  /-- `promote.pin` (R343): Pins the rows of a byte range in the fast segment, in the background. -/
  | promotePin (d : BitVec 7) (a : BitVec 7) (b : BitVec 6)
  /-- `promote.cache` (R343): Brings the rows of a range into the near-row cache. -/
  | promoteCache (d : BitVec 7) (a : BitVec 7) (b : BitVec 6)
  /-- `demote` (R343): Clears pin and reference bits of the rows of a range. -/
  | demote (d : BitVec 7) (a : BitVec 7) (b : BitVec 6)
  /-- `pfl2` (R343): Prefetches the lines of a range into the L2. -/
  | pfl2 (d : BitVec 7) (a : BitVec 7) (b : BitVec 6)
  /-- `` (R343): The background work of a steering lane ends and its ST count falls. -/
  | steeringComplete (fib : Nat) (id : Nat)
  /-- `sst.sliv` (R201): Stores a dense stash vector as a sliver record. -/
  | sstSliv (d : BitVec 7) (a : BitVec 7) (f : BitVec 2)
  /-- `sld.sliv` (R202): Expands a sliver record into a dense stash vector. -/
  | sldSliv (d : BitVec 7) (a : BitVec 7) (f : BitVec 2)
  /-- `shdr` (R203): Loads a sliver record header into four registers. -/
  | shdr (d : BitVec 7) (a : BitVec 7)
  /-- `smap` (R192): Reads a mapping descriptor and sets up or finds a stash mapping. -/
  | smap (d : BitVec 6) (a : BitVec 6) (b : BitVec 6)
  /-- `sunmap` (R193): Writes back, releases and frees a mapping slot. -/
  | sunmap (a : BitVec 6)
  /-- `swb` (R193): Writes back a slot's dirty bytes. -/
  | swb (a : BitVec 6)
  /-- `sinv` (R193): Releases registrations and discards dirty bytes of a slot. -/
  | sinv (a : BitVec 6)
  /-- `sfind` (R194): Finds a kept region by key and places it in a slot. -/
  | sfind (d : BitVec 6) (a : BitVec 6) (b : BitVec 6)
  /-- `sinfo` (R194): Reports a slot's state. -/
  | sinfo (d : BitVec 6) (a : BitVec 6)
  /-- `` (R183): A window line's fill or write registration returns and the waiting word proceeds. -/
  | stashFillComplete (map : Nat) (line : Nat)
  /-- `qinit` (R213): Initialises a bobbin queue from a descriptor. -/
  | qinit (d : BitVec 6) (q : BitVec 4)
  /-- `qpush` (R214): Pushes a value, waiting on the allowance. -/
  | qpush (v : BitVec 7) (q : BitVec 4)
  /-- `qpop` (R214): Pops a value, waiting while the queue is empty. -/
  | qpop (v : BitVec 7) (q : BitVec 4)
  /-- `qhpush` (R214): Pushes a tile handle once the tile is not busy. -/
  | qhpush (v : BitVec 7) (q : BitVec 4)
  /-- `qhpop` (R214): Pops a tile handle. -/
  | qhpop (v : BitVec 7) (q : BitVec 4)
  /-- `qallow` (R214): Sets the queue's send allowance. -/
  | qallow (v : BitVec 7) (q : BitVec 4)
  /-- `reel.get` (R220): Copies a box from a buffer to the stash. -/
  | reelGet (a : BitVec 6) (b : BitVec 6) (k : BitVec 4) (e : BitVec 1) (c : BitVec 3)
  /-- `reel.put` (R220): Copies a box from the stash to a buffer. -/
  | reelPut (a : BitVec 6) (b : BitVec 6) (k : BitVec 4) (e : BitVec 1) (c : BitVec 3)
  /-- `reel.pget` (R220): Copies a box from the cluster pool to the stash. -/
  | reelPget (a : BitVec 6) (b : BitVec 6) (k : BitVec 4) (e : BitVec 1) (c : BitVec 3)
  /-- `reel.pput` (R220): Copies a box from the stash to the cluster pool. -/
  | reelPput (a : BitVec 6) (b : BitVec 6) (k : BitVec 4) (e : BitVec 1) (c : BitVec 3)
  /-- `reel.exp` (R221): Expands storage records into the stash. -/
  | reelExp (a : BitVec 6) (b : BitVec 6) (k : BitVec 4) (e : BitVec 1) (c : BitVec 3)
  /-- `reel.dec` (R224): Decrypts an AES-GCM box into quarantine for the stash. -/
  | reelDec (a : BitVec 6) (b : BitVec 6) (k : BitVec 4) (e : BitVec 1) (c : BitVec 3)
  /-- `reel.rget` (R223): Copies a box from a remote-device buffer to the stash. -/
  | reelRget (a : BitVec 6) (b : BitVec 6) (k : BitVec 4) (e : BitVec 1) (c : BitVec 3)
  /-- `reel.rred` (R223): Reduces stash elements into remote elements. -/
  | reelRred (a : BitVec 6) (b : BitVec 6) (k : BitVec 4) (e : BitVec 1) (c : BitVec 3)
  /-- `reel.wp` (R226): Reads a channel's write pointer and clears its accumulated status. -/
  | reelWp (a : BitVec 6) (b : BitVec 6) (c : BitVec 3)
  /-- `` (R226): A reel line completes, advancing the write pointer, crediting the knot and lowering CP when due. -/
  | reelLineComplete (sk : Nat) (ch : Nat)
  /-- `` (R386): When the tag is computed, checks slot, stream and counter and releases or discards the plaintext. -/
  | reelDecVerify (sk : Nat) (ch : Nat)
  /-- `mma` (R250): Front-issued tile product D := A·Bᵀ (+D). -/
  | mma (d : BitVec 4) (a : BitVec 4) (b : BitVec 4) (s : BitVec 1) (c : BitVec 1)
  /-- `mma` (R250): Fibre tie whose phase completion issues a tile product. -/
  | mmaKnotted (d : BitVec 4) (a : BitVec 4) (b : BitVec 4) (k : BitVec 4) (s : BitVec 1) (c : BitVec 1)
  /-- `mmz` (R252): Front-issued sparse FP8 tile product. -/
  | mmz (d : BitVec 4) (a : BitVec 4) (b : BitVec 4) (s : BitVec 1) (c : BitVec 1)
  /-- `mmz` (R252): Knotted sparse FP8 tile product. -/
  | mmzKnotted (d : BitVec 4) (a : BitVec 4) (b : BitVec 4) (k : BitVec 4) (s : BitVec 1) (c : BitVec 1)
  /-- `ply` (R287): Front-issued member of a quad-plane joint product. -/
  | ply (d : BitVec 4) (a : BitVec 4) (b : BitVec 4) (s : BitVec 1) (c : BitVec 1)
  /-- `ply` (R289): Knotted member of a quad-plane joint product. -/
  | plyKnotted (d : BitVec 4) (a : BitVec 4) (b : BitVec 4) (k : BitVec 4) (s : BitVec 1) (c : BitVec 1)
  /-- `tld` (R255): Front-issued tile load from the stash. -/
  | tld (d : BitVec 4) (w : BitVec 1) (p : BitVec 1) (c : BitVec 1)
  /-- `tld` (R255): Knotted tile load from the stash. -/
  | tldKnotted (d : BitVec 4) (k : BitVec 4) (w : BitVec 1) (p : BitVec 1) (c : BitVec 1)
  /-- `tst` (R257): Front-issued tile store to the stash with optional conversion. -/
  | tst (a : BitVec 4) (n : BitVec 1) (v : BitVec 2)
  /-- `tst` (R257): Knotted tile store to the stash. -/
  | tstKnotted (a : BitVec 4) (k : BitVec 4) (n : BitVec 1) (v : BitVec 2)
  /-- `tzero` (R258): Front-issued tile clear. -/
  | tzero (d : BitVec 4)
  /-- `tzero` (R258): Knotted tile clear. -/
  | tzeroKnotted (d : BitVec 4) (k : BitVec 4)
  /-- `tscl` (R256): Front-issued scale load of an A or B tile. -/
  | tscl (d : BitVec 4)
  /-- `tscl` (R256): Knotted scale load. -/
  | tsclKnotted (d : BitVec 4) (k : BitVec 4)
  /-- `tcvt` (R260): Front-issued element conversion between tiles. -/
  | tcvt (d : BitVec 4) (a : BitVec 4)
  /-- `tcvt` (R260): Knotted element conversion between tiles. -/
  | tcvtKnotted (d : BitVec 4) (a : BitVec 4) (k : BitVec 4)
  /-- `trd` (R261): Knotted read of a kilobyte tile slice into members' registers. -/
  | trd (t : BitVec 4) (d : BitVec 7) (k : BitVec 4) (s : BitVec 4)
  /-- `twr` (R261): Knotted write of members' registers into a tile slice. -/
  | twr (t : BitVec 4) (d : BitVec 7) (k : BitVec 4) (s : BitVec 4)
  /-- `tstat` (R262): Front context reads, and optionally clears, a tile's status. -/
  | tstat (t : BitVec 4) (d : BitVec 6) (c : BitVec 1)
  /-- `tstat` (R262): Knotted status read into members' pairs. -/
  | tstatKnotted (t : BitVec 4) (d : BitVec 7) (k : BitVec 4) (c : BitVec 1)
  /-- `` (R247): A tile operation completes, clearing busy, marking status and lowering TL in order. -/
  | tileOpComplete (sk : Nat)
  /-- `` (R286): When all sixteen paired plies have issued, compares them and starts or fails the ply. -/
  | plyBegin (launch : Nat) (plane : Nat)
  /-- `` (R289): The ply completes in all members, releasing blocks and completing knot phases. -/
  | plyComplete (launch : Nat) (plane : Nat)
  /-- `` (R291): A begun ply fails on a core leaving service or a link failure. -/
  | plyFail (launch : Nat) (plane : Nat)
  /-- `dload` (R233): Knotted tie whose phase completion opens a draft set. -/
  | dload (a : BitVec 7) (k : BitVec 4)
  /-- `dnext` (R234): Deals the fibre its next flattened iteration. -/
  | dnext (d : BitVec 7) (p : BitVec 3)
  /-- `dred` (R235): Adds a term exactly into the owner's accumulator. -/
  | dred (a : BitVec 7) (t : BitVec 2) (o : BitVec 2)
  /-- `dget` (R235): Waits until all terms are reduced and reads the owner's result. -/
  | dget (d : BitVec 7) (t : BitVec 2) (o : BitVec 2)
  /-- `dend` (R236): Knotted tie whose phase completion closes the draft set. -/
  | dend (k : BitVec 4)
  /-- `dstat` (R238): Reads the draft unit's state. -/
  | dstat (d : BitVec 7)
  /-- `bar.skein` (R171): Arrives at and waits for a skein barrier generation. -/
  | barSkein
  /-- `barv.skein` (R171): Arrives at a skein barrier returning the generation. -/
  | barvSkein (a : BitVec 7)
  /-- `barw.skein` (R171): Waits for a skein barrier generation. -/
  | barwSkein (a : BitVec 7)
  /-- `bar.clus` (R281): Arrives at and waits for a cluster barrier generation. -/
  | barClus
  /-- `barv.clus` (R281): Arrives at a cluster barrier. -/
  | barvClus (a : BitVec 7)
  /-- `barw.clus` (R281): Waits for a cluster barrier generation. -/
  | barwClus (a : BitVec 7)
  /-- `bar.die` (R297): Arrives at and waits for a die barrier generation. -/
  | barDie
  /-- `barv.die` (R297): Arrives at a die barrier. -/
  | barvDie (a : BitVec 7)
  /-- `barw.die` (R297): Waits for a die barrier generation. -/
  | barwDie (a : BitVec 7)
  /-- `bar.pkg` (R328): Arrives at and waits for a package barrier generation. -/
  | barPkg
  /-- `barv.pkg` (R328): Arrives at a package barrier. -/
  | barvPkg (a : BitVec 7)
  /-- `barw.pkg` (R328): Waits for a package barrier generation. -/
  | barwPkg (a : BitVec 7)
  /-- `add` (R206): Front 64-bit add. -/
  | frontAdd (d : BitVec 6) (a : BitVec 6) (b : BitVec 6)
  /-- `sub` (R206): Front 64-bit subtract. -/
  | frontSub (d : BitVec 6) (a : BitVec 6) (b : BitVec 6)
  /-- `mul` (R206): Front 64-bit multiply. -/
  | frontMul (d : BitVec 6) (a : BitVec 6) (b : BitVec 6)
  /-- `and` (R206): Front bitwise and. -/
  | frontAnd (d : BitVec 6) (a : BitVec 6) (b : BitVec 6)
  /-- `or` (R206): Front bitwise or. -/
  | frontOr (d : BitVec 6) (a : BitVec 6) (b : BitVec 6)
  /-- `xor` (R206): Front bitwise xor. -/
  | frontXor (d : BitVec 6) (a : BitVec 6) (b : BitVec 6)
  /-- `shl` (R206): Front shift left. -/
  | frontShl (d : BitVec 6) (a : BitVec 6) (b : BitVec 6)
  /-- `shr` (R206): Front logical shift right. -/
  | frontShr (d : BitVec 6) (a : BitVec 6) (b : BitVec 6)
  /-- `sra` (R206): Front arithmetic shift right. -/
  | frontSra (d : BitVec 6) (a : BitVec 6) (b : BitVec 6)
  /-- `min` (R206): Front signed minimum. -/
  | frontMin (d : BitVec 6) (a : BitVec 6) (b : BitVec 6)
  /-- `max` (R206): Front signed maximum. -/
  | frontMax (d : BitVec 6) (a : BitVec 6) (b : BitVec 6)
  /-- `mov` (R206): Front register move. -/
  | frontMov (d : BitVec 6) (a : BitVec 6)
  /-- `cmps` (R207): Sets a q predicate from a sign condition of an s register. -/
  | cmps (q : BitVec 3) (a : BitVec 6) (c : BitVec 6)
  /-- `wtc` (R207): Writes a tile control register once the tile is not busy. -/
  | wtc (t : BitVec 4) (a : BitVec 6)
  /-- `rtc` (R207): Reads a tile control register. -/
  | rtc (d : BitVec 6) (t : BitVec 4)
  /-- `dqpush` (R207): Appends a decision to the skein's decision queue, waiting for room. -/
  | dqpush (g : BitVec 7) (q : BitVec 3) (a : BitVec 6)
  /-- `movsi` (R208): Writes a sign-extended 17-bit immediate. -/
  | movsi (d : BitVec 6) (i : BitVec 17)
  /-- `addsi` (R208): Adds a sign-extended 17-bit immediate. -/
  | addsi (d : BitVec 6) (i : BitVec 17)
  /-- `shlor` (R208): Shifts left by 17 and ors an immediate. -/
  | shlor (d : BitVec 6) (i : BitVec 17)
  /-- `cmpi.eq` (R208): Sets a q predicate on equality with an immediate. -/
  | cmpiEq (d : BitVec 6) (q : BitVec 3) (i : BitVec 14)
  /-- `cmpi.lt` (R208): Sets a q predicate on signed less-than an immediate. -/
  | cmpiLt (d : BitVec 6) (q : BitVec 3) (i : BitVec 14)
  /-- `cmpi.ltn` (R208): Sets a q predicate on unsigned less-than an immediate. -/
  | cmpiLtn (d : BitVec 6) (q : BitVec 3) (i : BitVec 14)
  /-- `fbra` (R209): Guarded front branch. -/
  | fbra (q : BitVec 3) (n : BitVec 1) (o : BitVec 20)
  /-- `fcall` (R209): Guarded front call linking in s63. -/
  | fcall (q : BitVec 3) (n : BitVec 1) (o : BitVec 20)
  /-- `fret` (R209): Guarded front return to s63. -/
  | fret (q : BitVec 3) (n : BitVec 1)
  /-- `fjmpr` (R209): Guarded front jump to an s register. -/
  | fjmpr (q : BitVec 3) (n : BitVec 1) (a : BitVec 6)
  /-- `trap` (R114): Raises USER_TRAP with a code. -/
  | trap (c : BitVec 8)
  /-- `tret` (R123): Returns from a trap handler to tr.pc. -/
  | tret
  /-- `rsr` (R115): Fibre reads a special register. -/
  | rsr (d : BitVec 7) (r : BitVec 8)
  /-- `rsr` (R115): Front context reads a permitted special register. -/
  | rsrFront (d : BitVec 6) (r : BitVec 8)
  /-- `wsr` (R115): Fibre writes a special register. -/
  | wsr (a : BitVec 7) (r : BitVec 8)
  /-- `wsr` (R115): Front context writes sr.ctl. -/
  | wsrFront (a : BitVec 6) (r : BitVec 8)
  /-- `lovt` (R116): Fibre loads the overflow table after pending narrowings complete. -/
  | lovt (a : BitVec 7)
  /-- `lovt` (R116): Front context loads the overflow table. -/
  | lovtFront (a : BitVec 6)
  /-- `launch` (R320): Copies a launch record into a launch queue, waiting for room. -/
  | launch (a : BitVec 6)
  /-- `rdclk` (R115): Fibre reads sr.clk into a pair. -/
  | rdclk (d : BitVec 7)
  /-- `rdclk` (R115): Front context reads sr.clk. -/
  | rdclkFront (d : BitVec 6)
  /-- `halt` (R118): Stops every fibre and the front context of the skein. -/
  | halt
  /-- `` (R42): A strand or front context begins a clause once its counter thresholds are met. -/
  | clauseIssue (who : Who)
  /-- `` (R146): A load's data returns, writing its destination and lowering LD. -/
  | loadComplete (c : Ctx) (id : Nat)
  /-- `` (R146): A store or atomic is performed and ST falls. -/
  | storePerformed (c : Ctx)
  /-- `` (R159): A bin's oldest fibre reaches BINAGE cycles and the bin becomes eligible. -/
  | binAged (core : Nat) (bin : Nat)
  /-- `` (R159): Draws an eligible bin into one strand and places it on an issue slot. -/
  | strandDraw (core : Nat)
  /-- `` (R160): A slot exchanges a stalled or yielding active strand for a ready pending one. -/
  | strandExchange (core : Nat) (slot : Nat)
  /-- `` (R157): Admits a skein once resources are free: reserves, loads bindings, mappings and constants, starts contexts. -/
  | skeinAdmission (sk : Nat)
  /-- `` (R110): A skein ends once its contexts have ended and CP and TL are 0, returning resources. -/
  | skeinEnd (sk : Nat)
  /-- `` (R126): Posts a stop record to the die's stop queue once enabled and not full. -/
  | stopRecordPost (die : Nat)
  /-- `` (R127): SACT 0: resumes a stopped target at tr.pc. -/
  | stopResume (die : Nat) (target : StopTarget)
  /-- `` (R127): SACT 1: resumes a stopped target at SPC. -/
  | stopResumeAt (die : Nat) (target : StopTarget)
  /-- `` (R127): SACT 2: ends a stopped fibre or front context. -/
  | stopEndTarget (die : Nat) (target : StopTarget)
  /-- `` (R127): SACT 3: releases a halted skein or resumes a held admission. -/
  | stopRelease (die : Nat) (target : StopTarget)
  /-- `` (R127): SACT 4: reads a target register into SDATA. -/
  | stopReadRegister (die : Nat) (target : StopTarget)
  /-- `` (R127): SACT 5: writes SDATA to a target register. -/
  | stopWriteRegister (die : Nat) (target : StopTarget)
  /-- `` (R127): SACT 6 or 7: refused, setting SERR. -/
  | stopCommandRefused (die : Nat) (action : BitVec 3)
  /-- `` (R127): A stop command takes effect and SBUSY falls. -/
  | stopCommandDone (die : Nat)
  /-- `` (R395): The skein's watchdog reaches WDLIM and its fibres and front context trap with WATCHDOG. -/
  | watchdogExpiry (sk : Nat)
  /-- `` (R309): A batch walk ends, setting A/D and returning its translation or cause to every waiting lane. -/
  | pageWalkComplete (die : Nat) (ctx : Nat) (page : Nat)
  /-- `` (R310): Posts a fault record to the die's fault queue once enabled, not full and under 256 open. -/
  | faultPost (die : Nat)
  /-- `` (R311): RTAG write with DISCARD 0: resumes every stopper of the record. -/
  | faultResume (die : Nat) (tag : BitVec 16)
  /-- `` (R311): RTAG write with DISCARD 1: closes the record leaving stoppers stopped. -/
  | faultDiscard (die : Nat) (tag : BitVec 16)
  /-- `` (R312): INVKIND 0: removes cached translations of a VA range of a context. -/
  | invalidateVaRange (die : Nat) (ctx : BitVec 16)
  /-- `` (R312): INVKIND 1: removes all translations of a context. -/
  | invalidateContextTranslations (die : Nat) (ctx : BitVec 16)
  /-- `` (R312): INVKIND 2: removes cached buffer entries of a context. -/
  | invalidateBufferEntries (die : Nat) (ctx : BitVec 16)
  /-- `` (R312): INVKIND 3: removes everything cached for a context. -/
  | invalidateContextAll (die : Nat) (ctx : BitVec 16)
  /-- `` (R312): INVKIND 4: removes everything cached for all contexts. -/
  | invalidateAllContexts (die : Nat)
  /-- `` (R312): Removed entries' accesses have been performed and INVBUSY falls. -/
  | invalidateDone (die : Nat)
  /-- `` (R302): At each 65,536-cycle window end, splits, moves or merges holdership regions. -/
  | trackingWindow (die : Nat)
  /-- `` (R303): After the old holder drains, hands dirty bytes and registrations to the new holder. -/
  | holderMove (region : Nat) (dest : Nat)
  /-- `` (R364): A Hahan write packet arrives, is checked against its stamp, applied or held early. -/
  | packetArrival (src : Nat) (dst : Nat)
  /-- `` (R361): The sender receives acceptance with the applied count, releasing later sends. -/
  | packetAck (src : Nat) (dst : Nat)
  /-- `` (R365): A packet lost on a link is replayed by its sender. -/
  | linkReplay (src : Nat) (dst : Nat)
  /-- `` (R368): RMDIE write or fault removes a compute die, resetting stamps and poisoning its lines. -/
  | dieRemoval (die : Nat)
  /-- `` (R369): RESYNC write: stops issue, drains packets, clears stamps and resends. -/
  | resync
  /-- `` (R369): A fabric fault that replay does not clear starts a resynchronisation. -/
  | fabricFault
  /-- `` (R321): Advances LSEED and takes a record from a ticket-weighted eligible queue. -/
  | lotteryDraw
  /-- `` (R325): Places a waiting die group's cluster groups on cores when they fit. -/
  | placement
  /-- `` (R325): A waiting launch reaches BLOCKAGE cycles and blocks later launches. -/
  | blockageExpiry (launch : Nat)
  /-- `` (R329): Stops, drains and saves a die group to its save area. -/
  | contextSwitchOut (launch : Nat) (grp : Nat)
  /-- `` (R329): Loads a die group's saved images and resumes it. -/
  | contextSwitchIn (launch : Nat) (grp : Nat)
  /-- `` (R330): A die group's quantum counter reaches QUANTUM and it becomes pre-emptible. -/
  | quantumExpiry (launch : Nat) (grp : Nat)
  /-- `` (R332): Write to 0x020: aborts an accepted launch. -/
  | abort (queue : BitVec 6) (idx : BitVec 16)
  /-- `` (R332): The abort finishes, LDONE rises and ABUSY falls. -/
  | abortDone
  /-- `` (R333): A control processor leaves service and survivors take its queues. -/
  | controlProcessorFailover (cp : Nat)
  /-- `` (R319): Host write of WIDX publishing records, ignored with QWERR when invalid. -/
  | widxWrite (queue : BitVec 6) (value : BitVec 16)
  /-- `` (R318): Write to a queue's control word, gated by QEN. -/
  | queueControlWrite (queue : BitVec 6) (off : BitVec 6) (value : BitVec 64)
  /-- `` (R321): Write of LSEED restarting the generator; 0 is ignored. -/
  | lseedWrite (value : BitVec 32)
  /-- `` (R337): An access reaches a DRAM bank and acts on its row by latency class. -/
  | bankAccess (bank : Nat)
  /-- `` (R346): An owed all-bank refresh of a pseudo-channel issues. -/
  | refresh (pseudo : Nat)
  /-- `` (R347): A stack raises an alert and the controller mitigates it. -/
  | activationAlert (bank : Nat)
  /-- `` (R349): A burst fails its CRC and is replayed or poisoned. -/
  | burstCrcFail (sector : Nat) (lane : Nat) (again : Bool)
  /-- `` (R350): Maps a failing lane to a spare after draining, or takes the channel down. -/
  | laneRepair (channel : Nat) (lane : Nat)
  /-- `` (R351): Periodic scrub reads rows, correcting or poisoning. -/
  | patrolScrub (sector : Nat) (correctable : Bool)
  /-- `` (R352): Write of UNPIN clears every pin bit in the stack's banks. -/
  | unpin (stack : BitVec 3)
  /-- `` (R352): Write of IDTAB, ignoring code 3 and locked writes. -/
  | idtabWrite (half : BitVec 1) (value : BitVec 64)
  /-- `` (R352): Write of 1 locks IDTAB until reset. -/
  | idlock (value : BitVec 1)
  /-- `` (R300): An uncorrectable L2 or directory error discards, poisons or loses a registration. -/
  | l2UncorrectableError (line : Nat) (entry : Bool)
  /-- `` (R292): A core or cluster leaves service, stopping or ending its groups. -/
  | clusterLeavesService (clus : Nat)
  /-- `` (R381): A host posted write through BAR2 is performed at the holder. -/
  | hostWrite (pa : BitVec 52) (data : List (BitVec 8)) (stream : Nat)
  /-- `` (R381): A host read through BAR2 completes after earlier posted writes. -/
  | hostRead (pa : BitVec 52) (n : Nat) (stream : Nat)
  /-- `` (R382): Unmasking a vector sends one pending message. -/
  | msixUnmask (fn : Nat) (vec : Nat)
  /-- `` (R384): Assigns contexts and queues to a TDI and records its configuration. -/
  | lockInterface (tdi : Nat) (stream : Nat) (ctxs : List Nat) (queues : List Nat) (config : List (BitVec 8))
  /-- `` (R384): A TDI enters ERROR, aborting its launches and clearing its key slots. -/
  | tdiError (tdi : Nat)
  /-- `` (R385): Installs a key slot after in-flight decryptions end. -/
  | keyset (slot : BitVec 6) (ctx : BitVec 16) (stream : BitVec 32) (key : BitVec 256)
  /-- `` (R385): Clears a key slot after in-flight decryptions end. -/
  | keyclr (slot : BitVec 6)
  /-- `` (R389): Returns the measurement registers signed by the device key. -/
  | getMeasurements
  /-- `` (R388): Reset: clears state, raises DEVINC, runs the verified boot chain extending measurements. -/
  | packageReset (images : List BootImage)
  /-- `` (R390): A Krytist request arrives at the home, checked for incarnation and export. -/
  | remoteRequest (req : RemoteReq)
  /-- `` (R148): A remote response arrives, retiring its lane or being discarded if lost. -/
  | remoteResponse (id : Nat) (resp : RemoteResp)
  /-- `` (R391): A request has no response after RTMO cycles and is treated as lost. -/
  | remoteTimeout (id : Nat)
  /-- `` (R391): A Krytist port fails, losing its flits and moving routes. -/
  | portDown (port : Nat)
  /-- `` (R391): A Krytist port comes up and an event is posted. -/
  | portUp (port : Nat)
  /-- `` (R397): Takes a core out of service, switching out its die groups. -/
  | repairCore (core : Nat)
  /-- `` (R397): Takes a die out of service by removal. -/
  | repairDie (die : Nat)
  /-- `` (R397): Replaces a UCIe lane with a spare. -/
  | repairUcieLane (group : Nat)
  /-- `` (R397): Replaces a Krytist lane with a spare. -/
  | repairKrytistLane (port : Nat)
  /-- `` (R397): RBACK 1: tests and returns a unit to service. -/
  | returnToService (kind : BitVec 2) (unit : BitVec 8)
  /-- `` (R397): A repair ends, setting HEVT[2] and clearing RBUSY. -/
  | repairDone
  /-- `` (R396): Ageing monitors update WEAR and raise the ageing alert at the threshold. -/
  | wearUpdate (die : Nat) (wear : BitVec 10) (days : BitVec 16)
  /-- `` (R398): Stops all issue, writes the dump and signals the host. -/
  | fatalError (cause : BitVec 8)
  /-- `` (R5): A write to a register with no row of its own, under its access code. -/
  | registerWrite (pa : BitVec 52) (value : BitVec 64)
  /-- `` (R283): A cluster instruction-cache line fill completes and strands waiting on that line become ready. -/
  | instructionCacheFill (clus : Nat) (line : Nat)
  /-- `` (R346): Each tREFI a pseudo-channel comes to owe one more all-bank refresh, forcing one at once when 8 are owed. -/
  | refreshOwed (pseudo : Nat)
  /-- `` (R384): A locked TDI enters RUN, after which only its selective IDE stream reaches its queues, key slots and confidential frames. -/
  | tdiEntersRun (tdi : Nat)
  deriving DecidableEq, Repr

end Sys2Proof
end

