-- ==== Sys2Proof/WellFormed.lean ====
section
/-! DEFINITION. Well-formed instructions: the codes and combinations of fields that the spec lists
for each form, beyond the widths of the fields, which the types of the constructors give. A word whose
fields break them raises ILLEGAL_FIELD, or ILLEGAL_OPCODE for a pair of types of `cvt` (02 R56). -/

namespace Sys2Proof

/-- The legal pairs of source and destination type of `cvt`: every pair of distinct scalar types
0-13, and the packed pairs of the table (03 R88). -/
def cvtPairLegal (src dst : Nat) : Bool :=
  (src ≤ 13 && dst ≤ 13 && src != dst) ||
  (src == 10 && 14 ≤ dst && dst ≤ 17) || (dst == 10 && 14 ≤ src && src ≤ 17) ||
  (14 ≤ src && src ≤ 17 && 14 ≤ dst && dst ≤ 17 && src != dst)

/-- The numbers of the special registers of 01 R15. -/
def specialListed (n : Nat) : Bool :=
  (n ≤ 6) || (8 ≤ n && n ≤ 0x0E) || (0x10 ≤ n && n ≤ 0x15) || (0x18 ≤ n && n ≤ 0x25)

/-- The special registers a front context may read: sr.skein, sr.core, sr.clus, sr.die, sr.pkg,
sr.clk and sr.ctl (04 R115). -/
def specialFrontReadable (n : Nat) : Bool :=
  (2 ≤ n && n ≤ 6) || n == 0x10 || n == 0x12

/-- The codes of an instruction lie in the ranges the spec lists (02 R50 R56). -/
def Instr.wf : Instr → Bool
  | .add _ _ _ => true
  | .sub _ _ _ => true
  | .mullo _ _ _ => true
  | .mulhiI32 _ _ _ => true
  | .mulhiN32 _ _ _ => true
  | .minI32 _ _ _ => true
  | .maxI32 _ _ _ => true
  | .minN32 _ _ _ => true
  | .maxN32 _ _ _ => true
  | .and _ _ _ => true
  | .or _ _ _ => true
  | .xor _ _ _ => true
  | .andn _ _ _ => true
  | .shl _ _ _ => true
  | .shrN32 _ _ _ => true
  | .shrI32 _ _ _ => true
  | .rotl _ _ _ => true
  | .abs _ _ => true
  | .neg _ _ => true
  | .clz _ _ => true
  | .popc _ _ => true
  | .brev _ _ => true
  | .bfxN32 _ _ _ => true
  | .bfxI32 _ _ _ => true
  | .bfi _ _ _ => true
  | .mad _ _ _ => true
  | .addi _ _ _ => true
  | .andi _ _ _ => true
  | .ori _ _ _ => true
  | .xori _ _ _ => true
  | .shli _ _ n => n.toNat ≤ 31
  | .shriN32 _ _ n => n.toNat ≤ 31
  | .shriI32 _ _ n => n.toNat ≤ 31
  | .rotli _ _ n => n.toNat ≤ 31
  | .lui _ _ => true
  | .movi _ _ => true
  | .addI64 _ _ _ => true
  | .subI64 _ _ _ => true
  | .mulloI64 _ _ _ => true
  | .mulhiI64 _ _ _ => true
  | .mulhiN64 _ _ _ => true
  | .minI64 _ _ _ => true
  | .maxI64 _ _ _ => true
  | .minN64 _ _ _ => true
  | .maxN64 _ _ _ => true
  | .shlB64 _ _ _ => true
  | .shrN64 _ _ _ => true
  | .shrI64 _ _ _ => true
  | .negI64 _ _ => true
  | .clzB64 _ _ => true
  | .popcB64 _ _ => true
  | .mulwI32 _ _ _ => true
  | .mulwN32 _ _ _ => true
  | .addxI64 _ _ _ => true
  | .cmpEqI32 _ _ _ => true
  | .cmpNeI32 _ _ _ => true
  | .cmpLtI32 _ _ _ => true
  | .cmpLeI32 _ _ _ => true
  | .cmpLtN32 _ _ _ => true
  | .cmpLeN32 _ _ _ => true
  | .cmpEqI64 _ _ _ => true
  | .cmpNeI64 _ _ _ => true
  | .cmpLtI64 _ _ _ => true
  | .cmpLeI64 _ _ _ => true
  | .cmpLtN64 _ _ _ => true
  | .cmpLeN64 _ _ _ => true
  | .cmpEqF32 _ _ _ => true
  | .cmpNeF32 _ _ _ => true
  | .cmpLtF32 _ _ _ => true
  | .cmpLeF32 _ _ _ => true
  | .cmpUnF32 _ _ _ => true
  | .cmpEqF64 _ _ _ => true
  | .cmpNeF64 _ _ _ => true
  | .cmpLtF64 _ _ _ => true
  | .cmpLeF64 _ _ _ => true
  | .cmpUnF64 _ _ _ => true
  | .pand _ _ _ => true
  | .por _ _ _ => true
  | .pxor _ _ _ => true
  | .pandn _ _ _ => true
  | .pnot _ _ => true
  | .pmov _ _ => true
  | .sel _ _ _ _ _ => true
  | .sel64 _ _ _ _ _ => true
  | .mov _ _ => true
  | .mov64 _ _ => true
  | .pget _ => true
  | .pput _ => true
  | .dqpop _ _ => true
  | .addF32 _ _ _ => true
  | .subF32 _ _ _ => true
  | .mulF32 _ _ _ => true
  | .fmaF32 _ _ _ => true
  | .minF32 _ _ _ => true
  | .maxF32 _ _ _ => true
  | .minmF32 _ _ _ => true
  | .maxmF32 _ _ _ => true
  | .absF32 _ _ => true
  | .negF32 _ _ => true
  | .copysignF32 _ _ _ => true
  | .divF32 _ _ _ => true
  | .sqrtF32 _ _ => true
  | .rcpF32 _ _ => true
  | .rsqrtF32 _ _ => true
  | .exp2F32 _ _ => true
  | .log2F32 _ _ => true
  | .tanhF32 _ _ => true
  | .floorF32 _ _ => true
  | .ceilF32 _ _ => true
  | .truncF32 _ _ => true
  | .rintF32 _ _ => true
  | .classF32 _ _ => true
  | .ldexpF32 _ _ _ => true
  | .addF64 _ _ _ => true
  | .subF64 _ _ _ => true
  | .mulF64 _ _ _ => true
  | .fmaF64 _ _ _ => true
  | .minF64 _ _ _ => true
  | .maxF64 _ _ _ => true
  | .absF64 _ _ => true
  | .negF64 _ _ => true
  | .divF64 _ _ _ => true
  | .sqrtF64 _ _ => true
  | .floorF64 _ _ => true
  | .ceilF64 _ _ => true
  | .truncF64 _ _ => true
  | .rintF64 _ _ => true
  | .addF16x2 _ _ _ => true
  | .subF16x2 _ _ _ => true
  | .mulF16x2 _ _ _ => true
  | .fmaF16x2 _ _ _ => true
  | .minF16x2 _ _ _ => true
  | .maxF16x2 _ _ _ => true
  | .addBf16x2 _ _ _ => true
  | .subBf16x2 _ _ _ => true
  | .mulBf16x2 _ _ _ => true
  | .fmaBf16x2 _ _ _ => true
  | .minBf16x2 _ _ _ => true
  | .maxBf16x2 _ _ _ => true
  | .cvt _ _ s t => cvtPairLegal s.toNat t.toNat
  | .dot2F16x2 _ _ _ => true
  | .dot2Bf16x2 _ _ _ => true
  | .dot4E4m3x4 _ _ _ => true
  | .dot4I8x4 _ _ _ => true
  | .dot4N8x4 _ _ _ => true
  | .mvc _ _ _ => true
  | .mvcAcc _ _ _ => true
  | .xshflIdx _ _ _ _ => true
  | .xshflUp _ _ _ _ => true
  | .xshflDown _ _ _ _ => true
  | .xshflXor _ _ _ _ => true
  | .xredAddI32 _ _ _ => true
  | .xredMinI32 _ _ _ => true
  | .xredMaxI32 _ _ _ => true
  | .xredMinN32 _ _ _ => true
  | .xredMaxN32 _ _ _ => true
  | .xredAnd _ _ _ => true
  | .xredOr _ _ _ => true
  | .xredXor _ _ _ => true
  | .xredAddF32 _ _ _ => true
  | .xredMinF32 _ _ _ => true
  | .xredMaxF32 _ _ _ => true
  | .ballot _ _ _ => true
  | .any _ _ _ => true
  | .all _ _ _ => true
  | .uni _ _ _ => true
  | .ldS64 _ _ _ _ => true
  | .stS64 _ _ _ _ => true
  | .ldS32 _ _ _ _ => true
  | .stS32 _ _ _ _ => true
  | .bra _ _ _ => true
  | .bruD _ _ => true
  | .bruP _ _ _ => true
  | .call _ _ _ => true
  | .jmp _ => true
  | .callr _ _ => true
  | .ret _ => true
  | .jmpU _ => true
  | .card => true
  | .exit => true
  | .exitRelay _ => true
  | .karm _ _ => true
  | .karmByte _ => true
  | .tie _ => true
  | .tiew _ => true
  | .kexpect _ _ => true
  | .kwait _ => true
  | .kstat _ _ => true
  | .wait _ _ _ _ => true
  | .nop => true
  | .yield => true
  | .ipf _ => true
  | .brk _ => true
  | .ldN8 _ _ _ _ _ => true
  | .ldI8 _ _ _ _ _ => true
  | .ldN16 _ _ _ _ _ => true
  | .ldI16 _ _ _ _ _ => true
  | .ldB32 _ _ _ _ _ => true
  | .ldB64 _ _ _ _ _ => true
  | .ldB128 _ _ _ _ _ => true
  | .stB8 _ _ _ _ => true
  | .stB16 _ _ _ _ => true
  | .stB32 _ _ _ _ => true
  | .stB64 _ _ _ _ => true
  | .stB128 _ _ _ _ => true
  | .ldaN8 _ _ _ s => s.toNat != 6
  | .ldaI8 _ _ _ s => s.toNat != 6
  | .ldaN16 _ _ _ s => s.toNat != 6
  | .ldaI16 _ _ _ s => s.toNat != 6
  | .ldaB32 _ _ _ s => s.toNat != 6
  | .ldaB64 _ _ _ s => s.toNat != 6
  | .ldaB128 _ _ _ s => s.toNat != 6
  | .stlB8 _ _ _ s => s.toNat != 6
  | .stlB16 _ _ _ s => s.toNat != 6
  | .stlB32 _ _ _ s => s.toNat != 6
  | .stlB64 _ _ _ s => s.toNat != 6
  | .stlB128 _ _ _ s => s.toNat != 6
  | .atomAddI32 _ _ _ _ => true
  | .atomAddI64 _ _ _ _ => true
  | .atomMinI32 _ _ _ _ => true
  | .atomMaxI32 _ _ _ _ => true
  | .atomMinN32 _ _ _ _ => true
  | .atomMaxN32 _ _ _ _ => true
  | .atomAndB32 _ _ _ _ => true
  | .atomOrB32 _ _ _ _ => true
  | .atomXorB32 _ _ _ _ => true
  | .atomXchgB32 _ _ _ _ => true
  | .atomXchgB64 _ _ _ _ => true
  | .atomCasB32 _ _ _ _ => true
  | .atomCasB64 _ _ _ _ => true
  | .atomCasB128 _ _ _ _ => true
  | .atomFaddF32 _ _ _ _ => true
  | .atomFaddF64 _ _ _ _ => true
  | .atomFaddF16x2 _ _ _ _ => true
  | .atomFaddBf16x2 _ _ _ _ => true
  | .atomFminF32 _ _ _ _ => true
  | .atomFmaxF32 _ _ _ _ => true
  | .atomFminF64 _ _ _ _ => true
  | .atomFmaxF64 _ _ _ _ => true
  | .atomFminF16x2 _ _ _ _ => true
  | .atomFmaxF16x2 _ _ _ _ => true
  | .atomFminBf16x2 _ _ _ _ => true
  | .atomFmaxBf16x2 _ _ _ _ => true
  | .aggregatorGroup _ => true
  | .fenceAcq f s i r e => s.toNat ≤ 5 && ((f == 1#1) == (i == 1#1 || r == 1#1 || e == 1#1))
  | .fenceRel f s i r e => s.toNat ≤ 5 && ((f == 1#1) == (i == 1#1 || r == 1#1 || e == 1#1))
  | .fenceAcqrel f s i r e => s.toNat ≤ 5 && ((f == 1#1) == (i == 1#1 || r == 1#1 || e == 1#1))
  | .fenceSc f s i r e => s.toNat ≤ 5 && ((f == 1#1) == (i == 1#1 || r == 1#1 || e == 1#1))
  | .sldN8 _ _ _ => true
  | .sldI8 _ _ _ => true
  | .sldN16 _ _ _ => true
  | .sldI16 _ _ _ => true
  | .sldB32 _ _ _ => true
  | .sldB64 _ _ _ => true
  | .sldB128 _ _ _ => true
  | .sstB8 _ _ _ => true
  | .sstB16 _ _ _ => true
  | .sstB32 _ _ _ => true
  | .sstB64 _ _ _ => true
  | .sstB128 _ _ _ => true
  | .cldN8 _ _ _ => true
  | .cldI8 _ _ _ => true
  | .cldN16 _ _ _ => true
  | .cldI16 _ _ _ => true
  | .cldB32 _ _ _ => true
  | .cldB64 _ _ _ => true
  | .cldB128 _ _ _ => true
  | .pldN8 _ _ _ => true
  | .pldI8 _ _ _ => true
  | .pldN16 _ _ _ => true
  | .pldI16 _ _ _ => true
  | .pldB32 _ _ _ => true
  | .pldB64 _ _ _ => true
  | .pldB128 _ _ _ => true
  | .pstB8 _ _ _ => true
  | .pstB16 _ _ _ => true
  | .pstB32 _ _ _ => true
  | .pstB64 _ _ _ => true
  | .pstB128 _ _ _ => true
  | .promotePin _ _ _ => true
  | .promoteCache _ _ _ => true
  | .demote _ _ _ => true
  | .pfl2 _ _ _ => true
  | .steeringComplete _ _ => true
  | .sstSliv _ _ f => f.toNat != 3
  | .sldSliv _ _ f => f.toNat != 3
  | .shdr _ _ => true
  | .smap _ _ _ => true
  | .sunmap _ => true
  | .swb _ => true
  | .sinv _ => true
  | .sfind _ _ _ => true
  | .sinfo _ _ => true
  | .stashFillComplete _ _ => true
  | .qinit _ _ => true
  | .qpush _ _ => true
  | .qpop _ _ => true
  | .qhpush _ _ => true
  | .qhpop _ _ => true
  | .qallow _ _ => true
  | .reelGet _ _ k e _ => (e == 1#1) || (k == 0#4)
  | .reelPut _ _ k e _ => (e == 1#1) || (k == 0#4)
  | .reelPget _ _ k e _ => (e == 1#1) || (k == 0#4)
  | .reelPput _ _ k e _ => (e == 1#1) || (k == 0#4)
  | .reelExp _ _ k e _ => (e == 1#1) || (k == 0#4)
  | .reelDec _ _ k e _ => (e == 1#1) || (k == 0#4)
  | .reelRget _ _ k e _ => (e == 1#1) || (k == 0#4)
  | .reelRred _ _ k e _ => (e == 1#1) || (k == 0#4)
  | .reelWp a b _ => a != b
  | .reelLineComplete _ _ => true
  | .reelDecVerify _ _ => true
  | .mma _ _ _ _ _ => true
  | .mmaKnotted _ _ _ k _ _ => k.toNat != 15
  | .mmz _ _ _ _ _ => true
  | .mmzKnotted _ _ _ k _ _ => k.toNat != 15
  | .ply _ _ _ _ _ => true
  | .plyKnotted _ _ _ k _ _ => k.toNat != 15
  | .tld _ _ _ _ => true
  | .tldKnotted _ k _ _ _ => k.toNat != 15
  | .tst _ _ _ => true
  | .tstKnotted _ k _ _ => k.toNat != 15
  | .tzero _ => true
  | .tzeroKnotted _ k => k.toNat != 15
  | .tscl _ => true
  | .tsclKnotted _ k => k.toNat != 15
  | .tcvt _ _ => true
  | .tcvtKnotted _ _ k => k.toNat != 15
  | .trd _ _ k _ => k.toNat != 15
  | .twr _ _ k _ => k.toNat != 15
  | .tstat _ _ _ => true
  | .tstatKnotted _ _ k _ => k.toNat != 15
  | .tileOpComplete _ => true
  | .plyBegin _ _ => true
  | .plyComplete _ _ => true
  | .plyFail _ _ => true
  | .dload _ _ => true
  | .dnext _ _ => true
  | .dred _ t o => t.toNat ≤ 2 && o.toNat ≤ 2
  | .dget _ t o => t.toNat ≤ 2 && o.toNat ≤ 2
  | .dend _ => true
  | .dstat _ => true
  | .barSkein => true
  | .barvSkein _ => true
  | .barwSkein _ => true
  | .barClus => true
  | .barvClus _ => true
  | .barwClus _ => true
  | .barDie => true
  | .barvDie _ => true
  | .barwDie _ => true
  | .barPkg => true
  | .barvPkg _ => true
  | .barwPkg _ => true
  | .frontAdd _ _ _ => true
  | .frontSub _ _ _ => true
  | .frontMul _ _ _ => true
  | .frontAnd _ _ _ => true
  | .frontOr _ _ _ => true
  | .frontXor _ _ _ => true
  | .frontShl _ _ _ => true
  | .frontShr _ _ _ => true
  | .frontSra _ _ _ => true
  | .frontMin _ _ _ => true
  | .frontMax _ _ _ => true
  | .frontMov _ _ => true
  | .cmps _ _ c => c.toNat ≤ 5
  | .wtc _ _ => true
  | .rtc _ _ => true
  | .dqpush _ _ _ => true
  | .movsi _ _ => true
  | .addsi _ _ => true
  | .shlor _ _ => true
  | .cmpiEq _ _ _ => true
  | .cmpiLt _ _ _ => true
  | .cmpiLtn _ _ _ => true
  | .fbra _ _ _ => true
  | .fcall _ _ _ => true
  | .fret _ _ => true
  | .fjmpr _ _ _ => true
  | .trap _ => true
  | .tret => true
  | .rsr _ r => specialListed r.toNat
  | .rsrFront _ r => specialFrontReadable r.toNat
  | .wsr _ r => specialListed r.toNat
  | .wsrFront _ r => r.toNat == 0x12
  | .lovt _ => true
  | .lovtFront _ => true
  | .launch _ => true
  | .rdclk _ => true
  | .rdclkFront _ => true
  | .halt => true
  | .clauseIssue _ => true
  | .loadComplete _ _ => true
  | .storePerformed _ => true
  | .binAged _ _ => true
  | .strandDraw _ => true
  | .strandExchange _ _ => true
  | .skeinAdmission _ => true
  | .skeinEnd _ => true
  | .stopRecordPost _ => true
  | .stopResume _ _ => true
  | .stopResumeAt _ _ => true
  | .stopEndTarget _ _ => true
  | .stopRelease _ _ => true
  | .stopReadRegister _ _ => true
  | .stopWriteRegister _ _ => true
  | .stopCommandRefused _ _ => true
  | .stopCommandDone _ => true
  | .watchdogExpiry _ => true
  | .pageWalkComplete _ _ _ => true
  | .faultPost _ => true
  | .faultResume _ _ => true
  | .faultDiscard _ _ => true
  | .invalidateVaRange _ _ => true
  | .invalidateContextTranslations _ _ => true
  | .invalidateBufferEntries _ _ => true
  | .invalidateContextAll _ _ => true
  | .invalidateAllContexts _ => true
  | .invalidateDone _ => true
  | .trackingWindow _ => true
  | .holderMove _ _ => true
  | .packetArrival _ _ => true
  | .packetAck _ _ => true
  | .linkReplay _ _ => true
  | .dieRemoval _ => true
  | .resync => true
  | .fabricFault => true
  | .lotteryDraw => true
  | .placement => true
  | .blockageExpiry _ => true
  | .contextSwitchOut _ _ => true
  | .contextSwitchIn _ _ => true
  | .quantumExpiry _ _ => true
  | .abort _ _ => true
  | .abortDone => true
  | .controlProcessorFailover _ => true
  | .widxWrite _ _ => true
  | .queueControlWrite _ _ _ => true
  | .lseedWrite _ => true
  | .bankAccess _ => true
  | .refresh _ => true
  | .activationAlert _ => true
  | .burstCrcFail _ _ _ => true
  | .laneRepair _ _ => true
  | .patrolScrub _ _ => true
  | .unpin _ => true
  | .idtabWrite _ _ => true
  | .idlock _ => true
  | .l2UncorrectableError _ _ => true
  | .clusterLeavesService _ => true
  | .hostWrite _ _ _ => true
  | .hostRead _ _ _ => true
  | .msixUnmask _ _ => true
  | .lockInterface _ _ _ _ _ => true
  | .tdiError _ => true
  | .keyset _ _ _ _ => true
  | .keyclr _ => true
  | .getMeasurements => true
  | .packageReset _ => true
  | .remoteRequest _ => true
  | .remoteResponse _ _ => true
  | .remoteTimeout _ => true
  | .portDown _ => true
  | .portUp _ => true
  | .repairCore _ => true
  | .repairDie _ => true
  | .repairUcieLane _ => true
  | .repairKrytistLane _ => true
  | .returnToService _ _ => true
  | .repairDone => true
  | .wearUpdate _ _ _ => true
  | .fatalError _ => true
  | .registerWrite _ _ => true
  | .instructionCacheFill _ _ => true
  | .refreshOwed _ => true
  | .tdiEntersRun _ => true

/-- An instruction whose codes are all in range. -/
def WellFormed (i : Instr) : Prop := i.wf = true

end Sys2Proof
end

