-- ==== Sys2Proof/Decode.lean ====
section
/-! DEFINITION. The decoder and the encoder of the instruction words (02 R40 R45-R57). The decoder
is total on every word and refuses by name; the encoder is written from the same tables of the spec,
and a word is accepted only when it is the encoding of what it decodes to, so that every reserved bit
is checked. The runtime of Lean bounds the number of constructors with fields that compiled code may
build at 244, and the opcode table has more rows, so the definitions that build an instruction carry
the mark `noncomputable`; the kernel evaluates them as any other. -/

namespace Sys2Proof

/-- Why a word is no instruction (02 R56). -/
inductive DecodeError where
  /-- The all-zero word. -/
  | zeroWord
  /-- A major or a minor that the opcode map leaves free, or an unlisted pair of types of `cvt`. -/
  | illegalOpcode
  /-- A nonzero reserved bit or a code out of range. -/
  | illegalField
  /-- A word that no context executes in the form asked for (04 R113, 09 R246). -/
  | contextMismatch
  deriving DecidableEq, Repr

/-- The `n` bits of the word `w` from bit `lo` upward. -/
def fld (n lo : Nat) (w : Nat) : BitVec n := BitVec.ofNat n (w / 2 ^ lo)

/-- The major opcode of a word (02 R48). -/
def majorOf (w : Nat) : Nat := w / 2 ^ 26 % 64

/-- The forms of major 0x01 (02 R55). -/
noncomputable def decode01 (w : Nat) : Except DecodeError Instr :=
  match w % 32 with
  | 0 => .ok (.add (fld 7 19 w) (fld 7 12 w) (fld 7 5 w))
  | 1 => .ok (.sub (fld 7 19 w) (fld 7 12 w) (fld 7 5 w))
  | 2 => .ok (.mullo (fld 7 19 w) (fld 7 12 w) (fld 7 5 w))
  | 3 => .ok (.mulhiI32 (fld 7 19 w) (fld 7 12 w) (fld 7 5 w))
  | 4 => .ok (.mulhiN32 (fld 7 19 w) (fld 7 12 w) (fld 7 5 w))
  | 5 => .ok (.minI32 (fld 7 19 w) (fld 7 12 w) (fld 7 5 w))
  | 6 => .ok (.maxI32 (fld 7 19 w) (fld 7 12 w) (fld 7 5 w))
  | 7 => .ok (.minN32 (fld 7 19 w) (fld 7 12 w) (fld 7 5 w))
  | 8 => .ok (.maxN32 (fld 7 19 w) (fld 7 12 w) (fld 7 5 w))
  | 9 => .ok (.and (fld 7 19 w) (fld 7 12 w) (fld 7 5 w))
  | 10 => .ok (.or (fld 7 19 w) (fld 7 12 w) (fld 7 5 w))
  | 11 => .ok (.xor (fld 7 19 w) (fld 7 12 w) (fld 7 5 w))
  | 12 => .ok (.andn (fld 7 19 w) (fld 7 12 w) (fld 7 5 w))
  | 13 => .ok (.shl (fld 7 19 w) (fld 7 12 w) (fld 7 5 w))
  | 14 => .ok (.shrN32 (fld 7 19 w) (fld 7 12 w) (fld 7 5 w))
  | 15 => .ok (.shrI32 (fld 7 19 w) (fld 7 12 w) (fld 7 5 w))
  | 16 => .ok (.rotl (fld 7 19 w) (fld 7 12 w) (fld 7 5 w))
  | 17 => .ok (.abs (fld 7 19 w) (fld 7 12 w))
  | 18 => .ok (.neg (fld 7 19 w) (fld 7 12 w))
  | 19 => .ok (.clz (fld 7 19 w) (fld 7 12 w))
  | 20 => .ok (.popc (fld 7 19 w) (fld 7 12 w))
  | 21 => .ok (.brev (fld 7 19 w) (fld 7 12 w))
  | 22 => .ok (.bfxN32 (fld 7 19 w) (fld 7 12 w) (fld 7 5 w))
  | 23 => .ok (.bfxI32 (fld 7 19 w) (fld 7 12 w) (fld 7 5 w))
  | 24 => .ok (.bfi (fld 7 19 w) (fld 7 12 w) (fld 7 5 w))
  | 25 => .ok (.mad (fld 7 19 w) (fld 7 12 w) (fld 7 5 w))
  | _ => .error .illegalOpcode

/-- The forms of major 0x02 (02 R55). -/
noncomputable def decode02 (w : Nat) : Except DecodeError Instr :=
  .ok (.addi (fld 7 19 w) (fld 7 12 w) (fld 12 0 w))

/-- The forms of major 0x03 (02 R55). -/
noncomputable def decode03 (w : Nat) : Except DecodeError Instr :=
  .ok (.andi (fld 7 19 w) (fld 7 12 w) (fld 12 0 w))

/-- The forms of major 0x04 (02 R55). -/
noncomputable def decode04 (w : Nat) : Except DecodeError Instr :=
  .ok (.ori (fld 7 19 w) (fld 7 12 w) (fld 12 0 w))

/-- The forms of major 0x05 (02 R55). -/
noncomputable def decode05 (w : Nat) : Except DecodeError Instr :=
  .ok (.xori (fld 7 19 w) (fld 7 12 w) (fld 12 0 w))

/-- The forms of major 0x06 (02 R55). -/
noncomputable def decode06 (w : Nat) : Except DecodeError Instr :=
  match w / 2 ^ 10 % 4 with
  | 0 => .ok (.shli (fld 7 19 w) (fld 7 12 w) (fld 6 0 w))
  | 1 => .ok (.shriN32 (fld 7 19 w) (fld 7 12 w) (fld 6 0 w))
  | 2 => .ok (.shriI32 (fld 7 19 w) (fld 7 12 w) (fld 6 0 w))
  | _ => .ok (.rotli (fld 7 19 w) (fld 7 12 w) (fld 6 0 w))

/-- The forms of major 0x07 (02 R55). -/
noncomputable def decode07 (w : Nat) : Except DecodeError Instr :=
  .ok (.lui (fld 7 19 w) (fld 19 0 w))

/-- The forms of major 0x08 (02 R55). -/
noncomputable def decode08 (w : Nat) : Except DecodeError Instr :=
  .ok (.movi (fld 7 19 w) (fld 19 0 w))

/-- The forms of major 0x09 (02 R55). -/
noncomputable def decode09 (w : Nat) : Except DecodeError Instr :=
  match w % 32 with
  | 0 => .ok (.addI64 (fld 7 19 w) (fld 7 12 w) (fld 7 5 w))
  | 1 => .ok (.subI64 (fld 7 19 w) (fld 7 12 w) (fld 7 5 w))
  | 2 => .ok (.mulloI64 (fld 7 19 w) (fld 7 12 w) (fld 7 5 w))
  | 3 => .ok (.mulhiI64 (fld 7 19 w) (fld 7 12 w) (fld 7 5 w))
  | 4 => .ok (.mulhiN64 (fld 7 19 w) (fld 7 12 w) (fld 7 5 w))
  | 5 => .ok (.minI64 (fld 7 19 w) (fld 7 12 w) (fld 7 5 w))
  | 6 => .ok (.maxI64 (fld 7 19 w) (fld 7 12 w) (fld 7 5 w))
  | 7 => .ok (.minN64 (fld 7 19 w) (fld 7 12 w) (fld 7 5 w))
  | 8 => .ok (.maxN64 (fld 7 19 w) (fld 7 12 w) (fld 7 5 w))
  | 9 => .ok (.shlB64 (fld 7 19 w) (fld 7 12 w) (fld 7 5 w))
  | 10 => .ok (.shrN64 (fld 7 19 w) (fld 7 12 w) (fld 7 5 w))
  | 11 => .ok (.shrI64 (fld 7 19 w) (fld 7 12 w) (fld 7 5 w))
  | 12 => .ok (.negI64 (fld 7 19 w) (fld 7 12 w))
  | 13 => .ok (.clzB64 (fld 7 19 w) (fld 7 12 w))
  | 14 => .ok (.popcB64 (fld 7 19 w) (fld 7 12 w))
  | 15 => .ok (.mulwI32 (fld 7 19 w) (fld 7 12 w) (fld 7 5 w))
  | 16 => .ok (.mulwN32 (fld 7 19 w) (fld 7 12 w) (fld 7 5 w))
  | 17 => .ok (.addxI64 (fld 7 19 w) (fld 7 12 w) (fld 7 5 w))
  | _ => .error .illegalOpcode

/-- The forms of major 0x0A (02 R55). -/
noncomputable def decode0A (w : Nat) : Except DecodeError Instr :=
  match w % 32 with
  | 0 => .ok (.cmpEqI32 (fld 3 19 w) (fld 7 12 w) (fld 7 5 w))
  | 1 => .ok (.cmpNeI32 (fld 3 19 w) (fld 7 12 w) (fld 7 5 w))
  | 2 => .ok (.cmpLtI32 (fld 3 19 w) (fld 7 12 w) (fld 7 5 w))
  | 3 => .ok (.cmpLeI32 (fld 3 19 w) (fld 7 12 w) (fld 7 5 w))
  | 4 => .ok (.cmpLtN32 (fld 3 19 w) (fld 7 12 w) (fld 7 5 w))
  | 5 => .ok (.cmpLeN32 (fld 3 19 w) (fld 7 12 w) (fld 7 5 w))
  | 6 => .ok (.cmpEqI64 (fld 3 19 w) (fld 7 12 w) (fld 7 5 w))
  | 7 => .ok (.cmpNeI64 (fld 3 19 w) (fld 7 12 w) (fld 7 5 w))
  | 8 => .ok (.cmpLtI64 (fld 3 19 w) (fld 7 12 w) (fld 7 5 w))
  | 9 => .ok (.cmpLeI64 (fld 3 19 w) (fld 7 12 w) (fld 7 5 w))
  | 10 => .ok (.cmpLtN64 (fld 3 19 w) (fld 7 12 w) (fld 7 5 w))
  | 11 => .ok (.cmpLeN64 (fld 3 19 w) (fld 7 12 w) (fld 7 5 w))
  | 12 => .ok (.cmpEqF32 (fld 3 19 w) (fld 7 12 w) (fld 7 5 w))
  | 13 => .ok (.cmpNeF32 (fld 3 19 w) (fld 7 12 w) (fld 7 5 w))
  | 14 => .ok (.cmpLtF32 (fld 3 19 w) (fld 7 12 w) (fld 7 5 w))
  | 15 => .ok (.cmpLeF32 (fld 3 19 w) (fld 7 12 w) (fld 7 5 w))
  | 16 => .ok (.cmpUnF32 (fld 3 19 w) (fld 7 12 w) (fld 7 5 w))
  | 17 => .ok (.cmpEqF64 (fld 3 19 w) (fld 7 12 w) (fld 7 5 w))
  | 18 => .ok (.cmpNeF64 (fld 3 19 w) (fld 7 12 w) (fld 7 5 w))
  | 19 => .ok (.cmpLtF64 (fld 3 19 w) (fld 7 12 w) (fld 7 5 w))
  | 20 => .ok (.cmpLeF64 (fld 3 19 w) (fld 7 12 w) (fld 7 5 w))
  | 21 => .ok (.cmpUnF64 (fld 3 19 w) (fld 7 12 w) (fld 7 5 w))
  | _ => .error .illegalOpcode

/-- The forms of major 0x0B (02 R55). -/
noncomputable def decode0B (w : Nat) : Except DecodeError Instr :=
  match w % 32 with
  | 0 => .ok (.pand (fld 3 19 w) (fld 3 12 w) (fld 3 5 w))
  | 1 => .ok (.por (fld 3 19 w) (fld 3 12 w) (fld 3 5 w))
  | 2 => .ok (.pxor (fld 3 19 w) (fld 3 12 w) (fld 3 5 w))
  | 3 => .ok (.pandn (fld 3 19 w) (fld 3 12 w) (fld 3 5 w))
  | 4 => .ok (.pnot (fld 3 19 w) (fld 3 12 w))
  | 5 => .ok (.pmov (fld 3 19 w) (fld 3 12 w))
  | _ => .error .illegalOpcode

/-- The forms of major 0x0C (02 R55). -/
noncomputable def decode0C (w : Nat) : Except DecodeError Instr :=
  match w / 2 ^ 3 % 2 with
  | 0 => .ok (.sel (fld 7 19 w) (fld 7 12 w) (fld 7 5 w) (fld 1 4 w) (fld 3 0 w))
  | _ => .ok (.sel64 (fld 7 19 w) (fld 7 12 w) (fld 7 5 w) (fld 1 4 w) (fld 3 0 w))

/-- The forms of major 0x0D (02 R55). -/
noncomputable def decode0D (w : Nat) : Except DecodeError Instr :=
  match w % 32 with
  | 0 => .ok (.mov (fld 7 19 w) (fld 7 12 w))
  | 1 => .ok (.mov64 (fld 7 19 w) (fld 7 12 w))
  | 2 => .ok (.pget (fld 7 19 w))
  | 3 => .ok (.pput (fld 7 12 w))
  | 4 => .ok (.dqpop (fld 7 19 w) (fld 7 5 w))
  | _ => .error .illegalOpcode

/-- The forms of major 0x10 (02 R55). -/
noncomputable def decode10 (w : Nat) : Except DecodeError Instr :=
  match w % 32 with
  | 0 => .ok (.addF32 (fld 7 19 w) (fld 7 12 w) (fld 7 5 w))
  | 1 => .ok (.subF32 (fld 7 19 w) (fld 7 12 w) (fld 7 5 w))
  | 2 => .ok (.mulF32 (fld 7 19 w) (fld 7 12 w) (fld 7 5 w))
  | 3 => .ok (.fmaF32 (fld 7 19 w) (fld 7 12 w) (fld 7 5 w))
  | 4 => .ok (.minF32 (fld 7 19 w) (fld 7 12 w) (fld 7 5 w))
  | 5 => .ok (.maxF32 (fld 7 19 w) (fld 7 12 w) (fld 7 5 w))
  | 6 => .ok (.minmF32 (fld 7 19 w) (fld 7 12 w) (fld 7 5 w))
  | 7 => .ok (.maxmF32 (fld 7 19 w) (fld 7 12 w) (fld 7 5 w))
  | 8 => .ok (.absF32 (fld 7 19 w) (fld 7 12 w))
  | 9 => .ok (.negF32 (fld 7 19 w) (fld 7 12 w))
  | 10 => .ok (.copysignF32 (fld 7 19 w) (fld 7 12 w) (fld 7 5 w))
  | 11 => .ok (.divF32 (fld 7 19 w) (fld 7 12 w) (fld 7 5 w))
  | 12 => .ok (.sqrtF32 (fld 7 19 w) (fld 7 12 w))
  | 13 => .ok (.rcpF32 (fld 7 19 w) (fld 7 12 w))
  | 14 => .ok (.rsqrtF32 (fld 7 19 w) (fld 7 12 w))
  | 15 => .ok (.exp2F32 (fld 7 19 w) (fld 7 12 w))
  | 16 => .ok (.log2F32 (fld 7 19 w) (fld 7 12 w))
  | 17 => .ok (.tanhF32 (fld 7 19 w) (fld 7 12 w))
  | 18 => .ok (.floorF32 (fld 7 19 w) (fld 7 12 w))
  | 19 => .ok (.ceilF32 (fld 7 19 w) (fld 7 12 w))
  | 20 => .ok (.truncF32 (fld 7 19 w) (fld 7 12 w))
  | 21 => .ok (.rintF32 (fld 7 19 w) (fld 7 12 w))
  | 22 => .ok (.classF32 (fld 7 19 w) (fld 7 12 w))
  | 23 => .ok (.ldexpF32 (fld 7 19 w) (fld 7 12 w) (fld 7 5 w))
  | _ => .error .illegalOpcode

/-- The forms of major 0x11 (02 R55). -/
noncomputable def decode11 (w : Nat) : Except DecodeError Instr :=
  match w % 32 with
  | 0 => .ok (.addF64 (fld 7 19 w) (fld 7 12 w) (fld 7 5 w))
  | 1 => .ok (.subF64 (fld 7 19 w) (fld 7 12 w) (fld 7 5 w))
  | 2 => .ok (.mulF64 (fld 7 19 w) (fld 7 12 w) (fld 7 5 w))
  | 3 => .ok (.fmaF64 (fld 7 19 w) (fld 7 12 w) (fld 7 5 w))
  | 4 => .ok (.minF64 (fld 7 19 w) (fld 7 12 w) (fld 7 5 w))
  | 5 => .ok (.maxF64 (fld 7 19 w) (fld 7 12 w) (fld 7 5 w))
  | 6 => .ok (.absF64 (fld 7 19 w) (fld 7 12 w))
  | 7 => .ok (.negF64 (fld 7 19 w) (fld 7 12 w))
  | 8 => .ok (.divF64 (fld 7 19 w) (fld 7 12 w) (fld 7 5 w))
  | 9 => .ok (.sqrtF64 (fld 7 19 w) (fld 7 12 w))
  | 10 => .ok (.floorF64 (fld 7 19 w) (fld 7 12 w))
  | 11 => .ok (.ceilF64 (fld 7 19 w) (fld 7 12 w))
  | 12 => .ok (.truncF64 (fld 7 19 w) (fld 7 12 w))
  | 13 => .ok (.rintF64 (fld 7 19 w) (fld 7 12 w))
  | _ => .error .illegalOpcode

/-- The forms of major 0x12 (02 R55). -/
noncomputable def decode12 (w : Nat) : Except DecodeError Instr :=
  match w % 32 with
  | 0 => .ok (.addF16x2 (fld 7 19 w) (fld 7 12 w) (fld 7 5 w))
  | 1 => .ok (.subF16x2 (fld 7 19 w) (fld 7 12 w) (fld 7 5 w))
  | 2 => .ok (.mulF16x2 (fld 7 19 w) (fld 7 12 w) (fld 7 5 w))
  | 3 => .ok (.fmaF16x2 (fld 7 19 w) (fld 7 12 w) (fld 7 5 w))
  | 4 => .ok (.minF16x2 (fld 7 19 w) (fld 7 12 w) (fld 7 5 w))
  | 5 => .ok (.maxF16x2 (fld 7 19 w) (fld 7 12 w) (fld 7 5 w))
  | _ => .error .illegalOpcode

/-- The forms of major 0x13 (02 R55). -/
noncomputable def decode13 (w : Nat) : Except DecodeError Instr :=
  match w % 32 with
  | 0 => .ok (.addBf16x2 (fld 7 19 w) (fld 7 12 w) (fld 7 5 w))
  | 1 => .ok (.subBf16x2 (fld 7 19 w) (fld 7 12 w) (fld 7 5 w))
  | 2 => .ok (.mulBf16x2 (fld 7 19 w) (fld 7 12 w) (fld 7 5 w))
  | 3 => .ok (.fmaBf16x2 (fld 7 19 w) (fld 7 12 w) (fld 7 5 w))
  | 4 => .ok (.minBf16x2 (fld 7 19 w) (fld 7 12 w) (fld 7 5 w))
  | 5 => .ok (.maxBf16x2 (fld 7 19 w) (fld 7 12 w) (fld 7 5 w))
  | _ => .error .illegalOpcode

/-- The forms of major 0x14 (02 R55). -/
noncomputable def decode14 (w : Nat) : Except DecodeError Instr :=
  if cvtPairLegal (w / 2 ^ 7 % 32) (w % 32) then .ok (.cvt (fld 7 19 w) (fld 7 12 w) (fld 5 7 w) (fld 5 0 w))
  else .error .illegalOpcode

/-- The forms of major 0x15 (02 R55). -/
noncomputable def decode15 (w : Nat) : Except DecodeError Instr :=
  match w % 32 with
  | 0 => .ok (.dot2F16x2 (fld 7 19 w) (fld 7 12 w) (fld 7 5 w))
  | 1 => .ok (.dot2Bf16x2 (fld 7 19 w) (fld 7 12 w) (fld 7 5 w))
  | 2 => .ok (.dot4E4m3x4 (fld 7 19 w) (fld 7 12 w) (fld 7 5 w))
  | 3 => .ok (.dot4I8x4 (fld 7 19 w) (fld 7 12 w) (fld 7 5 w))
  | 4 => .ok (.dot4N8x4 (fld 7 19 w) (fld 7 12 w) (fld 7 5 w))
  | _ => .error .illegalOpcode

/-- The forms of major 0x16 (02 R55). -/
noncomputable def decode16 (w : Nat) : Except DecodeError Instr :=
  match w % 16 with
  | 0 => .ok (.mvc (fld 7 19 w) (fld 7 12 w) (fld 8 4 w))
  | 1 => .ok (.mvcAcc (fld 7 19 w) (fld 7 12 w) (fld 8 4 w))
  | _ => .error .illegalOpcode

/-- The forms of major 0x18 (02 R55). -/
noncomputable def decode18 (w : Nat) : Except DecodeError Instr :=
  match w / 2 ^ 3 % 4 with
  | 0 => .ok (.xshflIdx (fld 7 19 w) (fld 7 12 w) (fld 7 5 w) (fld 3 0 w))
  | 1 => .ok (.xshflUp (fld 7 19 w) (fld 7 12 w) (fld 7 5 w) (fld 3 0 w))
  | 2 => .ok (.xshflDown (fld 7 19 w) (fld 7 12 w) (fld 7 5 w) (fld 3 0 w))
  | _ => .ok (.xshflXor (fld 7 19 w) (fld 7 12 w) (fld 7 5 w) (fld 3 0 w))

/-- The forms of major 0x19 (02 R55). -/
noncomputable def decode19 (w : Nat) : Except DecodeError Instr :=
  match w / 2 ^ 5 % 128 with
  | 0 => .ok (.xredAddI32 (fld 7 19 w) (fld 7 12 w) (fld 3 0 w))
  | 1 => .ok (.xredMinI32 (fld 7 19 w) (fld 7 12 w) (fld 3 0 w))
  | 2 => .ok (.xredMaxI32 (fld 7 19 w) (fld 7 12 w) (fld 3 0 w))
  | 3 => .ok (.xredMinN32 (fld 7 19 w) (fld 7 12 w) (fld 3 0 w))
  | 4 => .ok (.xredMaxN32 (fld 7 19 w) (fld 7 12 w) (fld 3 0 w))
  | 5 => .ok (.xredAnd (fld 7 19 w) (fld 7 12 w) (fld 3 0 w))
  | 6 => .ok (.xredOr (fld 7 19 w) (fld 7 12 w) (fld 3 0 w))
  | 7 => .ok (.xredXor (fld 7 19 w) (fld 7 12 w) (fld 3 0 w))
  | 8 => .ok (.xredAddF32 (fld 7 19 w) (fld 7 12 w) (fld 3 0 w))
  | 9 => .ok (.xredMinF32 (fld 7 19 w) (fld 7 12 w) (fld 3 0 w))
  | 10 => .ok (.xredMaxF32 (fld 7 19 w) (fld 7 12 w) (fld 3 0 w))
  | _ => .error .illegalOpcode

/-- The forms of major 0x1A (02 R55). -/
noncomputable def decode1A (w : Nat) : Except DecodeError Instr :=
  match w / 2 ^ 3 % 4 with
  | 0 => .ok (.ballot (fld 7 19 w) (fld 3 12 w) (fld 3 0 w))
  | 1 => .ok (.any (fld 3 19 w) (fld 3 12 w) (fld 3 0 w))
  | 2 => .ok (.all (fld 3 19 w) (fld 3 12 w) (fld 3 0 w))
  | _ => .ok (.uni (fld 3 19 w) (fld 7 12 w) (fld 3 0 w))

/-- The forms of major 0x1B (02 R55). -/
noncomputable def decode1B (w : Nat) : Except DecodeError Instr :=
  match w / 2 ^ 6 % 4 with
  | 0 => .ok (.ldS64 (fld 6 20 w) (fld 6 14 w) (fld 6 8 w) (fld 6 0 w))
  | 1 => .ok (.stS64 (fld 6 20 w) (fld 6 14 w) (fld 6 8 w) (fld 6 0 w))
  | 2 => .ok (.ldS32 (fld 6 20 w) (fld 6 14 w) (fld 6 8 w) (fld 6 0 w))
  | _ => .ok (.stS32 (fld 6 20 w) (fld 6 14 w) (fld 6 8 w) (fld 6 0 w))

/-- The forms of major 0x20 (02 R55). -/
noncomputable def decode20 (w : Nat) : Except DecodeError Instr :=
  .ok (.bra (fld 3 23 w) (fld 1 22 w) (fld 22 0 w))

/-- The forms of major 0x21 (02 R55). -/
noncomputable def decode21 (w : Nat) : Except DecodeError Instr :=
  match w / 2 ^ 21 % 2 with
  | 0 => .ok (.bruD (fld 7 14 w) (fld 14 0 w))
  | _ => .ok (.bruP (fld 3 23 w) (fld 1 22 w) (fld 14 0 w))

/-- The forms of major 0x22 (02 R55). -/
noncomputable def decode22 (w : Nat) : Except DecodeError Instr :=
  .ok (.call (fld 3 23 w) (fld 1 22 w) (fld 22 0 w))

/-- The forms of major 0x23 (02 R55). -/
noncomputable def decode23 (w : Nat) : Except DecodeError Instr :=
  match w % 32 with
  | 0 => .ok (.jmp (fld 7 12 w))
  | 1 => .ok (.callr (fld 7 19 w) (fld 7 12 w))
  | 2 => .ok (.ret (fld 7 12 w))
  | 3 => .ok (.jmpU (fld 7 12 w))
  | _ => .error .illegalOpcode

/-- The forms of major 0x24 (02 R55). -/
noncomputable def decode24 (_w : Nat) : Except DecodeError Instr :=
  .ok .card

/-- The forms of major 0x25 (02 R55). -/
noncomputable def decode25 (w : Nat) : Except DecodeError Instr :=
  match w / 2 ^ 24 % 4 with
  | 0 => .ok .exit
  | 1 => .ok (.exitRelay (fld 8 0 w))
  | _ => .error .illegalOpcode

/-- The forms of major 0x26 (02 R55). -/
noncomputable def decode26 (w : Nat) : Except DecodeError Instr :=
  match w % 8 with
  | 0 => match w / 2 ^ 12 % 8 with
    | 0 => .ok (.karm (fld 4 22 w) (fld 7 15 w))
    | 1 => .ok (.karmByte (fld 4 22 w))
    | _ => .error .illegalField
  | 1 => .ok (.tie (fld 4 22 w))
  | 2 => .ok (.tiew (fld 4 22 w))
  | 3 => .ok (.kexpect (fld 4 22 w) (fld 7 15 w))
  | 4 => .ok (.kwait (fld 4 22 w))
  | 5 => .ok (.kstat (fld 4 22 w) (fld 7 15 w))
  | _ => .error .illegalOpcode

/-- The forms of major 0x27 (02 R55). -/
noncomputable def decode27 (w : Nat) : Except DecodeError Instr :=
  .ok (.wait (fld 4 22 w) (fld 4 18 w) (fld 3 15 w) (fld 3 12 w))

/-- The forms of major 0x28 (02 R55). -/
noncomputable def decode28 (w : Nat) : Except DecodeError Instr :=
  match w / 2 ^ 24 % 4 with
  | 0 => .ok .nop
  | 1 => .ok .yield
  | 2 => .ok (.ipf (fld 22 0 w))
  | _ => .ok (.brk (fld 16 0 w))

/-- The forms of major 0x29 (02 R55). -/
noncomputable def decode29 (w : Nat) : Except DecodeError Instr :=
  match w / 2 ^ 3 % 8 with
  | 0 => .ok (.ldN8 (fld 7 19 w) (fld 7 12 w) (fld 6 6 w) (fld 2 1 w) (fld 1 0 w))
  | 1 => .ok (.ldI8 (fld 7 19 w) (fld 7 12 w) (fld 6 6 w) (fld 2 1 w) (fld 1 0 w))
  | 2 => .ok (.ldN16 (fld 7 19 w) (fld 7 12 w) (fld 6 6 w) (fld 2 1 w) (fld 1 0 w))
  | 3 => .ok (.ldI16 (fld 7 19 w) (fld 7 12 w) (fld 6 6 w) (fld 2 1 w) (fld 1 0 w))
  | 4 => .ok (.ldB32 (fld 7 19 w) (fld 7 12 w) (fld 6 6 w) (fld 2 1 w) (fld 1 0 w))
  | 5 => .ok (.ldB64 (fld 7 19 w) (fld 7 12 w) (fld 6 6 w) (fld 2 1 w) (fld 1 0 w))
  | 6 => .ok (.ldB128 (fld 7 19 w) (fld 7 12 w) (fld 6 6 w) (fld 2 1 w) (fld 1 0 w))
  | _ => .error .illegalOpcode

/-- The forms of major 0x2A (02 R55). -/
noncomputable def decode2A (w : Nat) : Except DecodeError Instr :=
  match w / 2 ^ 3 % 8 with
  | 0 => .ok (.stB8 (fld 7 19 w) (fld 7 12 w) (fld 6 6 w) (fld 2 1 w))
  | 2 => .ok (.stB16 (fld 7 19 w) (fld 7 12 w) (fld 6 6 w) (fld 2 1 w))
  | 4 => .ok (.stB32 (fld 7 19 w) (fld 7 12 w) (fld 6 6 w) (fld 2 1 w))
  | 5 => .ok (.stB64 (fld 7 19 w) (fld 7 12 w) (fld 6 6 w) (fld 2 1 w))
  | 6 => .ok (.stB128 (fld 7 19 w) (fld 7 12 w) (fld 6 6 w) (fld 2 1 w))
  | _ => .error .illegalOpcode

/-- The forms of major 0x2B (02 R55). -/
noncomputable def decode2B (w : Nat) : Except DecodeError Instr :=
  match w / 2 ^ 3 % 8 with
  | 0 => .ok (.ldaN8 (fld 7 19 w) (fld 7 12 w) (fld 6 6 w) (fld 3 0 w))
  | 1 => .ok (.ldaI8 (fld 7 19 w) (fld 7 12 w) (fld 6 6 w) (fld 3 0 w))
  | 2 => .ok (.ldaN16 (fld 7 19 w) (fld 7 12 w) (fld 6 6 w) (fld 3 0 w))
  | 3 => .ok (.ldaI16 (fld 7 19 w) (fld 7 12 w) (fld 6 6 w) (fld 3 0 w))
  | 4 => .ok (.ldaB32 (fld 7 19 w) (fld 7 12 w) (fld 6 6 w) (fld 3 0 w))
  | 5 => .ok (.ldaB64 (fld 7 19 w) (fld 7 12 w) (fld 6 6 w) (fld 3 0 w))
  | 6 => .ok (.ldaB128 (fld 7 19 w) (fld 7 12 w) (fld 6 6 w) (fld 3 0 w))
  | _ => .error .illegalOpcode

/-- The forms of major 0x2C (02 R55). -/
noncomputable def decode2C (w : Nat) : Except DecodeError Instr :=
  match w / 2 ^ 3 % 8 with
  | 0 => .ok (.stlB8 (fld 7 19 w) (fld 7 12 w) (fld 6 6 w) (fld 3 0 w))
  | 2 => .ok (.stlB16 (fld 7 19 w) (fld 7 12 w) (fld 6 6 w) (fld 3 0 w))
  | 4 => .ok (.stlB32 (fld 7 19 w) (fld 7 12 w) (fld 6 6 w) (fld 3 0 w))
  | 5 => .ok (.stlB64 (fld 7 19 w) (fld 7 12 w) (fld 6 6 w) (fld 3 0 w))
  | 6 => .ok (.stlB128 (fld 7 19 w) (fld 7 12 w) (fld 6 6 w) (fld 3 0 w))
  | _ => .error .illegalOpcode

/-- The forms of major 0x2D (02 R55). -/
noncomputable def decode2D (w : Nat) : Except DecodeError Instr :=
  match w % 32 with
  | 0 => .ok (.atomAddI32 (fld 7 19 w) (fld 7 12 w) (fld 6 6 w) (fld 1 5 w))
  | 1 => .ok (.atomAddI64 (fld 7 19 w) (fld 7 12 w) (fld 6 6 w) (fld 1 5 w))
  | 2 => .ok (.atomMinI32 (fld 7 19 w) (fld 7 12 w) (fld 6 6 w) (fld 1 5 w))
  | 3 => .ok (.atomMaxI32 (fld 7 19 w) (fld 7 12 w) (fld 6 6 w) (fld 1 5 w))
  | 4 => .ok (.atomMinN32 (fld 7 19 w) (fld 7 12 w) (fld 6 6 w) (fld 1 5 w))
  | 5 => .ok (.atomMaxN32 (fld 7 19 w) (fld 7 12 w) (fld 6 6 w) (fld 1 5 w))
  | 6 => .ok (.atomAndB32 (fld 7 19 w) (fld 7 12 w) (fld 6 6 w) (fld 1 5 w))
  | 7 => .ok (.atomOrB32 (fld 7 19 w) (fld 7 12 w) (fld 6 6 w) (fld 1 5 w))
  | 8 => .ok (.atomXorB32 (fld 7 19 w) (fld 7 12 w) (fld 6 6 w) (fld 1 5 w))
  | 9 => .ok (.atomXchgB32 (fld 7 19 w) (fld 7 12 w) (fld 6 6 w) (fld 1 5 w))
  | 10 => .ok (.atomXchgB64 (fld 7 19 w) (fld 7 12 w) (fld 6 6 w) (fld 1 5 w))
  | 11 => .ok (.atomCasB32 (fld 7 19 w) (fld 7 12 w) (fld 6 6 w) (fld 1 5 w))
  | 12 => .ok (.atomCasB64 (fld 7 19 w) (fld 7 12 w) (fld 6 6 w) (fld 1 5 w))
  | 13 => .ok (.atomCasB128 (fld 7 19 w) (fld 7 12 w) (fld 6 6 w) (fld 1 5 w))
  | 14 => .ok (.atomFaddF32 (fld 7 19 w) (fld 7 12 w) (fld 6 6 w) (fld 1 5 w))
  | 15 => .ok (.atomFaddF64 (fld 7 19 w) (fld 7 12 w) (fld 6 6 w) (fld 1 5 w))
  | 16 => .ok (.atomFaddF16x2 (fld 7 19 w) (fld 7 12 w) (fld 6 6 w) (fld 1 5 w))
  | 17 => .ok (.atomFaddBf16x2 (fld 7 19 w) (fld 7 12 w) (fld 6 6 w) (fld 1 5 w))
  | 18 => .ok (.atomFminF32 (fld 7 19 w) (fld 7 12 w) (fld 6 6 w) (fld 1 5 w))
  | 19 => .ok (.atomFmaxF32 (fld 7 19 w) (fld 7 12 w) (fld 6 6 w) (fld 1 5 w))
  | 20 => .ok (.atomFminF64 (fld 7 19 w) (fld 7 12 w) (fld 6 6 w) (fld 1 5 w))
  | 21 => .ok (.atomFmaxF64 (fld 7 19 w) (fld 7 12 w) (fld 6 6 w) (fld 1 5 w))
  | 22 => .ok (.atomFminF16x2 (fld 7 19 w) (fld 7 12 w) (fld 6 6 w) (fld 1 5 w))
  | 23 => .ok (.atomFmaxF16x2 (fld 7 19 w) (fld 7 12 w) (fld 6 6 w) (fld 1 5 w))
  | 24 => .ok (.atomFminBf16x2 (fld 7 19 w) (fld 7 12 w) (fld 6 6 w) (fld 1 5 w))
  | 25 => .ok (.atomFmaxBf16x2 (fld 7 19 w) (fld 7 12 w) (fld 6 6 w) (fld 1 5 w))
  | _ => .error .illegalOpcode

/-- The forms of major 0x2E (02 R55). -/
noncomputable def decode2E (w : Nat) : Except DecodeError Instr :=
  match w / 2 ^ 11 % 4 with
  | 0 => .ok (.fenceAcq (fld 1 13 w) (fld 3 8 w) (fld 1 2 w) (fld 1 1 w) (fld 1 0 w))
  | 1 => .ok (.fenceRel (fld 1 13 w) (fld 3 8 w) (fld 1 2 w) (fld 1 1 w) (fld 1 0 w))
  | 2 => .ok (.fenceAcqrel (fld 1 13 w) (fld 3 8 w) (fld 1 2 w) (fld 1 1 w) (fld 1 0 w))
  | _ => .ok (.fenceSc (fld 1 13 w) (fld 3 8 w) (fld 1 2 w) (fld 1 1 w) (fld 1 0 w))

/-- The forms of major 0x2F (02 R55). -/
noncomputable def decode2F (w : Nat) : Except DecodeError Instr :=
  match w / 2 ^ 9 % 8 with
  | 0 => .ok (.sldN8 (fld 7 19 w) (fld 7 12 w) (fld 9 0 w))
  | 1 => .ok (.sldI8 (fld 7 19 w) (fld 7 12 w) (fld 9 0 w))
  | 2 => .ok (.sldN16 (fld 7 19 w) (fld 7 12 w) (fld 9 0 w))
  | 3 => .ok (.sldI16 (fld 7 19 w) (fld 7 12 w) (fld 9 0 w))
  | 4 => .ok (.sldB32 (fld 7 19 w) (fld 7 12 w) (fld 9 0 w))
  | 5 => .ok (.sldB64 (fld 7 19 w) (fld 7 12 w) (fld 9 0 w))
  | 6 => .ok (.sldB128 (fld 7 19 w) (fld 7 12 w) (fld 9 0 w))
  | _ => .error .illegalOpcode

/-- The forms of major 0x30 (02 R55). -/
noncomputable def decode30 (w : Nat) : Except DecodeError Instr :=
  match w / 2 ^ 9 % 8 with
  | 0 => .ok (.sstB8 (fld 7 19 w) (fld 7 12 w) (fld 9 0 w))
  | 2 => .ok (.sstB16 (fld 7 19 w) (fld 7 12 w) (fld 9 0 w))
  | 4 => .ok (.sstB32 (fld 7 19 w) (fld 7 12 w) (fld 9 0 w))
  | 5 => .ok (.sstB64 (fld 7 19 w) (fld 7 12 w) (fld 9 0 w))
  | 6 => .ok (.sstB128 (fld 7 19 w) (fld 7 12 w) (fld 9 0 w))
  | _ => .error .illegalOpcode

/-- The forms of major 0x31 (02 R55). -/
noncomputable def decode31 (w : Nat) : Except DecodeError Instr :=
  match w / 2 ^ 9 % 8 with
  | 0 => .ok (.cldN8 (fld 7 19 w) (fld 7 12 w) (fld 9 0 w))
  | 1 => .ok (.cldI8 (fld 7 19 w) (fld 7 12 w) (fld 9 0 w))
  | 2 => .ok (.cldN16 (fld 7 19 w) (fld 7 12 w) (fld 9 0 w))
  | 3 => .ok (.cldI16 (fld 7 19 w) (fld 7 12 w) (fld 9 0 w))
  | 4 => .ok (.cldB32 (fld 7 19 w) (fld 7 12 w) (fld 9 0 w))
  | 5 => .ok (.cldB64 (fld 7 19 w) (fld 7 12 w) (fld 9 0 w))
  | 6 => .ok (.cldB128 (fld 7 19 w) (fld 7 12 w) (fld 9 0 w))
  | _ => .error .illegalOpcode

/-- The forms of major 0x32 (02 R55). -/
noncomputable def decode32 (w : Nat) : Except DecodeError Instr :=
  match w / 2 ^ 8 % 16 with
  | 0 => .ok (.pldN8 (fld 7 19 w) (fld 7 12 w) (fld 8 0 w))
  | 2 => .ok (.pldI8 (fld 7 19 w) (fld 7 12 w) (fld 8 0 w))
  | 4 => .ok (.pldN16 (fld 7 19 w) (fld 7 12 w) (fld 8 0 w))
  | 6 => .ok (.pldI16 (fld 7 19 w) (fld 7 12 w) (fld 8 0 w))
  | 8 => .ok (.pldB32 (fld 7 19 w) (fld 7 12 w) (fld 8 0 w))
  | 10 => .ok (.pldB64 (fld 7 19 w) (fld 7 12 w) (fld 8 0 w))
  | 12 => .ok (.pldB128 (fld 7 19 w) (fld 7 12 w) (fld 8 0 w))
  | 1 => .ok (.pstB8 (fld 7 19 w) (fld 7 12 w) (fld 8 0 w))
  | 5 => .ok (.pstB16 (fld 7 19 w) (fld 7 12 w) (fld 8 0 w))
  | 9 => .ok (.pstB32 (fld 7 19 w) (fld 7 12 w) (fld 8 0 w))
  | 11 => .ok (.pstB64 (fld 7 19 w) (fld 7 12 w) (fld 8 0 w))
  | 13 => .ok (.pstB128 (fld 7 19 w) (fld 7 12 w) (fld 8 0 w))
  | _ => .error .illegalOpcode

/-- The forms of major 0x33 (02 R55). -/
noncomputable def decode33 (w : Nat) : Except DecodeError Instr :=
  match w % 64 with
  | 0 => .ok (.promotePin (fld 7 19 w) (fld 7 12 w) (fld 6 6 w))
  | 1 => .ok (.promoteCache (fld 7 19 w) (fld 7 12 w) (fld 6 6 w))
  | 2 => .ok (.demote (fld 7 19 w) (fld 7 12 w) (fld 6 6 w))
  | 3 => .ok (.pfl2 (fld 7 19 w) (fld 7 12 w) (fld 6 6 w))
  | _ => .error .illegalOpcode

/-- The forms of major 0x34 (02 R55). -/
noncomputable def decode34 (w : Nat) : Except DecodeError Instr :=
  match w % 4 with
  | 0 => .ok (.sstSliv (fld 7 19 w) (fld 7 12 w) (fld 2 10 w))
  | 1 => .ok (.sldSliv (fld 7 19 w) (fld 7 12 w) (fld 2 10 w))
  | 2 => .ok (.shdr (fld 7 19 w) (fld 7 12 w))
  | _ => .error .illegalOpcode

/-- The forms of major 0x35 (02 R55). -/
noncomputable def decode35 (w : Nat) : Except DecodeError Instr :=
  match w % 256 with
  | 0 => .ok (.smap (fld 6 20 w) (fld 6 14 w) (fld 6 8 w))
  | 1 => .ok (.sunmap (fld 6 14 w))
  | 2 => .ok (.swb (fld 6 14 w))
  | 3 => .ok (.sinv (fld 6 14 w))
  | 4 => .ok (.sfind (fld 6 20 w) (fld 6 14 w) (fld 6 8 w))
  | 5 => .ok (.sinfo (fld 6 20 w) (fld 6 14 w))
  | _ => .error .illegalOpcode

/-- The forms of major 0x36 (02 R55). -/
noncomputable def decode36 (w : Nat) : Except DecodeError Instr :=
  match w % 8 with
  | 0 => .ok (.qinit (fld 6 20 w) (fld 4 15 w))
  | 1 => .ok (.qpush (fld 7 19 w) (fld 4 15 w))
  | 2 => .ok (.qpop (fld 7 19 w) (fld 4 15 w))
  | 3 => .ok (.qhpush (fld 7 19 w) (fld 4 15 w))
  | 4 => .ok (.qhpop (fld 7 19 w) (fld 4 15 w))
  | 5 => .ok (.qallow (fld 7 19 w) (fld 4 15 w))
  | _ => .error .illegalOpcode

/-- The forms of major 0x37 (02 R55). -/
noncomputable def decode37 (w : Nat) : Except DecodeError Instr :=
  match w / 2 ^ 8 % 64 with
  | 0 => .ok (.reelGet (fld 6 20 w) (fld 6 14 w) (fld 4 4 w) (fld 1 3 w) (fld 3 0 w))
  | 1 => .ok (.reelPut (fld 6 20 w) (fld 6 14 w) (fld 4 4 w) (fld 1 3 w) (fld 3 0 w))
  | 2 => .ok (.reelPget (fld 6 20 w) (fld 6 14 w) (fld 4 4 w) (fld 1 3 w) (fld 3 0 w))
  | 3 => .ok (.reelPput (fld 6 20 w) (fld 6 14 w) (fld 4 4 w) (fld 1 3 w) (fld 3 0 w))
  | 4 => .ok (.reelExp (fld 6 20 w) (fld 6 14 w) (fld 4 4 w) (fld 1 3 w) (fld 3 0 w))
  | 5 => .ok (.reelDec (fld 6 20 w) (fld 6 14 w) (fld 4 4 w) (fld 1 3 w) (fld 3 0 w))
  | 6 => .ok (.reelRget (fld 6 20 w) (fld 6 14 w) (fld 4 4 w) (fld 1 3 w) (fld 3 0 w))
  | 7 => .ok (.reelRred (fld 6 20 w) (fld 6 14 w) (fld 4 4 w) (fld 1 3 w) (fld 3 0 w))
  | 8 => .ok (.reelWp (fld 6 20 w) (fld 6 14 w) (fld 3 0 w))
  | _ => .error .illegalOpcode

/-- The forms of major 0x38 (02 R55). -/
noncomputable def decode38 (w : Nat) : Except DecodeError Instr :=
  match w / 2 ^ 4 % 64 with
  | 0 => if w / 2 ^ 10 % 16 == 15 then .ok (.mma (fld 4 22 w) (fld 4 18 w) (fld 4 14 w) (fld 1 1 w) (fld 1 0 w))
    else .ok (.mmaKnotted (fld 4 22 w) (fld 4 18 w) (fld 4 14 w) (fld 4 10 w) (fld 1 1 w) (fld 1 0 w))
  | 1 => if w / 2 ^ 10 % 16 == 15 then .ok (.mmz (fld 4 22 w) (fld 4 18 w) (fld 4 14 w) (fld 1 1 w) (fld 1 0 w))
    else .ok (.mmzKnotted (fld 4 22 w) (fld 4 18 w) (fld 4 14 w) (fld 4 10 w) (fld 1 1 w) (fld 1 0 w))
  | 2 => if w / 2 ^ 10 % 16 == 15 then .ok (.ply (fld 4 22 w) (fld 4 18 w) (fld 4 14 w) (fld 1 1 w) (fld 1 0 w))
    else .ok (.plyKnotted (fld 4 22 w) (fld 4 18 w) (fld 4 14 w) (fld 4 10 w) (fld 1 1 w) (fld 1 0 w))
  | 3 => if w / 2 ^ 10 % 16 == 15 then .ok (.tld (fld 4 22 w) (fld 1 2 w) (fld 1 1 w) (fld 1 0 w))
    else .ok (.tldKnotted (fld 4 22 w) (fld 4 10 w) (fld 1 2 w) (fld 1 1 w) (fld 1 0 w))
  | 4 => if w / 2 ^ 10 % 16 == 15 then .ok (.tst (fld 4 18 w) (fld 1 2 w) (fld 2 0 w))
    else .ok (.tstKnotted (fld 4 18 w) (fld 4 10 w) (fld 1 2 w) (fld 2 0 w))
  | 5 => if w / 2 ^ 10 % 16 == 15 then .ok (.tzero (fld 4 22 w))
    else .ok (.tzeroKnotted (fld 4 22 w) (fld 4 10 w))
  | 6 => if w / 2 ^ 10 % 16 == 15 then .ok (.tscl (fld 4 22 w))
    else .ok (.tsclKnotted (fld 4 22 w) (fld 4 10 w))
  | 7 => if w / 2 ^ 10 % 16 == 15 then .ok (.tcvt (fld 4 22 w) (fld 4 18 w))
    else .ok (.tcvtKnotted (fld 4 22 w) (fld 4 18 w) (fld 4 10 w))
  | 8 => if w / 2 ^ 10 % 16 == 15 then .error .contextMismatch
    else .ok (.trd (fld 4 22 w) (fld 7 14 w) (fld 4 10 w) (fld 4 0 w))
  | 9 => if w / 2 ^ 10 % 16 == 15 then .error .contextMismatch
    else .ok (.twr (fld 4 22 w) (fld 7 14 w) (fld 4 10 w) (fld 4 0 w))
  | 10 => if w / 2 ^ 10 % 16 == 15 then .ok (.tstat (fld 4 22 w) (fld 6 14 w) (fld 1 0 w))
    else .ok (.tstatKnotted (fld 4 22 w) (fld 7 14 w) (fld 4 10 w) (fld 1 0 w))
  | _ => .error .illegalOpcode

/-- The forms of major 0x39 (02 R55). -/
noncomputable def decode39 (w : Nat) : Except DecodeError Instr :=
  match w % 8 with
  | 0 => .ok (.dload (fld 7 12 w) (fld 4 8 w))
  | 1 => .ok (.dnext (fld 7 19 w) (fld 3 5 w))
  | 2 => .ok (.dred (fld 7 12 w) (fld 2 6 w) (fld 2 4 w))
  | 3 => .ok (.dget (fld 7 19 w) (fld 2 6 w) (fld 2 4 w))
  | 4 => .ok (.dend (fld 4 8 w))
  | 5 => .ok (.dstat (fld 7 19 w))
  | _ => .error .illegalOpcode

/-- The forms of major 0x3A (02 R55). -/
noncomputable def decode3A (w : Nat) : Except DecodeError Instr :=
  match w / 2 ^ 24 % 4, w % 4 with
  | 0, 0 => .ok .barSkein
  | 0, 1 => .ok (.barvSkein (fld 7 12 w))
  | 0, 2 => .ok (.barwSkein (fld 7 12 w))
  | 1, 0 => .ok .barClus
  | 1, 1 => .ok (.barvClus (fld 7 12 w))
  | 1, 2 => .ok (.barwClus (fld 7 12 w))
  | 2, 0 => .ok .barDie
  | 2, 1 => .ok (.barvDie (fld 7 12 w))
  | 2, 2 => .ok (.barwDie (fld 7 12 w))
  | 3, 0 => .ok .barPkg
  | 3, 1 => .ok (.barvPkg (fld 7 12 w))
  | 3, 2 => .ok (.barwPkg (fld 7 12 w))
  | _, _ => .error .illegalOpcode

/-- The forms of major 0x3B (02 R55). -/
noncomputable def decode3B (w : Nat) : Except DecodeError Instr :=
  match w % 256 with
  | 0 => .ok (.frontAdd (fld 6 20 w) (fld 6 14 w) (fld 6 8 w))
  | 1 => .ok (.frontSub (fld 6 20 w) (fld 6 14 w) (fld 6 8 w))
  | 2 => .ok (.frontMul (fld 6 20 w) (fld 6 14 w) (fld 6 8 w))
  | 3 => .ok (.frontAnd (fld 6 20 w) (fld 6 14 w) (fld 6 8 w))
  | 4 => .ok (.frontOr (fld 6 20 w) (fld 6 14 w) (fld 6 8 w))
  | 5 => .ok (.frontXor (fld 6 20 w) (fld 6 14 w) (fld 6 8 w))
  | 6 => .ok (.frontShl (fld 6 20 w) (fld 6 14 w) (fld 6 8 w))
  | 7 => .ok (.frontShr (fld 6 20 w) (fld 6 14 w) (fld 6 8 w))
  | 8 => .ok (.frontSra (fld 6 20 w) (fld 6 14 w) (fld 6 8 w))
  | 9 => .ok (.frontMin (fld 6 20 w) (fld 6 14 w) (fld 6 8 w))
  | 10 => .ok (.frontMax (fld 6 20 w) (fld 6 14 w) (fld 6 8 w))
  | 11 => .ok (.frontMov (fld 6 20 w) (fld 6 14 w))
  | 12 => .ok (.cmps (fld 3 20 w) (fld 6 14 w) (fld 6 8 w))
  | 13 => .ok (.wtc (fld 4 20 w) (fld 6 14 w))
  | 14 => .ok (.rtc (fld 6 20 w) (fld 4 14 w))
  | 15 => .ok (.dqpush (fld 7 19 w) (fld 3 16 w) (fld 6 10 w))
  | _ => .error .illegalOpcode

/-- The forms of major 0x3C (02 R55). -/
noncomputable def decode3C (w : Nat) : Except DecodeError Instr :=
  match w / 2 ^ 17 % 8 with
  | 0 => .ok (.movsi (fld 6 20 w) (fld 17 0 w))
  | 1 => .ok (.addsi (fld 6 20 w) (fld 17 0 w))
  | 2 => .ok (.shlor (fld 6 20 w) (fld 17 0 w))
  | 3 => .ok (.cmpiEq (fld 6 20 w) (fld 3 14 w) (fld 14 0 w))
  | 4 => .ok (.cmpiLt (fld 6 20 w) (fld 3 14 w) (fld 14 0 w))
  | 5 => .ok (.cmpiLtn (fld 6 20 w) (fld 3 14 w) (fld 14 0 w))
  | _ => .error .illegalOpcode

/-- The forms of major 0x3D (02 R55). -/
noncomputable def decode3D (w : Nat) : Except DecodeError Instr :=
  match w / 2 ^ 20 % 4 with
  | 0 => .ok (.fbra (fld 3 23 w) (fld 1 22 w) (fld 20 0 w))
  | 1 => .ok (.fcall (fld 3 23 w) (fld 1 22 w) (fld 20 0 w))
  | 2 => .ok (.fret (fld 3 23 w) (fld 1 22 w))
  | _ => .ok (.fjmpr (fld 3 23 w) (fld 1 22 w) (fld 6 0 w))

/-- The forms of major 0x3E (02 R55). -/
noncomputable def decode3E (front : Bool) (w : Nat) : Except DecodeError Instr :=
  match w / 2 ^ 8 % 64 with
  | 0 => .ok (.trap (fld 8 0 w))
  | 1 => .ok .tret
  | 2 => if front then .ok (.rsrFront (fld 6 20 w) (fld 8 0 w))
    else .ok (.rsr (fld 7 19 w) (fld 8 0 w))
  | 3 => if front then .ok (.wsrFront (fld 6 20 w) (fld 8 0 w))
    else .ok (.wsr (fld 7 19 w) (fld 8 0 w))
  | 4 => if front then .ok (.lovtFront (fld 6 20 w))
    else .ok (.lovt (fld 7 19 w))
  | 5 => if front then .ok (.launch (fld 6 20 w))
    else .error .contextMismatch
  | 6 => if front then .ok (.rdclkFront (fld 6 20 w))
    else .ok (.rdclk (fld 7 19 w))
  | 7 => .ok .halt
  | _ => .error .illegalOpcode

/-- The form that the opcode map gives a word, its reserved bits not yet checked (02 R55 R56). `front`
says whether a front context reads the word, which decides the layout of major 0x3E (02 R50). -/
noncomputable def decodeForm (front : Bool) (w : Nat) : Except DecodeError Instr :=
  match majorOf w with
  | 0 => .error (if w == 0 then .zeroWord else .illegalOpcode)
  | 1 => decode01 w
  | 2 => decode02 w
  | 3 => decode03 w
  | 4 => decode04 w
  | 5 => decode05 w
  | 6 => decode06 w
  | 7 => decode07 w
  | 8 => decode08 w
  | 9 => decode09 w
  | 10 => decode0A w
  | 11 => decode0B w
  | 12 => decode0C w
  | 13 => decode0D w
  | 16 => decode10 w
  | 17 => decode11 w
  | 18 => decode12 w
  | 19 => decode13 w
  | 20 => decode14 w
  | 21 => decode15 w
  | 22 => decode16 w
  | 24 => decode18 w
  | 25 => decode19 w
  | 26 => decode1A w
  | 27 => decode1B w
  | 32 => decode20 w
  | 33 => decode21 w
  | 34 => decode22 w
  | 35 => decode23 w
  | 36 => decode24 w
  | 37 => decode25 w
  | 38 => decode26 w
  | 39 => decode27 w
  | 40 => decode28 w
  | 41 => decode29 w
  | 42 => decode2A w
  | 43 => decode2B w
  | 44 => decode2C w
  | 45 => decode2D w
  | 46 => decode2E w
  | 47 => decode2F w
  | 48 => decode30 w
  | 49 => decode31 w
  | 50 => decode32 w
  | 51 => decode33 w
  | 52 => decode34 w
  | 53 => decode35 w
  | 54 => decode36 w
  | 55 => decode37 w
  | 56 => decode38 w
  | 57 => decode39 w
  | 58 => decode3A w
  | 59 => decode3B w
  | 60 => decode3C w
  | 61 => decode3D w
  | 62 => decode3E front w
  | _ => .error .illegalOpcode

/-- A word from its fixed bits and its fields, each with the bit it starts at (02 R48). -/
def pack (fixed : Nat) : List (Nat × Nat) → Option Nat
  | [] => some fixed
  | (v, lo) :: rest => pack (fixed + v * 2 ^ lo) rest

/-- The word of an instruction, from the encoding tables of the spec; none for a step that is no word
(02 R48 R50 R55, 95). -/
def encode : Instr → Option Nat
  | .add d a b => pack 0x04000000 [(d.toNat, 19), (a.toNat, 12), (b.toNat, 5)]
  | .sub d a b => pack 0x04000001 [(d.toNat, 19), (a.toNat, 12), (b.toNat, 5)]
  | .mullo d a b => pack 0x04000002 [(d.toNat, 19), (a.toNat, 12), (b.toNat, 5)]
  | .mulhiI32 d a b => pack 0x04000003 [(d.toNat, 19), (a.toNat, 12), (b.toNat, 5)]
  | .mulhiN32 d a b => pack 0x04000004 [(d.toNat, 19), (a.toNat, 12), (b.toNat, 5)]
  | .minI32 d a b => pack 0x04000005 [(d.toNat, 19), (a.toNat, 12), (b.toNat, 5)]
  | .maxI32 d a b => pack 0x04000006 [(d.toNat, 19), (a.toNat, 12), (b.toNat, 5)]
  | .minN32 d a b => pack 0x04000007 [(d.toNat, 19), (a.toNat, 12), (b.toNat, 5)]
  | .maxN32 d a b => pack 0x04000008 [(d.toNat, 19), (a.toNat, 12), (b.toNat, 5)]
  | .and d a b => pack 0x04000009 [(d.toNat, 19), (a.toNat, 12), (b.toNat, 5)]
  | .or d a b => pack 0x0400000a [(d.toNat, 19), (a.toNat, 12), (b.toNat, 5)]
  | .xor d a b => pack 0x0400000b [(d.toNat, 19), (a.toNat, 12), (b.toNat, 5)]
  | .andn d a b => pack 0x0400000c [(d.toNat, 19), (a.toNat, 12), (b.toNat, 5)]
  | .shl d a b => pack 0x0400000d [(d.toNat, 19), (a.toNat, 12), (b.toNat, 5)]
  | .shrN32 d a b => pack 0x0400000e [(d.toNat, 19), (a.toNat, 12), (b.toNat, 5)]
  | .shrI32 d a b => pack 0x0400000f [(d.toNat, 19), (a.toNat, 12), (b.toNat, 5)]
  | .rotl d a b => pack 0x04000010 [(d.toNat, 19), (a.toNat, 12), (b.toNat, 5)]
  | .abs d a => pack 0x04000011 [(d.toNat, 19), (a.toNat, 12)]
  | .neg d a => pack 0x04000012 [(d.toNat, 19), (a.toNat, 12)]
  | .clz d a => pack 0x04000013 [(d.toNat, 19), (a.toNat, 12)]
  | .popc d a => pack 0x04000014 [(d.toNat, 19), (a.toNat, 12)]
  | .brev d a => pack 0x04000015 [(d.toNat, 19), (a.toNat, 12)]
  | .bfxN32 d a b => pack 0x04000016 [(d.toNat, 19), (a.toNat, 12), (b.toNat, 5)]
  | .bfxI32 d a b => pack 0x04000017 [(d.toNat, 19), (a.toNat, 12), (b.toNat, 5)]
  | .bfi d a b => pack 0x04000018 [(d.toNat, 19), (a.toNat, 12), (b.toNat, 5)]
  | .mad d a b => pack 0x04000019 [(d.toNat, 19), (a.toNat, 12), (b.toNat, 5)]
  | .addi d a i => pack 0x08000000 [(d.toNat, 19), (a.toNat, 12), (i.toNat, 0)]
  | .andi d a i => pack 0x0c000000 [(d.toNat, 19), (a.toNat, 12), (i.toNat, 0)]
  | .ori d a i => pack 0x10000000 [(d.toNat, 19), (a.toNat, 12), (i.toNat, 0)]
  | .xori d a i => pack 0x14000000 [(d.toNat, 19), (a.toNat, 12), (i.toNat, 0)]
  | .shli d a n => pack 0x18000000 [(d.toNat, 19), (a.toNat, 12), (n.toNat, 0)]
  | .shriN32 d a n => pack 0x18000400 [(d.toNat, 19), (a.toNat, 12), (n.toNat, 0)]
  | .shriI32 d a n => pack 0x18000800 [(d.toNat, 19), (a.toNat, 12), (n.toNat, 0)]
  | .rotli d a n => pack 0x18000c00 [(d.toNat, 19), (a.toNat, 12), (n.toNat, 0)]
  | .lui d i => pack 0x1c000000 [(d.toNat, 19), (i.toNat, 0)]
  | .movi d i => pack 0x20000000 [(d.toNat, 19), (i.toNat, 0)]
  | .addI64 d a b => pack 0x24000000 [(d.toNat, 19), (a.toNat, 12), (b.toNat, 5)]
  | .subI64 d a b => pack 0x24000001 [(d.toNat, 19), (a.toNat, 12), (b.toNat, 5)]
  | .mulloI64 d a b => pack 0x24000002 [(d.toNat, 19), (a.toNat, 12), (b.toNat, 5)]
  | .mulhiI64 d a b => pack 0x24000003 [(d.toNat, 19), (a.toNat, 12), (b.toNat, 5)]
  | .mulhiN64 d a b => pack 0x24000004 [(d.toNat, 19), (a.toNat, 12), (b.toNat, 5)]
  | .minI64 d a b => pack 0x24000005 [(d.toNat, 19), (a.toNat, 12), (b.toNat, 5)]
  | .maxI64 d a b => pack 0x24000006 [(d.toNat, 19), (a.toNat, 12), (b.toNat, 5)]
  | .minN64 d a b => pack 0x24000007 [(d.toNat, 19), (a.toNat, 12), (b.toNat, 5)]
  | .maxN64 d a b => pack 0x24000008 [(d.toNat, 19), (a.toNat, 12), (b.toNat, 5)]
  | .shlB64 d a b => pack 0x24000009 [(d.toNat, 19), (a.toNat, 12), (b.toNat, 5)]
  | .shrN64 d a b => pack 0x2400000a [(d.toNat, 19), (a.toNat, 12), (b.toNat, 5)]
  | .shrI64 d a b => pack 0x2400000b [(d.toNat, 19), (a.toNat, 12), (b.toNat, 5)]
  | .negI64 d a => pack 0x2400000c [(d.toNat, 19), (a.toNat, 12)]
  | .clzB64 d a => pack 0x2400000d [(d.toNat, 19), (a.toNat, 12)]
  | .popcB64 d a => pack 0x2400000e [(d.toNat, 19), (a.toNat, 12)]
  | .mulwI32 d a b => pack 0x2400000f [(d.toNat, 19), (a.toNat, 12), (b.toNat, 5)]
  | .mulwN32 d a b => pack 0x24000010 [(d.toNat, 19), (a.toNat, 12), (b.toNat, 5)]
  | .addxI64 d a b => pack 0x24000011 [(d.toNat, 19), (a.toNat, 12), (b.toNat, 5)]
  | .cmpEqI32 p a b => pack 0x28000000 [(p.toNat, 19), (a.toNat, 12), (b.toNat, 5)]
  | .cmpNeI32 p a b => pack 0x28000001 [(p.toNat, 19), (a.toNat, 12), (b.toNat, 5)]
  | .cmpLtI32 p a b => pack 0x28000002 [(p.toNat, 19), (a.toNat, 12), (b.toNat, 5)]
  | .cmpLeI32 p a b => pack 0x28000003 [(p.toNat, 19), (a.toNat, 12), (b.toNat, 5)]
  | .cmpLtN32 p a b => pack 0x28000004 [(p.toNat, 19), (a.toNat, 12), (b.toNat, 5)]
  | .cmpLeN32 p a b => pack 0x28000005 [(p.toNat, 19), (a.toNat, 12), (b.toNat, 5)]
  | .cmpEqI64 p a b => pack 0x28000006 [(p.toNat, 19), (a.toNat, 12), (b.toNat, 5)]
  | .cmpNeI64 p a b => pack 0x28000007 [(p.toNat, 19), (a.toNat, 12), (b.toNat, 5)]
  | .cmpLtI64 p a b => pack 0x28000008 [(p.toNat, 19), (a.toNat, 12), (b.toNat, 5)]
  | .cmpLeI64 p a b => pack 0x28000009 [(p.toNat, 19), (a.toNat, 12), (b.toNat, 5)]
  | .cmpLtN64 p a b => pack 0x2800000a [(p.toNat, 19), (a.toNat, 12), (b.toNat, 5)]
  | .cmpLeN64 p a b => pack 0x2800000b [(p.toNat, 19), (a.toNat, 12), (b.toNat, 5)]
  | .cmpEqF32 p a b => pack 0x2800000c [(p.toNat, 19), (a.toNat, 12), (b.toNat, 5)]
  | .cmpNeF32 p a b => pack 0x2800000d [(p.toNat, 19), (a.toNat, 12), (b.toNat, 5)]
  | .cmpLtF32 p a b => pack 0x2800000e [(p.toNat, 19), (a.toNat, 12), (b.toNat, 5)]
  | .cmpLeF32 p a b => pack 0x2800000f [(p.toNat, 19), (a.toNat, 12), (b.toNat, 5)]
  | .cmpUnF32 p a b => pack 0x28000010 [(p.toNat, 19), (a.toNat, 12), (b.toNat, 5)]
  | .cmpEqF64 p a b => pack 0x28000011 [(p.toNat, 19), (a.toNat, 12), (b.toNat, 5)]
  | .cmpNeF64 p a b => pack 0x28000012 [(p.toNat, 19), (a.toNat, 12), (b.toNat, 5)]
  | .cmpLtF64 p a b => pack 0x28000013 [(p.toNat, 19), (a.toNat, 12), (b.toNat, 5)]
  | .cmpLeF64 p a b => pack 0x28000014 [(p.toNat, 19), (a.toNat, 12), (b.toNat, 5)]
  | .cmpUnF64 p a b => pack 0x28000015 [(p.toNat, 19), (a.toNat, 12), (b.toNat, 5)]
  | .pand d a b => pack 0x2c000000 [(d.toNat, 19), (a.toNat, 12), (b.toNat, 5)]
  | .por d a b => pack 0x2c000001 [(d.toNat, 19), (a.toNat, 12), (b.toNat, 5)]
  | .pxor d a b => pack 0x2c000002 [(d.toNat, 19), (a.toNat, 12), (b.toNat, 5)]
  | .pandn d a b => pack 0x2c000003 [(d.toNat, 19), (a.toNat, 12), (b.toNat, 5)]
  | .pnot d a => pack 0x2c000004 [(d.toNat, 19), (a.toNat, 12)]
  | .pmov d a => pack 0x2c000005 [(d.toNat, 19), (a.toNat, 12)]
  | .sel d a b n p => pack 0x30000000 [(d.toNat, 19), (a.toNat, 12), (b.toNat, 5), (n.toNat, 4), (p.toNat, 0)]
  | .sel64 d a b n p => pack 0x30000008 [(d.toNat, 19), (a.toNat, 12), (b.toNat, 5), (n.toNat, 4), (p.toNat, 0)]
  | .mov d a => pack 0x34000000 [(d.toNat, 19), (a.toNat, 12)]
  | .mov64 d a => pack 0x34000001 [(d.toNat, 19), (a.toNat, 12)]
  | .pget d => pack 0x34000002 [(d.toNat, 19)]
  | .pput a => pack 0x34000003 [(a.toNat, 12)]
  | .dqpop d t => pack 0x34000004 [(d.toNat, 19), (t.toNat, 5)]
  | .addF32 d a b => pack 0x40000000 [(d.toNat, 19), (a.toNat, 12), (b.toNat, 5)]
  | .subF32 d a b => pack 0x40000001 [(d.toNat, 19), (a.toNat, 12), (b.toNat, 5)]
  | .mulF32 d a b => pack 0x40000002 [(d.toNat, 19), (a.toNat, 12), (b.toNat, 5)]
  | .fmaF32 d a b => pack 0x40000003 [(d.toNat, 19), (a.toNat, 12), (b.toNat, 5)]
  | .minF32 d a b => pack 0x40000004 [(d.toNat, 19), (a.toNat, 12), (b.toNat, 5)]
  | .maxF32 d a b => pack 0x40000005 [(d.toNat, 19), (a.toNat, 12), (b.toNat, 5)]
  | .minmF32 d a b => pack 0x40000006 [(d.toNat, 19), (a.toNat, 12), (b.toNat, 5)]
  | .maxmF32 d a b => pack 0x40000007 [(d.toNat, 19), (a.toNat, 12), (b.toNat, 5)]
  | .absF32 d a => pack 0x40000008 [(d.toNat, 19), (a.toNat, 12)]
  | .negF32 d a => pack 0x40000009 [(d.toNat, 19), (a.toNat, 12)]
  | .copysignF32 d a b => pack 0x4000000a [(d.toNat, 19), (a.toNat, 12), (b.toNat, 5)]
  | .divF32 d a b => pack 0x4000000b [(d.toNat, 19), (a.toNat, 12), (b.toNat, 5)]
  | .sqrtF32 d a => pack 0x4000000c [(d.toNat, 19), (a.toNat, 12)]
  | .rcpF32 d a => pack 0x4000000d [(d.toNat, 19), (a.toNat, 12)]
  | .rsqrtF32 d a => pack 0x4000000e [(d.toNat, 19), (a.toNat, 12)]
  | .exp2F32 d a => pack 0x4000000f [(d.toNat, 19), (a.toNat, 12)]
  | .log2F32 d a => pack 0x40000010 [(d.toNat, 19), (a.toNat, 12)]
  | .tanhF32 d a => pack 0x40000011 [(d.toNat, 19), (a.toNat, 12)]
  | .floorF32 d a => pack 0x40000012 [(d.toNat, 19), (a.toNat, 12)]
  | .ceilF32 d a => pack 0x40000013 [(d.toNat, 19), (a.toNat, 12)]
  | .truncF32 d a => pack 0x40000014 [(d.toNat, 19), (a.toNat, 12)]
  | .rintF32 d a => pack 0x40000015 [(d.toNat, 19), (a.toNat, 12)]
  | .classF32 d a => pack 0x40000016 [(d.toNat, 19), (a.toNat, 12)]
  | .ldexpF32 d a b => pack 0x40000017 [(d.toNat, 19), (a.toNat, 12), (b.toNat, 5)]
  | .addF64 d a b => pack 0x44000000 [(d.toNat, 19), (a.toNat, 12), (b.toNat, 5)]
  | .subF64 d a b => pack 0x44000001 [(d.toNat, 19), (a.toNat, 12), (b.toNat, 5)]
  | .mulF64 d a b => pack 0x44000002 [(d.toNat, 19), (a.toNat, 12), (b.toNat, 5)]
  | .fmaF64 d a b => pack 0x44000003 [(d.toNat, 19), (a.toNat, 12), (b.toNat, 5)]
  | .minF64 d a b => pack 0x44000004 [(d.toNat, 19), (a.toNat, 12), (b.toNat, 5)]
  | .maxF64 d a b => pack 0x44000005 [(d.toNat, 19), (a.toNat, 12), (b.toNat, 5)]
  | .absF64 d a => pack 0x44000006 [(d.toNat, 19), (a.toNat, 12)]
  | .negF64 d a => pack 0x44000007 [(d.toNat, 19), (a.toNat, 12)]
  | .divF64 d a b => pack 0x44000008 [(d.toNat, 19), (a.toNat, 12), (b.toNat, 5)]
  | .sqrtF64 d a => pack 0x44000009 [(d.toNat, 19), (a.toNat, 12)]
  | .floorF64 d a => pack 0x4400000a [(d.toNat, 19), (a.toNat, 12)]
  | .ceilF64 d a => pack 0x4400000b [(d.toNat, 19), (a.toNat, 12)]
  | .truncF64 d a => pack 0x4400000c [(d.toNat, 19), (a.toNat, 12)]
  | .rintF64 d a => pack 0x4400000d [(d.toNat, 19), (a.toNat, 12)]
  | .addF16x2 d a b => pack 0x48000000 [(d.toNat, 19), (a.toNat, 12), (b.toNat, 5)]
  | .subF16x2 d a b => pack 0x48000001 [(d.toNat, 19), (a.toNat, 12), (b.toNat, 5)]
  | .mulF16x2 d a b => pack 0x48000002 [(d.toNat, 19), (a.toNat, 12), (b.toNat, 5)]
  | .fmaF16x2 d a b => pack 0x48000003 [(d.toNat, 19), (a.toNat, 12), (b.toNat, 5)]
  | .minF16x2 d a b => pack 0x48000004 [(d.toNat, 19), (a.toNat, 12), (b.toNat, 5)]
  | .maxF16x2 d a b => pack 0x48000005 [(d.toNat, 19), (a.toNat, 12), (b.toNat, 5)]
  | .addBf16x2 d a b => pack 0x4c000000 [(d.toNat, 19), (a.toNat, 12), (b.toNat, 5)]
  | .subBf16x2 d a b => pack 0x4c000001 [(d.toNat, 19), (a.toNat, 12), (b.toNat, 5)]
  | .mulBf16x2 d a b => pack 0x4c000002 [(d.toNat, 19), (a.toNat, 12), (b.toNat, 5)]
  | .fmaBf16x2 d a b => pack 0x4c000003 [(d.toNat, 19), (a.toNat, 12), (b.toNat, 5)]
  | .minBf16x2 d a b => pack 0x4c000004 [(d.toNat, 19), (a.toNat, 12), (b.toNat, 5)]
  | .maxBf16x2 d a b => pack 0x4c000005 [(d.toNat, 19), (a.toNat, 12), (b.toNat, 5)]
  | .cvt d a s t => pack 0x50000000 [(d.toNat, 19), (a.toNat, 12), (s.toNat, 7), (t.toNat, 0)]
  | .dot2F16x2 d a b => pack 0x54000000 [(d.toNat, 19), (a.toNat, 12), (b.toNat, 5)]
  | .dot2Bf16x2 d a b => pack 0x54000001 [(d.toNat, 19), (a.toNat, 12), (b.toNat, 5)]
  | .dot4E4m3x4 d a b => pack 0x54000002 [(d.toNat, 19), (a.toNat, 12), (b.toNat, 5)]
  | .dot4I8x4 d a b => pack 0x54000003 [(d.toNat, 19), (a.toNat, 12), (b.toNat, 5)]
  | .dot4N8x4 d a b => pack 0x54000004 [(d.toNat, 19), (a.toNat, 12), (b.toNat, 5)]
  | .mvc d a l => pack 0x58000000 [(d.toNat, 19), (a.toNat, 12), (l.toNat, 4)]
  | .mvcAcc d a l => pack 0x58000001 [(d.toNat, 19), (a.toNat, 12), (l.toNat, 4)]
  | .xshflIdx d a b m => pack 0x60000000 [(d.toNat, 19), (a.toNat, 12), (b.toNat, 5), (m.toNat, 0)]
  | .xshflUp d a b m => pack 0x60000008 [(d.toNat, 19), (a.toNat, 12), (b.toNat, 5), (m.toNat, 0)]
  | .xshflDown d a b m => pack 0x60000010 [(d.toNat, 19), (a.toNat, 12), (b.toNat, 5), (m.toNat, 0)]
  | .xshflXor d a b m => pack 0x60000018 [(d.toNat, 19), (a.toNat, 12), (b.toNat, 5), (m.toNat, 0)]
  | .xredAddI32 d a m => pack 0x64000000 [(d.toNat, 19), (a.toNat, 12), (m.toNat, 0)]
  | .xredMinI32 d a m => pack 0x64000020 [(d.toNat, 19), (a.toNat, 12), (m.toNat, 0)]
  | .xredMaxI32 d a m => pack 0x64000040 [(d.toNat, 19), (a.toNat, 12), (m.toNat, 0)]
  | .xredMinN32 d a m => pack 0x64000060 [(d.toNat, 19), (a.toNat, 12), (m.toNat, 0)]
  | .xredMaxN32 d a m => pack 0x64000080 [(d.toNat, 19), (a.toNat, 12), (m.toNat, 0)]
  | .xredAnd d a m => pack 0x640000a0 [(d.toNat, 19), (a.toNat, 12), (m.toNat, 0)]
  | .xredOr d a m => pack 0x640000c0 [(d.toNat, 19), (a.toNat, 12), (m.toNat, 0)]
  | .xredXor d a m => pack 0x640000e0 [(d.toNat, 19), (a.toNat, 12), (m.toNat, 0)]
  | .xredAddF32 d a m => pack 0x64000100 [(d.toNat, 19), (a.toNat, 12), (m.toNat, 0)]
  | .xredMinF32 d a m => pack 0x64000120 [(d.toNat, 19), (a.toNat, 12), (m.toNat, 0)]
  | .xredMaxF32 d a m => pack 0x64000140 [(d.toNat, 19), (a.toNat, 12), (m.toNat, 0)]
  | .ballot d s m => pack 0x68000000 [(d.toNat, 19), (s.toNat, 12), (m.toNat, 0)]
  | .any p s m => pack 0x68000008 [(p.toNat, 19), (s.toNat, 12), (m.toNat, 0)]
  | .all p s m => pack 0x68000010 [(p.toNat, 19), (s.toNat, 12), (m.toNat, 0)]
  | .uni p a m => pack 0x68000018 [(p.toNat, 19), (a.toNat, 12), (m.toNat, 0)]
  | .ldS64 d a b i => pack 0x6c000000 [(d.toNat, 20), (a.toNat, 14), (b.toNat, 8), (i.toNat, 0)]
  | .stS64 d a b i => pack 0x6c000040 [(d.toNat, 20), (a.toNat, 14), (b.toNat, 8), (i.toNat, 0)]
  | .ldS32 d a b i => pack 0x6c000080 [(d.toNat, 20), (a.toNat, 14), (b.toNat, 8), (i.toNat, 0)]
  | .stS32 d a b i => pack 0x6c0000c0 [(d.toNat, 20), (a.toNat, 14), (b.toNat, 8), (i.toNat, 0)]
  | .bra p n o => pack 0x80000000 [(p.toNat, 23), (n.toNat, 22), (o.toNat, 0)]
  | .bruD t o => pack 0x84000000 [(t.toNat, 14), (o.toNat, 0)]
  | .bruP p n o => pack 0x84200000 [(p.toNat, 23), (n.toNat, 22), (o.toNat, 0)]
  | .call p n o => pack 0x88000000 [(p.toNat, 23), (n.toNat, 22), (o.toNat, 0)]
  | .jmp a => pack 0x8c000000 [(a.toNat, 12)]
  | .callr d a => pack 0x8c000001 [(d.toNat, 19), (a.toNat, 12)]
  | .ret a => pack 0x8c000002 [(a.toNat, 12)]
  | .jmpU a => pack 0x8c000003 [(a.toNat, 12)]
  | .card => pack 0x90000000 []
  | .exit => pack 0x94000000 []
  | .exitRelay e => pack 0x95000000 [(e.toNat, 0)]
  | .karm k v => pack 0x98000000 [(k.toNat, 22), (v.toNat, 15)]
  | .karmByte k => pack 0x98001000 [(k.toNat, 22)]
  | .tie k => pack 0x98000001 [(k.toNat, 22)]
  | .tiew k => pack 0x98000002 [(k.toNat, 22)]
  | .kexpect k v => pack 0x98000003 [(k.toNat, 22), (v.toNat, 15)]
  | .kwait k => pack 0x98000004 [(k.toNat, 22)]
  | .kstat k d => pack 0x98000005 [(k.toNat, 22), (d.toNat, 15)]
  | .wait l s c t => pack 0x9c000000 [(l.toNat, 22), (s.toNat, 18), (c.toNat, 15), (t.toNat, 12)]
  | .nop => pack 0xa0000000 []
  | .yield => pack 0xa1000000 []
  | .ipf o => pack 0xa2000000 [(o.toNat, 0)]
  | .brk c => pack 0xa3000000 [(c.toNat, 0)]
  | .ldN8 d a b c s => pack 0xa4000000 [(d.toNat, 19), (a.toNat, 12), (b.toNat, 6), (c.toNat, 1), (s.toNat, 0)]
  | .ldI8 d a b c s => pack 0xa4000008 [(d.toNat, 19), (a.toNat, 12), (b.toNat, 6), (c.toNat, 1), (s.toNat, 0)]
  | .ldN16 d a b c s => pack 0xa4000010 [(d.toNat, 19), (a.toNat, 12), (b.toNat, 6), (c.toNat, 1), (s.toNat, 0)]
  | .ldI16 d a b c s => pack 0xa4000018 [(d.toNat, 19), (a.toNat, 12), (b.toNat, 6), (c.toNat, 1), (s.toNat, 0)]
  | .ldB32 d a b c s => pack 0xa4000020 [(d.toNat, 19), (a.toNat, 12), (b.toNat, 6), (c.toNat, 1), (s.toNat, 0)]
  | .ldB64 d a b c s => pack 0xa4000028 [(d.toNat, 19), (a.toNat, 12), (b.toNat, 6), (c.toNat, 1), (s.toNat, 0)]
  | .ldB128 d a b c s => pack 0xa4000030 [(d.toNat, 19), (a.toNat, 12), (b.toNat, 6), (c.toNat, 1), (s.toNat, 0)]
  | .stB8 d a b c => pack 0xa8000000 [(d.toNat, 19), (a.toNat, 12), (b.toNat, 6), (c.toNat, 1)]
  | .stB16 d a b c => pack 0xa8000010 [(d.toNat, 19), (a.toNat, 12), (b.toNat, 6), (c.toNat, 1)]
  | .stB32 d a b c => pack 0xa8000020 [(d.toNat, 19), (a.toNat, 12), (b.toNat, 6), (c.toNat, 1)]
  | .stB64 d a b c => pack 0xa8000028 [(d.toNat, 19), (a.toNat, 12), (b.toNat, 6), (c.toNat, 1)]
  | .stB128 d a b c => pack 0xa8000030 [(d.toNat, 19), (a.toNat, 12), (b.toNat, 6), (c.toNat, 1)]
  | .ldaN8 d a b s => pack 0xac000000 [(d.toNat, 19), (a.toNat, 12), (b.toNat, 6), (s.toNat, 0)]
  | .ldaI8 d a b s => pack 0xac000008 [(d.toNat, 19), (a.toNat, 12), (b.toNat, 6), (s.toNat, 0)]
  | .ldaN16 d a b s => pack 0xac000010 [(d.toNat, 19), (a.toNat, 12), (b.toNat, 6), (s.toNat, 0)]
  | .ldaI16 d a b s => pack 0xac000018 [(d.toNat, 19), (a.toNat, 12), (b.toNat, 6), (s.toNat, 0)]
  | .ldaB32 d a b s => pack 0xac000020 [(d.toNat, 19), (a.toNat, 12), (b.toNat, 6), (s.toNat, 0)]
  | .ldaB64 d a b s => pack 0xac000028 [(d.toNat, 19), (a.toNat, 12), (b.toNat, 6), (s.toNat, 0)]
  | .ldaB128 d a b s => pack 0xac000030 [(d.toNat, 19), (a.toNat, 12), (b.toNat, 6), (s.toNat, 0)]
  | .stlB8 d a b s => pack 0xb0000000 [(d.toNat, 19), (a.toNat, 12), (b.toNat, 6), (s.toNat, 0)]
  | .stlB16 d a b s => pack 0xb0000010 [(d.toNat, 19), (a.toNat, 12), (b.toNat, 6), (s.toNat, 0)]
  | .stlB32 d a b s => pack 0xb0000020 [(d.toNat, 19), (a.toNat, 12), (b.toNat, 6), (s.toNat, 0)]
  | .stlB64 d a b s => pack 0xb0000028 [(d.toNat, 19), (a.toNat, 12), (b.toNat, 6), (s.toNat, 0)]
  | .stlB128 d a b s => pack 0xb0000030 [(d.toNat, 19), (a.toNat, 12), (b.toNat, 6), (s.toNat, 0)]
  | .atomAddI32 d a b n => pack 0xb4000000 [(d.toNat, 19), (a.toNat, 12), (b.toNat, 6), (n.toNat, 5)]
  | .atomAddI64 d a b n => pack 0xb4000001 [(d.toNat, 19), (a.toNat, 12), (b.toNat, 6), (n.toNat, 5)]
  | .atomMinI32 d a b n => pack 0xb4000002 [(d.toNat, 19), (a.toNat, 12), (b.toNat, 6), (n.toNat, 5)]
  | .atomMaxI32 d a b n => pack 0xb4000003 [(d.toNat, 19), (a.toNat, 12), (b.toNat, 6), (n.toNat, 5)]
  | .atomMinN32 d a b n => pack 0xb4000004 [(d.toNat, 19), (a.toNat, 12), (b.toNat, 6), (n.toNat, 5)]
  | .atomMaxN32 d a b n => pack 0xb4000005 [(d.toNat, 19), (a.toNat, 12), (b.toNat, 6), (n.toNat, 5)]
  | .atomAndB32 d a b n => pack 0xb4000006 [(d.toNat, 19), (a.toNat, 12), (b.toNat, 6), (n.toNat, 5)]
  | .atomOrB32 d a b n => pack 0xb4000007 [(d.toNat, 19), (a.toNat, 12), (b.toNat, 6), (n.toNat, 5)]
  | .atomXorB32 d a b n => pack 0xb4000008 [(d.toNat, 19), (a.toNat, 12), (b.toNat, 6), (n.toNat, 5)]
  | .atomXchgB32 d a b n => pack 0xb4000009 [(d.toNat, 19), (a.toNat, 12), (b.toNat, 6), (n.toNat, 5)]
  | .atomXchgB64 d a b n => pack 0xb400000a [(d.toNat, 19), (a.toNat, 12), (b.toNat, 6), (n.toNat, 5)]
  | .atomCasB32 d a b n => pack 0xb400000b [(d.toNat, 19), (a.toNat, 12), (b.toNat, 6), (n.toNat, 5)]
  | .atomCasB64 d a b n => pack 0xb400000c [(d.toNat, 19), (a.toNat, 12), (b.toNat, 6), (n.toNat, 5)]
  | .atomCasB128 d a b n => pack 0xb400000d [(d.toNat, 19), (a.toNat, 12), (b.toNat, 6), (n.toNat, 5)]
  | .atomFaddF32 d a b n => pack 0xb400000e [(d.toNat, 19), (a.toNat, 12), (b.toNat, 6), (n.toNat, 5)]
  | .atomFaddF64 d a b n => pack 0xb400000f [(d.toNat, 19), (a.toNat, 12), (b.toNat, 6), (n.toNat, 5)]
  | .atomFaddF16x2 d a b n => pack 0xb4000010 [(d.toNat, 19), (a.toNat, 12), (b.toNat, 6), (n.toNat, 5)]
  | .atomFaddBf16x2 d a b n => pack 0xb4000011 [(d.toNat, 19), (a.toNat, 12), (b.toNat, 6), (n.toNat, 5)]
  | .atomFminF32 d a b n => pack 0xb4000012 [(d.toNat, 19), (a.toNat, 12), (b.toNat, 6), (n.toNat, 5)]
  | .atomFmaxF32 d a b n => pack 0xb4000013 [(d.toNat, 19), (a.toNat, 12), (b.toNat, 6), (n.toNat, 5)]
  | .atomFminF64 d a b n => pack 0xb4000014 [(d.toNat, 19), (a.toNat, 12), (b.toNat, 6), (n.toNat, 5)]
  | .atomFmaxF64 d a b n => pack 0xb4000015 [(d.toNat, 19), (a.toNat, 12), (b.toNat, 6), (n.toNat, 5)]
  | .atomFminF16x2 d a b n => pack 0xb4000016 [(d.toNat, 19), (a.toNat, 12), (b.toNat, 6), (n.toNat, 5)]
  | .atomFmaxF16x2 d a b n => pack 0xb4000017 [(d.toNat, 19), (a.toNat, 12), (b.toNat, 6), (n.toNat, 5)]
  | .atomFminBf16x2 d a b n => pack 0xb4000018 [(d.toNat, 19), (a.toNat, 12), (b.toNat, 6), (n.toNat, 5)]
  | .atomFmaxBf16x2 d a b n => pack 0xb4000019 [(d.toNat, 19), (a.toNat, 12), (b.toNat, 6), (n.toNat, 5)]
  | .aggregatorGroup _ => none
  | .fenceAcq f s i r e => pack 0xb8000000 [(f.toNat, 13), (s.toNat, 8), (i.toNat, 2), (r.toNat, 1), (e.toNat, 0)]
  | .fenceRel f s i r e => pack 0xb8000800 [(f.toNat, 13), (s.toNat, 8), (i.toNat, 2), (r.toNat, 1), (e.toNat, 0)]
  | .fenceAcqrel f s i r e => pack 0xb8001000 [(f.toNat, 13), (s.toNat, 8), (i.toNat, 2), (r.toNat, 1), (e.toNat, 0)]
  | .fenceSc f s i r e => pack 0xb8001800 [(f.toNat, 13), (s.toNat, 8), (i.toNat, 2), (r.toNat, 1), (e.toNat, 0)]
  | .sldN8 d a i => pack 0xbc000000 [(d.toNat, 19), (a.toNat, 12), (i.toNat, 0)]
  | .sldI8 d a i => pack 0xbc000200 [(d.toNat, 19), (a.toNat, 12), (i.toNat, 0)]
  | .sldN16 d a i => pack 0xbc000400 [(d.toNat, 19), (a.toNat, 12), (i.toNat, 0)]
  | .sldI16 d a i => pack 0xbc000600 [(d.toNat, 19), (a.toNat, 12), (i.toNat, 0)]
  | .sldB32 d a i => pack 0xbc000800 [(d.toNat, 19), (a.toNat, 12), (i.toNat, 0)]
  | .sldB64 d a i => pack 0xbc000a00 [(d.toNat, 19), (a.toNat, 12), (i.toNat, 0)]
  | .sldB128 d a i => pack 0xbc000c00 [(d.toNat, 19), (a.toNat, 12), (i.toNat, 0)]
  | .sstB8 d a i => pack 0xc0000000 [(d.toNat, 19), (a.toNat, 12), (i.toNat, 0)]
  | .sstB16 d a i => pack 0xc0000400 [(d.toNat, 19), (a.toNat, 12), (i.toNat, 0)]
  | .sstB32 d a i => pack 0xc0000800 [(d.toNat, 19), (a.toNat, 12), (i.toNat, 0)]
  | .sstB64 d a i => pack 0xc0000a00 [(d.toNat, 19), (a.toNat, 12), (i.toNat, 0)]
  | .sstB128 d a i => pack 0xc0000c00 [(d.toNat, 19), (a.toNat, 12), (i.toNat, 0)]
  | .cldN8 d a i => pack 0xc4000000 [(d.toNat, 19), (a.toNat, 12), (i.toNat, 0)]
  | .cldI8 d a i => pack 0xc4000200 [(d.toNat, 19), (a.toNat, 12), (i.toNat, 0)]
  | .cldN16 d a i => pack 0xc4000400 [(d.toNat, 19), (a.toNat, 12), (i.toNat, 0)]
  | .cldI16 d a i => pack 0xc4000600 [(d.toNat, 19), (a.toNat, 12), (i.toNat, 0)]
  | .cldB32 d a i => pack 0xc4000800 [(d.toNat, 19), (a.toNat, 12), (i.toNat, 0)]
  | .cldB64 d a i => pack 0xc4000a00 [(d.toNat, 19), (a.toNat, 12), (i.toNat, 0)]
  | .cldB128 d a i => pack 0xc4000c00 [(d.toNat, 19), (a.toNat, 12), (i.toNat, 0)]
  | .pldN8 d a i => pack 0xc8000000 [(d.toNat, 19), (a.toNat, 12), (i.toNat, 0)]
  | .pldI8 d a i => pack 0xc8000200 [(d.toNat, 19), (a.toNat, 12), (i.toNat, 0)]
  | .pldN16 d a i => pack 0xc8000400 [(d.toNat, 19), (a.toNat, 12), (i.toNat, 0)]
  | .pldI16 d a i => pack 0xc8000600 [(d.toNat, 19), (a.toNat, 12), (i.toNat, 0)]
  | .pldB32 d a i => pack 0xc8000800 [(d.toNat, 19), (a.toNat, 12), (i.toNat, 0)]
  | .pldB64 d a i => pack 0xc8000a00 [(d.toNat, 19), (a.toNat, 12), (i.toNat, 0)]
  | .pldB128 d a i => pack 0xc8000c00 [(d.toNat, 19), (a.toNat, 12), (i.toNat, 0)]
  | .pstB8 d a i => pack 0xc8000100 [(d.toNat, 19), (a.toNat, 12), (i.toNat, 0)]
  | .pstB16 d a i => pack 0xc8000500 [(d.toNat, 19), (a.toNat, 12), (i.toNat, 0)]
  | .pstB32 d a i => pack 0xc8000900 [(d.toNat, 19), (a.toNat, 12), (i.toNat, 0)]
  | .pstB64 d a i => pack 0xc8000b00 [(d.toNat, 19), (a.toNat, 12), (i.toNat, 0)]
  | .pstB128 d a i => pack 0xc8000d00 [(d.toNat, 19), (a.toNat, 12), (i.toNat, 0)]
  | .promotePin d a b => pack 0xcc000000 [(d.toNat, 19), (a.toNat, 12), (b.toNat, 6)]
  | .promoteCache d a b => pack 0xcc000001 [(d.toNat, 19), (a.toNat, 12), (b.toNat, 6)]
  | .demote d a b => pack 0xcc000002 [(d.toNat, 19), (a.toNat, 12), (b.toNat, 6)]
  | .pfl2 d a b => pack 0xcc000003 [(d.toNat, 19), (a.toNat, 12), (b.toNat, 6)]
  | .steeringComplete _ _ => none
  | .sstSliv d a f => pack 0xd0000000 [(d.toNat, 19), (a.toNat, 12), (f.toNat, 10)]
  | .sldSliv d a f => pack 0xd0000001 [(d.toNat, 19), (a.toNat, 12), (f.toNat, 10)]
  | .shdr d a => pack 0xd0000002 [(d.toNat, 19), (a.toNat, 12)]
  | .smap d a b => pack 0xd4000000 [(d.toNat, 20), (a.toNat, 14), (b.toNat, 8)]
  | .sunmap a => pack 0xd4000001 [(a.toNat, 14)]
  | .swb a => pack 0xd4000002 [(a.toNat, 14)]
  | .sinv a => pack 0xd4000003 [(a.toNat, 14)]
  | .sfind d a b => pack 0xd4000004 [(d.toNat, 20), (a.toNat, 14), (b.toNat, 8)]
  | .sinfo d a => pack 0xd4000005 [(d.toNat, 20), (a.toNat, 14)]
  | .stashFillComplete _ _ => none
  | .qinit d q => pack 0xd8000000 [(d.toNat, 20), (q.toNat, 15)]
  | .qpush v q => pack 0xd8000001 [(v.toNat, 19), (q.toNat, 15)]
  | .qpop v q => pack 0xd8000002 [(v.toNat, 19), (q.toNat, 15)]
  | .qhpush v q => pack 0xd8000003 [(v.toNat, 19), (q.toNat, 15)]
  | .qhpop v q => pack 0xd8000004 [(v.toNat, 19), (q.toNat, 15)]
  | .qallow v q => pack 0xd8000005 [(v.toNat, 19), (q.toNat, 15)]
  | .reelGet a b k e c => pack 0xdc000000 [(a.toNat, 20), (b.toNat, 14), (k.toNat, 4), (e.toNat, 3), (c.toNat, 0)]
  | .reelPut a b k e c => pack 0xdc000100 [(a.toNat, 20), (b.toNat, 14), (k.toNat, 4), (e.toNat, 3), (c.toNat, 0)]
  | .reelPget a b k e c => pack 0xdc000200 [(a.toNat, 20), (b.toNat, 14), (k.toNat, 4), (e.toNat, 3), (c.toNat, 0)]
  | .reelPput a b k e c => pack 0xdc000300 [(a.toNat, 20), (b.toNat, 14), (k.toNat, 4), (e.toNat, 3), (c.toNat, 0)]
  | .reelExp a b k e c => pack 0xdc000400 [(a.toNat, 20), (b.toNat, 14), (k.toNat, 4), (e.toNat, 3), (c.toNat, 0)]
  | .reelDec a b k e c => pack 0xdc000500 [(a.toNat, 20), (b.toNat, 14), (k.toNat, 4), (e.toNat, 3), (c.toNat, 0)]
  | .reelRget a b k e c => pack 0xdc000600 [(a.toNat, 20), (b.toNat, 14), (k.toNat, 4), (e.toNat, 3), (c.toNat, 0)]
  | .reelRred a b k e c => pack 0xdc000700 [(a.toNat, 20), (b.toNat, 14), (k.toNat, 4), (e.toNat, 3), (c.toNat, 0)]
  | .reelWp a b c => pack 0xdc000800 [(a.toNat, 20), (b.toNat, 14), (c.toNat, 0)]
  | .reelLineComplete _ _ => none
  | .reelDecVerify _ _ => none
  | .mma d a b s c => pack 0xe0003c00 [(d.toNat, 22), (a.toNat, 18), (b.toNat, 14), (s.toNat, 1), (c.toNat, 0)]
  | .mmaKnotted d a b k s c => pack 0xe0000000 [(d.toNat, 22), (a.toNat, 18), (b.toNat, 14), (k.toNat, 10), (s.toNat, 1), (c.toNat, 0)]
  | .mmz d a b s c => pack 0xe0003c10 [(d.toNat, 22), (a.toNat, 18), (b.toNat, 14), (s.toNat, 1), (c.toNat, 0)]
  | .mmzKnotted d a b k s c => pack 0xe0000010 [(d.toNat, 22), (a.toNat, 18), (b.toNat, 14), (k.toNat, 10), (s.toNat, 1), (c.toNat, 0)]
  | .ply d a b s c => pack 0xe0003c20 [(d.toNat, 22), (a.toNat, 18), (b.toNat, 14), (s.toNat, 1), (c.toNat, 0)]
  | .plyKnotted d a b k s c => pack 0xe0000020 [(d.toNat, 22), (a.toNat, 18), (b.toNat, 14), (k.toNat, 10), (s.toNat, 1), (c.toNat, 0)]
  | .tld d w p c => pack 0xe0003c30 [(d.toNat, 22), (w.toNat, 2), (p.toNat, 1), (c.toNat, 0)]
  | .tldKnotted d k w p c => pack 0xe0000030 [(d.toNat, 22), (k.toNat, 10), (w.toNat, 2), (p.toNat, 1), (c.toNat, 0)]
  | .tst a n v => pack 0xe0003c40 [(a.toNat, 18), (n.toNat, 2), (v.toNat, 0)]
  | .tstKnotted a k n v => pack 0xe0000040 [(a.toNat, 18), (k.toNat, 10), (n.toNat, 2), (v.toNat, 0)]
  | .tzero d => pack 0xe0003c50 [(d.toNat, 22)]
  | .tzeroKnotted d k => pack 0xe0000050 [(d.toNat, 22), (k.toNat, 10)]
  | .tscl d => pack 0xe0003c60 [(d.toNat, 22)]
  | .tsclKnotted d k => pack 0xe0000060 [(d.toNat, 22), (k.toNat, 10)]
  | .tcvt d a => pack 0xe0003c70 [(d.toNat, 22), (a.toNat, 18)]
  | .tcvtKnotted d a k => pack 0xe0000070 [(d.toNat, 22), (a.toNat, 18), (k.toNat, 10)]
  | .trd t d k s => pack 0xe0000080 [(t.toNat, 22), (d.toNat, 14), (k.toNat, 10), (s.toNat, 0)]
  | .twr t d k s => pack 0xe0000090 [(t.toNat, 22), (d.toNat, 14), (k.toNat, 10), (s.toNat, 0)]
  | .tstat t d c => pack 0xe0003ca0 [(t.toNat, 22), (d.toNat, 14), (c.toNat, 0)]
  | .tstatKnotted t d k c => pack 0xe00000a0 [(t.toNat, 22), (d.toNat, 14), (k.toNat, 10), (c.toNat, 0)]
  | .tileOpComplete _ => none
  | .plyBegin _ _ => none
  | .plyComplete _ _ => none
  | .plyFail _ _ => none
  | .dload a k => pack 0xe4000000 [(a.toNat, 12), (k.toNat, 8)]
  | .dnext d p => pack 0xe4000001 [(d.toNat, 19), (p.toNat, 5)]
  | .dred a t o => pack 0xe4000002 [(a.toNat, 12), (t.toNat, 6), (o.toNat, 4)]
  | .dget d t o => pack 0xe4000003 [(d.toNat, 19), (t.toNat, 6), (o.toNat, 4)]
  | .dend k => pack 0xe4000004 [(k.toNat, 8)]
  | .dstat d => pack 0xe4000005 [(d.toNat, 19)]
  | .barSkein => pack 0xe8000000 []
  | .barvSkein a => pack 0xe8000001 [(a.toNat, 12)]
  | .barwSkein a => pack 0xe8000002 [(a.toNat, 12)]
  | .barClus => pack 0xe9000000 []
  | .barvClus a => pack 0xe9000001 [(a.toNat, 12)]
  | .barwClus a => pack 0xe9000002 [(a.toNat, 12)]
  | .barDie => pack 0xea000000 []
  | .barvDie a => pack 0xea000001 [(a.toNat, 12)]
  | .barwDie a => pack 0xea000002 [(a.toNat, 12)]
  | .barPkg => pack 0xeb000000 []
  | .barvPkg a => pack 0xeb000001 [(a.toNat, 12)]
  | .barwPkg a => pack 0xeb000002 [(a.toNat, 12)]
  | .frontAdd d a b => pack 0xec000000 [(d.toNat, 20), (a.toNat, 14), (b.toNat, 8)]
  | .frontSub d a b => pack 0xec000001 [(d.toNat, 20), (a.toNat, 14), (b.toNat, 8)]
  | .frontMul d a b => pack 0xec000002 [(d.toNat, 20), (a.toNat, 14), (b.toNat, 8)]
  | .frontAnd d a b => pack 0xec000003 [(d.toNat, 20), (a.toNat, 14), (b.toNat, 8)]
  | .frontOr d a b => pack 0xec000004 [(d.toNat, 20), (a.toNat, 14), (b.toNat, 8)]
  | .frontXor d a b => pack 0xec000005 [(d.toNat, 20), (a.toNat, 14), (b.toNat, 8)]
  | .frontShl d a b => pack 0xec000006 [(d.toNat, 20), (a.toNat, 14), (b.toNat, 8)]
  | .frontShr d a b => pack 0xec000007 [(d.toNat, 20), (a.toNat, 14), (b.toNat, 8)]
  | .frontSra d a b => pack 0xec000008 [(d.toNat, 20), (a.toNat, 14), (b.toNat, 8)]
  | .frontMin d a b => pack 0xec000009 [(d.toNat, 20), (a.toNat, 14), (b.toNat, 8)]
  | .frontMax d a b => pack 0xec00000a [(d.toNat, 20), (a.toNat, 14), (b.toNat, 8)]
  | .frontMov d a => pack 0xec00000b [(d.toNat, 20), (a.toNat, 14)]
  | .cmps q a c => pack 0xec00000c [(q.toNat, 20), (a.toNat, 14), (c.toNat, 8)]
  | .wtc t a => pack 0xec00000d [(t.toNat, 20), (a.toNat, 14)]
  | .rtc d t => pack 0xec00000e [(d.toNat, 20), (t.toNat, 14)]
  | .dqpush g q a => pack 0xec00000f [(g.toNat, 19), (q.toNat, 16), (a.toNat, 10)]
  | .movsi d i => pack 0xf0000000 [(d.toNat, 20), (i.toNat, 0)]
  | .addsi d i => pack 0xf0020000 [(d.toNat, 20), (i.toNat, 0)]
  | .shlor d i => pack 0xf0040000 [(d.toNat, 20), (i.toNat, 0)]
  | .cmpiEq d q i => pack 0xf0060000 [(d.toNat, 20), (q.toNat, 14), (i.toNat, 0)]
  | .cmpiLt d q i => pack 0xf0080000 [(d.toNat, 20), (q.toNat, 14), (i.toNat, 0)]
  | .cmpiLtn d q i => pack 0xf00a0000 [(d.toNat, 20), (q.toNat, 14), (i.toNat, 0)]
  | .fbra q n o => pack 0xf4000000 [(q.toNat, 23), (n.toNat, 22), (o.toNat, 0)]
  | .fcall q n o => pack 0xf4100000 [(q.toNat, 23), (n.toNat, 22), (o.toNat, 0)]
  | .fret q n => pack 0xf4200000 [(q.toNat, 23), (n.toNat, 22)]
  | .fjmpr q n a => pack 0xf4300000 [(q.toNat, 23), (n.toNat, 22), (a.toNat, 0)]
  | .trap c => pack 0xf8000000 [(c.toNat, 0)]
  | .tret => pack 0xf8000100 []
  | .rsr d r => pack 0xf8000200 [(d.toNat, 19), (r.toNat, 0)]
  | .rsrFront d r => pack 0xf8000200 [(d.toNat, 20), (r.toNat, 0)]
  | .wsr a r => pack 0xf8000300 [(a.toNat, 19), (r.toNat, 0)]
  | .wsrFront a r => pack 0xf8000300 [(a.toNat, 20), (r.toNat, 0)]
  | .lovt a => pack 0xf8000400 [(a.toNat, 19)]
  | .lovtFront a => pack 0xf8000400 [(a.toNat, 20)]
  | .launch a => pack 0xf8000500 [(a.toNat, 20)]
  | .rdclk d => pack 0xf8000600 [(d.toNat, 19)]
  | .rdclkFront d => pack 0xf8000600 [(d.toNat, 20)]
  | .halt => pack 0xf8000700 []
  | .clauseIssue _ => none
  | .loadComplete _ _ => none
  | .storePerformed _ => none
  | .binAged _ _ => none
  | .strandDraw _ => none
  | .strandExchange _ _ => none
  | .skeinAdmission _ => none
  | .skeinEnd _ => none
  | .stopRecordPost _ => none
  | .stopResume _ _ => none
  | .stopResumeAt _ _ => none
  | .stopEndTarget _ _ => none
  | .stopRelease _ _ => none
  | .stopReadRegister _ _ => none
  | .stopWriteRegister _ _ => none
  | .stopCommandRefused _ _ => none
  | .stopCommandDone _ => none
  | .watchdogExpiry _ => none
  | .pageWalkComplete _ _ _ => none
  | .faultPost _ => none
  | .faultResume _ _ => none
  | .faultDiscard _ _ => none
  | .invalidateVaRange _ _ => none
  | .invalidateContextTranslations _ _ => none
  | .invalidateBufferEntries _ _ => none
  | .invalidateContextAll _ _ => none
  | .invalidateAllContexts _ => none
  | .invalidateDone _ => none
  | .trackingWindow _ => none
  | .holderMove _ _ => none
  | .packetArrival _ _ => none
  | .packetAck _ _ => none
  | .linkReplay _ _ => none
  | .dieRemoval _ => none
  | .resync => none
  | .fabricFault => none
  | .lotteryDraw => none
  | .placement => none
  | .blockageExpiry _ => none
  | .contextSwitchOut _ _ => none
  | .contextSwitchIn _ _ => none
  | .quantumExpiry _ _ => none
  | .abort _ _ => none
  | .abortDone => none
  | .controlProcessorFailover _ => none
  | .widxWrite _ _ => none
  | .queueControlWrite _ _ _ => none
  | .lseedWrite _ => none
  | .bankAccess _ => none
  | .refresh _ => none
  | .activationAlert _ => none
  | .burstCrcFail _ _ _ => none
  | .laneRepair _ _ => none
  | .patrolScrub _ _ => none
  | .unpin _ => none
  | .idtabWrite _ _ => none
  | .idlock _ => none
  | .l2UncorrectableError _ _ => none
  | .clusterLeavesService _ => none
  | .hostWrite _ _ _ => none
  | .hostRead _ _ _ => none
  | .msixUnmask _ _ => none
  | .lockInterface _ _ _ _ _ => none
  | .tdiError _ => none
  | .keyset _ _ _ _ => none
  | .keyclr _ => none
  | .getMeasurements => none
  | .packageReset _ => none
  | .remoteRequest _ => none
  | .remoteResponse _ _ => none
  | .remoteTimeout _ => none
  | .portDown _ => none
  | .portUp _ => none
  | .repairCore _ => none
  | .repairDie _ => none
  | .repairUcieLane _ => none
  | .repairKrytistLane _ => none
  | .returnToService _ _ => none
  | .repairDone => none
  | .wearUpdate _ _ _ => none
  | .fatalError _ => none
  | .registerWrite _ _ => none
  | .instructionCacheFill _ _ => none
  | .refreshOwed _ => none
  | .tdiEntersRun _ => none

/-- The instruction of a word as a fibre (`front` false) or a front context reads it. A nonzero reserved
bit or a code out of range is refused (02 R56 R57). -/
noncomputable def decode (front : Bool) (w : Nat) : Except DecodeError Instr :=
  match decodeForm front w with
  | .ok i => if encode i = some w && i.wf then .ok i else .error .illegalField
  | .error e => .error e

/-- The forms that only a front context reads in their own layout (02 R45 R50, 04 R113). -/
def Instr.frontForm : Instr → Bool
  | .add _ _ _ => false
  | .sub _ _ _ => false
  | .mullo _ _ _ => false
  | .mulhiI32 _ _ _ => false
  | .mulhiN32 _ _ _ => false
  | .minI32 _ _ _ => false
  | .maxI32 _ _ _ => false
  | .minN32 _ _ _ => false
  | .maxN32 _ _ _ => false
  | .and _ _ _ => false
  | .or _ _ _ => false
  | .xor _ _ _ => false
  | .andn _ _ _ => false
  | .shl _ _ _ => false
  | .shrN32 _ _ _ => false
  | .shrI32 _ _ _ => false
  | .rotl _ _ _ => false
  | .abs _ _ => false
  | .neg _ _ => false
  | .clz _ _ => false
  | .popc _ _ => false
  | .brev _ _ => false
  | .bfxN32 _ _ _ => false
  | .bfxI32 _ _ _ => false
  | .bfi _ _ _ => false
  | .mad _ _ _ => false
  | .addi _ _ _ => false
  | .andi _ _ _ => false
  | .ori _ _ _ => false
  | .xori _ _ _ => false
  | .shli _ _ _ => false
  | .shriN32 _ _ _ => false
  | .shriI32 _ _ _ => false
  | .rotli _ _ _ => false
  | .lui _ _ => false
  | .movi _ _ => false
  | .addI64 _ _ _ => false
  | .subI64 _ _ _ => false
  | .mulloI64 _ _ _ => false
  | .mulhiI64 _ _ _ => false
  | .mulhiN64 _ _ _ => false
  | .minI64 _ _ _ => false
  | .maxI64 _ _ _ => false
  | .minN64 _ _ _ => false
  | .maxN64 _ _ _ => false
  | .shlB64 _ _ _ => false
  | .shrN64 _ _ _ => false
  | .shrI64 _ _ _ => false
  | .negI64 _ _ => false
  | .clzB64 _ _ => false
  | .popcB64 _ _ => false
  | .mulwI32 _ _ _ => false
  | .mulwN32 _ _ _ => false
  | .addxI64 _ _ _ => false
  | .cmpEqI32 _ _ _ => false
  | .cmpNeI32 _ _ _ => false
  | .cmpLtI32 _ _ _ => false
  | .cmpLeI32 _ _ _ => false
  | .cmpLtN32 _ _ _ => false
  | .cmpLeN32 _ _ _ => false
  | .cmpEqI64 _ _ _ => false
  | .cmpNeI64 _ _ _ => false
  | .cmpLtI64 _ _ _ => false
  | .cmpLeI64 _ _ _ => false
  | .cmpLtN64 _ _ _ => false
  | .cmpLeN64 _ _ _ => false
  | .cmpEqF32 _ _ _ => false
  | .cmpNeF32 _ _ _ => false
  | .cmpLtF32 _ _ _ => false
  | .cmpLeF32 _ _ _ => false
  | .cmpUnF32 _ _ _ => false
  | .cmpEqF64 _ _ _ => false
  | .cmpNeF64 _ _ _ => false
  | .cmpLtF64 _ _ _ => false
  | .cmpLeF64 _ _ _ => false
  | .cmpUnF64 _ _ _ => false
  | .pand _ _ _ => false
  | .por _ _ _ => false
  | .pxor _ _ _ => false
  | .pandn _ _ _ => false
  | .pnot _ _ => false
  | .pmov _ _ => false
  | .sel _ _ _ _ _ => false
  | .sel64 _ _ _ _ _ => false
  | .mov _ _ => false
  | .mov64 _ _ => false
  | .pget _ => false
  | .pput _ => false
  | .dqpop _ _ => false
  | .addF32 _ _ _ => false
  | .subF32 _ _ _ => false
  | .mulF32 _ _ _ => false
  | .fmaF32 _ _ _ => false
  | .minF32 _ _ _ => false
  | .maxF32 _ _ _ => false
  | .minmF32 _ _ _ => false
  | .maxmF32 _ _ _ => false
  | .absF32 _ _ => false
  | .negF32 _ _ => false
  | .copysignF32 _ _ _ => false
  | .divF32 _ _ _ => false
  | .sqrtF32 _ _ => false
  | .rcpF32 _ _ => false
  | .rsqrtF32 _ _ => false
  | .exp2F32 _ _ => false
  | .log2F32 _ _ => false
  | .tanhF32 _ _ => false
  | .floorF32 _ _ => false
  | .ceilF32 _ _ => false
  | .truncF32 _ _ => false
  | .rintF32 _ _ => false
  | .classF32 _ _ => false
  | .ldexpF32 _ _ _ => false
  | .addF64 _ _ _ => false
  | .subF64 _ _ _ => false
  | .mulF64 _ _ _ => false
  | .fmaF64 _ _ _ => false
  | .minF64 _ _ _ => false
  | .maxF64 _ _ _ => false
  | .absF64 _ _ => false
  | .negF64 _ _ => false
  | .divF64 _ _ _ => false
  | .sqrtF64 _ _ => false
  | .floorF64 _ _ => false
  | .ceilF64 _ _ => false
  | .truncF64 _ _ => false
  | .rintF64 _ _ => false
  | .addF16x2 _ _ _ => false
  | .subF16x2 _ _ _ => false
  | .mulF16x2 _ _ _ => false
  | .fmaF16x2 _ _ _ => false
  | .minF16x2 _ _ _ => false
  | .maxF16x2 _ _ _ => false
  | .addBf16x2 _ _ _ => false
  | .subBf16x2 _ _ _ => false
  | .mulBf16x2 _ _ _ => false
  | .fmaBf16x2 _ _ _ => false
  | .minBf16x2 _ _ _ => false
  | .maxBf16x2 _ _ _ => false
  | .cvt _ _ _ _ => false
  | .dot2F16x2 _ _ _ => false
  | .dot2Bf16x2 _ _ _ => false
  | .dot4E4m3x4 _ _ _ => false
  | .dot4I8x4 _ _ _ => false
  | .dot4N8x4 _ _ _ => false
  | .mvc _ _ _ => false
  | .mvcAcc _ _ _ => false
  | .xshflIdx _ _ _ _ => false
  | .xshflUp _ _ _ _ => false
  | .xshflDown _ _ _ _ => false
  | .xshflXor _ _ _ _ => false
  | .xredAddI32 _ _ _ => false
  | .xredMinI32 _ _ _ => false
  | .xredMaxI32 _ _ _ => false
  | .xredMinN32 _ _ _ => false
  | .xredMaxN32 _ _ _ => false
  | .xredAnd _ _ _ => false
  | .xredOr _ _ _ => false
  | .xredXor _ _ _ => false
  | .xredAddF32 _ _ _ => false
  | .xredMinF32 _ _ _ => false
  | .xredMaxF32 _ _ _ => false
  | .ballot _ _ _ => false
  | .any _ _ _ => false
  | .all _ _ _ => false
  | .uni _ _ _ => false
  | .ldS64 _ _ _ _ => true
  | .stS64 _ _ _ _ => true
  | .ldS32 _ _ _ _ => true
  | .stS32 _ _ _ _ => true
  | .bra _ _ _ => false
  | .bruD _ _ => false
  | .bruP _ _ _ => false
  | .call _ _ _ => false
  | .jmp _ => false
  | .callr _ _ => false
  | .ret _ => false
  | .jmpU _ => false
  | .card => false
  | .exit => false
  | .exitRelay _ => false
  | .karm _ _ => false
  | .karmByte _ => false
  | .tie _ => false
  | .tiew _ => false
  | .kexpect _ _ => false
  | .kwait _ => false
  | .kstat _ _ => false
  | .wait _ _ _ _ => false
  | .nop => false
  | .yield => false
  | .ipf _ => false
  | .brk _ => false
  | .ldN8 _ _ _ _ _ => false
  | .ldI8 _ _ _ _ _ => false
  | .ldN16 _ _ _ _ _ => false
  | .ldI16 _ _ _ _ _ => false
  | .ldB32 _ _ _ _ _ => false
  | .ldB64 _ _ _ _ _ => false
  | .ldB128 _ _ _ _ _ => false
  | .stB8 _ _ _ _ => false
  | .stB16 _ _ _ _ => false
  | .stB32 _ _ _ _ => false
  | .stB64 _ _ _ _ => false
  | .stB128 _ _ _ _ => false
  | .ldaN8 _ _ _ _ => false
  | .ldaI8 _ _ _ _ => false
  | .ldaN16 _ _ _ _ => false
  | .ldaI16 _ _ _ _ => false
  | .ldaB32 _ _ _ _ => false
  | .ldaB64 _ _ _ _ => false
  | .ldaB128 _ _ _ _ => false
  | .stlB8 _ _ _ _ => false
  | .stlB16 _ _ _ _ => false
  | .stlB32 _ _ _ _ => false
  | .stlB64 _ _ _ _ => false
  | .stlB128 _ _ _ _ => false
  | .atomAddI32 _ _ _ _ => false
  | .atomAddI64 _ _ _ _ => false
  | .atomMinI32 _ _ _ _ => false
  | .atomMaxI32 _ _ _ _ => false
  | .atomMinN32 _ _ _ _ => false
  | .atomMaxN32 _ _ _ _ => false
  | .atomAndB32 _ _ _ _ => false
  | .atomOrB32 _ _ _ _ => false
  | .atomXorB32 _ _ _ _ => false
  | .atomXchgB32 _ _ _ _ => false
  | .atomXchgB64 _ _ _ _ => false
  | .atomCasB32 _ _ _ _ => false
  | .atomCasB64 _ _ _ _ => false
  | .atomCasB128 _ _ _ _ => false
  | .atomFaddF32 _ _ _ _ => false
  | .atomFaddF64 _ _ _ _ => false
  | .atomFaddF16x2 _ _ _ _ => false
  | .atomFaddBf16x2 _ _ _ _ => false
  | .atomFminF32 _ _ _ _ => false
  | .atomFmaxF32 _ _ _ _ => false
  | .atomFminF64 _ _ _ _ => false
  | .atomFmaxF64 _ _ _ _ => false
  | .atomFminF16x2 _ _ _ _ => false
  | .atomFmaxF16x2 _ _ _ _ => false
  | .atomFminBf16x2 _ _ _ _ => false
  | .atomFmaxBf16x2 _ _ _ _ => false
  | .fenceAcq _ _ _ _ _ => false
  | .fenceRel _ _ _ _ _ => false
  | .fenceAcqrel _ _ _ _ _ => false
  | .fenceSc _ _ _ _ _ => false
  | .sldN8 _ _ _ => false
  | .sldI8 _ _ _ => false
  | .sldN16 _ _ _ => false
  | .sldI16 _ _ _ => false
  | .sldB32 _ _ _ => false
  | .sldB64 _ _ _ => false
  | .sldB128 _ _ _ => false
  | .sstB8 _ _ _ => false
  | .sstB16 _ _ _ => false
  | .sstB32 _ _ _ => false
  | .sstB64 _ _ _ => false
  | .sstB128 _ _ _ => false
  | .cldN8 _ _ _ => false
  | .cldI8 _ _ _ => false
  | .cldN16 _ _ _ => false
  | .cldI16 _ _ _ => false
  | .cldB32 _ _ _ => false
  | .cldB64 _ _ _ => false
  | .cldB128 _ _ _ => false
  | .pldN8 _ _ _ => false
  | .pldI8 _ _ _ => false
  | .pldN16 _ _ _ => false
  | .pldI16 _ _ _ => false
  | .pldB32 _ _ _ => false
  | .pldB64 _ _ _ => false
  | .pldB128 _ _ _ => false
  | .pstB8 _ _ _ => false
  | .pstB16 _ _ _ => false
  | .pstB32 _ _ _ => false
  | .pstB64 _ _ _ => false
  | .pstB128 _ _ _ => false
  | .promotePin _ _ _ => false
  | .promoteCache _ _ _ => false
  | .demote _ _ _ => false
  | .pfl2 _ _ _ => false
  | .sstSliv _ _ _ => false
  | .sldSliv _ _ _ => false
  | .shdr _ _ => false
  | .smap _ _ _ => true
  | .sunmap _ => true
  | .swb _ => true
  | .sinv _ => true
  | .sfind _ _ _ => true
  | .sinfo _ _ => true
  | .qinit _ _ => true
  | .qpush _ _ => false
  | .qpop _ _ => false
  | .qhpush _ _ => false
  | .qhpop _ _ => false
  | .qallow _ _ => false
  | .reelGet _ _ _ _ _ => true
  | .reelPut _ _ _ _ _ => true
  | .reelPget _ _ _ _ _ => true
  | .reelPput _ _ _ _ _ => true
  | .reelExp _ _ _ _ _ => true
  | .reelDec _ _ _ _ _ => true
  | .reelRget _ _ _ _ _ => true
  | .reelRred _ _ _ _ _ => true
  | .reelWp _ _ _ => true
  | .mma _ _ _ _ _ => true
  | .mmaKnotted _ _ _ _ _ _ => false
  | .mmz _ _ _ _ _ => true
  | .mmzKnotted _ _ _ _ _ _ => false
  | .ply _ _ _ _ _ => true
  | .plyKnotted _ _ _ _ _ _ => false
  | .tld _ _ _ _ => true
  | .tldKnotted _ _ _ _ _ => false
  | .tst _ _ _ => true
  | .tstKnotted _ _ _ _ => false
  | .tzero _ => true
  | .tzeroKnotted _ _ => false
  | .tscl _ => true
  | .tsclKnotted _ _ => false
  | .tcvt _ _ => true
  | .tcvtKnotted _ _ _ => false
  | .trd _ _ _ _ => false
  | .twr _ _ _ _ => false
  | .tstat _ _ _ => true
  | .tstatKnotted _ _ _ _ => false
  | .dload _ _ => false
  | .dnext _ _ => false
  | .dred _ _ _ => false
  | .dget _ _ _ => false
  | .dend _ => false
  | .dstat _ => false
  | .barSkein => false
  | .barvSkein _ => false
  | .barwSkein _ => false
  | .barClus => false
  | .barvClus _ => false
  | .barwClus _ => false
  | .barDie => false
  | .barvDie _ => false
  | .barwDie _ => false
  | .barPkg => false
  | .barvPkg _ => false
  | .barwPkg _ => false
  | .frontAdd _ _ _ => true
  | .frontSub _ _ _ => true
  | .frontMul _ _ _ => true
  | .frontAnd _ _ _ => true
  | .frontOr _ _ _ => true
  | .frontXor _ _ _ => true
  | .frontShl _ _ _ => true
  | .frontShr _ _ _ => true
  | .frontSra _ _ _ => true
  | .frontMin _ _ _ => true
  | .frontMax _ _ _ => true
  | .frontMov _ _ => true
  | .cmps _ _ _ => true
  | .wtc _ _ => true
  | .rtc _ _ => true
  | .dqpush _ _ _ => true
  | .movsi _ _ => true
  | .addsi _ _ => true
  | .shlor _ _ => true
  | .cmpiEq _ _ _ => true
  | .cmpiLt _ _ _ => true
  | .cmpiLtn _ _ _ => true
  | .fbra _ _ _ => true
  | .fcall _ _ _ => true
  | .fret _ _ => true
  | .fjmpr _ _ _ => true
  | .trap _ => false
  | .tret => false
  | .rsr _ _ => false
  | .rsrFront _ _ => true
  | .wsr _ _ => false
  | .wsrFront _ _ => true
  | .lovt _ => false
  | .lovtFront _ => true
  | .launch _ => true
  | .rdclk _ => false
  | .rdclkFront _ => true
  | .halt => false
  | .aggregatorGroup _ => false
  | .steeringComplete _ _ => false
  | .stashFillComplete _ _ => false
  | .reelLineComplete _ _ => false
  | .reelDecVerify _ _ => false
  | .tileOpComplete _ => false
  | .plyBegin _ _ => false
  | .plyComplete _ _ => false
  | .plyFail _ _ => false
  | .clauseIssue _ => false
  | .loadComplete _ _ => false
  | .storePerformed _ => false
  | .binAged _ _ => false
  | .strandDraw _ => false
  | .strandExchange _ _ => false
  | .skeinAdmission _ => false
  | .skeinEnd _ => false
  | .stopRecordPost _ => false
  | .stopResume _ _ => false
  | .stopResumeAt _ _ => false
  | .stopEndTarget _ _ => false
  | .stopRelease _ _ => false
  | .stopReadRegister _ _ => false
  | .stopWriteRegister _ _ => false
  | .stopCommandRefused _ _ => false
  | .stopCommandDone _ => false
  | .watchdogExpiry _ => false
  | .pageWalkComplete _ _ _ => false
  | .faultPost _ => false
  | .faultResume _ _ => false
  | .faultDiscard _ _ => false
  | .invalidateVaRange _ _ => false
  | .invalidateContextTranslations _ _ => false
  | .invalidateBufferEntries _ _ => false
  | .invalidateContextAll _ _ => false
  | .invalidateAllContexts _ => false
  | .invalidateDone _ => false
  | .trackingWindow _ => false
  | .holderMove _ _ => false
  | .packetArrival _ _ => false
  | .packetAck _ _ => false
  | .linkReplay _ _ => false
  | .dieRemoval _ => false
  | .resync => false
  | .fabricFault => false
  | .lotteryDraw => false
  | .placement => false
  | .blockageExpiry _ => false
  | .contextSwitchOut _ _ => false
  | .contextSwitchIn _ _ => false
  | .quantumExpiry _ _ => false
  | .abort _ _ => false
  | .abortDone => false
  | .controlProcessorFailover _ => false
  | .widxWrite _ _ => false
  | .queueControlWrite _ _ _ => false
  | .lseedWrite _ => false
  | .bankAccess _ => false
  | .refresh _ => false
  | .activationAlert _ => false
  | .burstCrcFail _ _ _ => false
  | .laneRepair _ _ => false
  | .patrolScrub _ _ => false
  | .unpin _ => false
  | .idtabWrite _ _ => false
  | .idlock _ => false
  | .l2UncorrectableError _ _ => false
  | .clusterLeavesService _ => false
  | .hostWrite _ _ _ => false
  | .hostRead _ _ _ => false
  | .msixUnmask _ _ => false
  | .lockInterface _ _ _ _ _ => false
  | .tdiError _ => false
  | .keyset _ _ _ _ => false
  | .keyclr _ => false
  | .getMeasurements => false
  | .packageReset _ => false
  | .remoteRequest _ => false
  | .remoteResponse _ _ => false
  | .remoteTimeout _ => false
  | .portDown _ => false
  | .portUp _ => false
  | .repairCore _ => false
  | .repairDie _ => false
  | .repairUcieLane _ => false
  | .repairKrytistLane _ => false
  | .returnToService _ _ => false
  | .repairDone => false
  | .wearUpdate _ _ _ => false
  | .fatalError _ => false
  | .registerWrite _ _ => false
  | .instructionCacheFill _ _ => false
  | .refreshOwed _ => false
  | .tdiEntersRun _ => false

/-- Home class of a word: the class of a clause it may stand in (02 R45). None for a prefix. -/
def homeClass (w : Nat) : Option Nat :=
  let m := majorOf w
  if m == 0x3F then none
  else if m == 0x3E then some 6
  else if m == 0x1B || m == 0x35 || m == 0x37 || (0x3B ≤ m && m ≤ 0x3D) then some 5
  else if m == 0x36 then some (if w % 8 == 0 then 5 else 1)
  else if m == 0x38 then some (if w / 2 ^ 10 % 16 == 15 then 5 else 3)
  else if m == 0x26 then some 3
  else if m == 0x39 then some 4
  else if (0x20 ≤ m && m ≤ 0x25) || m == 0x27 || m == 0x28 || m == 0x3A then some 2
  else if 0x29 ≤ m && m ≤ 0x34 then some 1
  else some 0

/-- A word that only the front thread executes (02 R46): a fibre raises CONTEXT_MISMATCH at it. -/
def frontOnly (w : Nat) : Bool :=
  homeClass w == some 5 || (majorOf w == 0x3E && w / 2 ^ 8 % 64 == 5)

/-- A word that the front thread may execute (02 R46); it raises CONTEXT_MISMATCH at every other. -/
def frontMay (w : Nat) : Bool :=
  let m := majorOf w
  (m == 0x38 && w / 2 ^ 10 % 16 == 15 && w / 2 ^ 4 % 64 != 8 && w / 2 ^ 4 % 64 != 9) ||
  (m != 0x38 && homeClass w == some 5) ||
  (m == 0x25 && w / 2 ^ 24 % 4 == 0) || m == 0x27 ||
  (m == 0x28 && w / 2 ^ 24 % 4 != 2) || m == 0x2E || m == 0x3E

/-- A control transfer, which must stand last in its clause: majors 0x20-0x25 and 0x3D, `tret` and
`halt` (02 R41). -/
def controlTransfer (w : Nat) : Bool :=
  let m := majorOf w
  (0x20 ≤ m && m ≤ 0x25) || m == 0x3D ||
  (m == 0x3E && (w / 2 ^ 8 % 64 == 1 || w / 2 ^ 8 % 64 == 7))

/-- The words that accept a prefix (02 R52). -/
def acceptsPrefix (w : Nat) : Bool :=
  let m := majorOf w
  (1 ≤ m && m ≤ 0x0D) || (0x10 ≤ m && m ≤ 0x16) || (0x18 ≤ m && m ≤ 0x1A) ||
  (0x29 ≤ m && m ≤ 0x2D) || (0x2F ≤ m && m ≤ 0x33)

/-- The fields of a prefix word: `neg`, `p`, `zero`, `rs` and the extension (02 R51). -/
structure Prefix where
  neg : Bool
  p : BitVec 3
  zero : Bool
  rs : BitVec 3
  ext : BitVec 18
  deriving DecidableEq, Repr

/-- The prefix in a word of major 0x3F (02 R51). -/
def Prefix.ofWord (w : Nat) : Prefix :=
  { neg := w / 2 ^ 25 % 2 == 1, p := fld 3 22 w, zero := w / 2 ^ 21 % 2 == 1,
    rs := fld 3 18 w, ext := fld 18 0 w }

/-- The word of a prefix (02 R51). -/
def Prefix.toWord (x : Prefix) : Nat :=
  0xfc000000 + x.neg.toNat * 2 ^ 25 + x.p.toNat * 2 ^ 22 + x.zero.toNat * 2 ^ 21 +
    x.rs.toNat * 2 ^ 18 + x.ext.toNat

/-- The register a prefix names as fourth operand (02 R52). -/
def Prefix.vc (x : Prefix) : Nat := x.ext.toNat / 2 ^ 11

/-- The signed byte offset of a prefix (02 R52). -/
def Prefix.offset (x : Prefix) : Int := x.ext.toInt

/-- The rounding code field of a prefix may hold this value before a word of major `m` (02 R52). -/
def rsLegal (m w rs : Nat) : Bool :=
  if 0x10 ≤ m && m ≤ 0x15 then rs ≤ 4 || (rs == 5 && m == 0x14)
  else if m == 0x19 then rs == 0 || (rs ≤ 4 && w / 2 ^ 5 % 128 == 8)
  else if m == 0x2D then rs ≤ 5 || rs == 7
  else rs == 0

/-- The extension may hold this value before the word `w` of major `m` (02 R52). -/
def extLegal (m w : Nat) (ext : Nat) : Bool :=
  if 0x10 ≤ m && m ≤ 0x13 then ext % 2 ^ 11 == 0 && (w % 32 == 3 || ext == 0)
  else if m == 0x01 then ext % 2 ^ 11 == 0 && (w % 32 == 24 || w % 32 == 25 || ext == 0)
  else if (0x29 ≤ m && m ≤ 0x2D) || (0x2F ≤ m && m ≤ 0x33) then true
  else ext == 0

/-- The zero bit may be set before the word `w` of major `m` (02 R52). -/
def zeroLegal (m w : Nat) : Bool :=
  !(m == 0x2A || m == 0x2C || m == 0x33 || m == 0x2D || m == 0x30 ||
    (m == 0x32 && w / 2 ^ 8 % 2 == 1))

/-- The fields of the prefix are legal before the word `w` (02 R52). -/
def prefixFieldsLegal (x : Prefix) (w : Nat) : Bool :=
  let m := majorOf w
  rsLegal m w x.rs.toNat && extLegal m w x.ext.toNat && (!x.zero || zeroLegal m w)

/-- The fields of a clause header (02 R40). -/
structure Header where
  tag : BitVec 4
  n : BitVec 4
  cls : BitVec 3
  ldt : BitVec 4
  stt : BitVec 4
  cpt : BitVec 3
  tlt : BitVec 3
  yld : Bool
  crd : Bool
  res : BitVec 5
  deriving DecidableEq, Repr

/-- The clause header in a word (02 R40). -/
def Header.ofWord (w : Nat) : Header :=
  { tag := fld 4 28 w, n := fld 4 24 w, cls := fld 3 21 w, ldt := fld 4 17 w, stt := fld 4 13 w,
    cpt := fld 3 10 w, tlt := fld 3 7 w, yld := w / 2 ^ 6 % 2 == 1, crd := w / 2 ^ 5 % 2 == 1,
    res := fld 5 0 w }

/-- The word of a clause header (02 R40). -/
def Header.toWord (h : Header) : Nat :=
  h.tag.toNat * 2 ^ 28 + h.n.toNat * 2 ^ 24 + h.cls.toNat * 2 ^ 21 + h.ldt.toNat * 2 ^ 17 +
    h.stt.toNat * 2 ^ 13 + h.cpt.toNat * 2 ^ 10 + h.tlt.toNat * 2 ^ 7 + h.yld.toNat * 2 ^ 6 +
    h.crd.toNat * 2 ^ 5 + h.res.toNat

/-- The header checks that hold whoever executes the clause: the tag, N, the reserved bits and the
128-byte line (02 R41). -/
def Header.formOk (h : Header) (addr : Nat) : Bool :=
  h.tag == 12#4 && h.n != 0#4 && h.res == 0#5 && addr % 128 + 4 * (h.n.toNat + 1) ≤ 128

/-- The classes a fibre skips (02 R45): the front class. -/
def fibreSkips (cls : Nat) : Bool := cls == 5

/-- The classes a front context skips (02 R45): the five fibre classes. -/
def frontSkips (cls : Nat) : Bool := cls ≤ 4

/-- The instruction the decoder reads from a word numbered as the opcode table numbers it. Rows of
major 0x3E that a fibre and a front context lay out differently share their match bits; a word that
fits both is read as the front form when bit 19, which only the fibre layout uses, is zero (log 2). -/
noncomputable def decodeTableWord (nbits w : Nat) : Option Instr :=
  if nbits != 32 || 2 ^ 32 ≤ w then none
  else
    match (if w / 2 ^ 19 % 2 == 0 || frontOnly w then decode true w else decode false w) with
    | .ok i => some i
    | .error _ =>
      match decode false w with
      | .ok i => some i
      | .error _ => none

end Sys2Proof
end

