-- ==== Sys2Proof/Machine/State.lean ====
section
/-! DEFINITION. The state of the Skeratrix SX9 as plain data: every register, memory, queue and
transfer in progress that the spec gives the package, with the state right after package reset. -/

namespace Sys2Proof.Machine

open Sys2Proof

/-! ### Faults and refusals -/

/-- Why the machine stops. -/
inductive Fault where
  /-- Raised by `step`: a word is placed to issue in a package whose issue a fatal error has stopped until a
  package reset (16 R398). Safe: no word issues there. -/
  | packageStopped
  deriving DecidableEq, Repr

/-- Why the model gives no next state. -/
inductive Refusal where
  /-- Raised by an arm of `exec` whose instruction has no meaning yet. Safe: nothing is claimed of it. -/
  | notModelled (mnemonic : String)
  deriving DecidableEq, Repr

/-! ### Records of a fibre -/

/-- A place in the code: the address of the next word and of the header of its clause (02 R42), and
whether the context came there by a control transfer that was taken (02 R41). -/
structure Pos where
  pc : VAddr
  hdr : VAddr
  jumped : Bool := false
  deriving DecidableEq, Repr

/-- The trap record of a fibre or a front context (01 R21). -/
structure TrapRec where
  cause : BitVec 8 := 0
  pc : VAddr := 0
  mask : DWord := 0
  addr : DWord := 0
  aux : DWord := 0
  word : DWord := 0
  deriving DecidableEq, Repr

/-- The register image of a memory access: its size and how it fills a register (05 R137). -/
inductive Img where
  | n8 | i8 | n16 | i16 | b32 | b64 | b128
  deriving DecidableEq, Repr

/-- The latency class of an access (05 R129 R135, 14 R337). -/
inductive LClass where
  | f | s | c
  deriving DecidableEq, Repr

/-- Identity of a writer for the race watch: die, core and a serial of the core (15 R374). -/
structure Ident where
  die : Nat
  core : Nat
  serial : Nat
  deriving DecidableEq, Repr

/-- An access to global memory after its checks: where it goes and the attributes that the buffer and
the page give it (05 R131 R135). -/
structure Access where
  ctx : Nat
  va : Nat
  pa : Nat
  n : Nat
  tracked : Bool
  policy : Nat
  cls : LClass
  remote : Option Nat
  /-- The scope of an `lda`, `stl` or atomic, and the buffer's ASCOPE (05 R130). -/
  scope : Nat
  ascope : Nat
  watch : Bool
  rdup : Bool
  deriving DecidableEq, Repr

/-- How far a remote load or returning atomic has come (05 R148, 16 R390 R391). -/
inductive RemoteState where
  | waiting
  | arrived (bytes : List Byte)
  | lost
  | dropped
  | poisoned
  deriving DecidableEq, Repr

/-- Where a load takes its value from. -/
inductive LoadSrc where
  /-- Global memory (05 R137 R140). -/
  | mem (a : Access) (acquire : Bool)
  /-- The stash of the skein (07 R176). -/
  | stash (off : Nat)
  /-- The pool allocation of the cluster group (11 R277). -/
  | pool (off : Nat)
  /-- The constant store (07 R197). -/
  | const (off : Nat)
  /-- An atomic still in the store queue (05 R142). -/
  | atomic (a : Access)
  /-- A remote request whose word waits for it (05 R148). -/
  | remote (a : Access) (r : RemoteState)
  /-- An operation of the engine or a request that has not yet given its value. -/
  | pending
  /-- A value that has arrived and only has to be written. -/
  | value (v : Nat)
  deriving DecidableEq, Repr

/-- An outstanding load: what it writes and where its value comes from (05 R146). -/
structure Load where
  id : Nat
  img : Img
  dst : Nat
  n : Nat
  src : LoadSrc
  /-- Destination registers that a later word has written since (03 R73). -/
  killed : List Nat := []
  /-- Abandoned by `exit` or `exit.relay` (04 R108 R109). -/
  abandoned : Bool := false
  /-- The data was found poisoned (05 R149). -/
  poisoned : Bool := false
  /-- The place and the words of the load, for the trap record of R149. -/
  pc : VAddr := 0
  word : Word := 0
  pfx : Option Word := none
  /-- What the load read when it was performed before an older load of its fibre (05 R146). -/
  early : Option (List Byte) := none
  deriving DecidableEq, Repr

/-- What a queued store does when it is performed. -/
inductive StoreKind where
  /-- A store to global memory; `release` names the scope of an `stl` (05 R137 R140). -/
  | mem (a : Access) (release : Option Nat)
  /-- An atomic: operation code, scope, compare value, and the load that returns the old value
  (05 R141 R142). -/
  | atom (a : Access) (op : Nat) (scope : Nat) (cmp : Nat) (load : Option Nat)
  /-- A store to the stash (07 R178). -/
  | stash (off : Nat)
  /-- A store to the pool (11 R279). -/
  | pool (off : Nat)
  deriving DecidableEq, Repr

/-- A store or an atomic in the first-in, first-out store queue (05 R145). -/
structure Store where
  id : Nat
  kind : StoreKind
  data : List Byte
  /-- The lanes of one word have one number: they enter the merge point together (05 R143, 07 R178). -/
  group : Nat
  /-- Sent to another die or device and not yet accepted there: it is a release that still counts on ST
  (05 R146). -/
  sent : Bool := false
  deriving DecidableEq, Repr

/-- A steering word under way in the background (14 R343): its code 0-3, the virtual range and the
buffer's ILV, LCLS and TRK. -/
structure Steer where
  id : Nat
  op : Nat
  ctx : Nat
  base : Nat
  len : Nat
  ilv : Nat
  lcls : Nat
  trk : Bool
  /-- How far its work has come: the page of its range, and the row or line of that page. -/
  page : Nat := 0
  item : Nat := 0
  deriving DecidableEq, Repr

/-- A cross-lane operation that gathers its members (03 R94-R96). -/
inductive XOp where
  | shfl (kind : Nat) (d a b : Nat)
  | red (op : Nat) (d a : Nat)
  | ballot (d : Nat) (p : Nat)
  | any (d p : Nat)
  | all (d p : Nat)
  | uni (d a : Nat)
  deriving DecidableEq, Repr

/-- The words of a clause that an issuing context holds (02 R47). -/
structure Clause where
  hdr : VAddr
  head : Word
  words : List Word
  deriving DecidableEq, Repr

/-- A fibre that waits at a cross-lane word (03 R92), with the clause it is in. -/
structure Gather where
  op : XOp
  members : DWord
  next : Pos
  clause : Option Clause
  word : Word
  pfx : Option Word
  deriving DecidableEq, Repr

/-- The four words that pass values through a bobbin queue (08 R212). -/
inductive QueueOp where
  | push | pop | hpush | hpop
  deriving DecidableEq, Repr

/-- What a parked fibre waits for (06 R160). -/
inductive Wait where
  /-- The phase of a knot that the fibre has recorded to pass (06 R167). -/
  | knot (k : Nat)
  /-- A knot to open its next phase, to tie then (11 R289). -/
  | reopen (k : Nat)
  /-- A generation of a barrier (06 R171): the level and the generation. -/
  | barrier (level : Nat) (gen : Word)
  /-- A bobbin queue (08 R214): the queue, the word's operation and register, and the order in which
  the fibre began to wait. -/
  | queue (q : Nat) (op : QueueOp) (reg : Nat) (order : Nat)
  deriving DecidableEq, Repr

/-- Where a fibre stands between its words. -/
inductive Run where
  /-- In the strand of this key (06 R159). -/
  | strand (n : Nat)
  /-- In a card bin of its core (06 R158). -/
  | filed
  /-- Waiting at a cross-lane word (03 R92). -/
  | gather (g : Gather)
  /-- Parked with the object it waits on; `next` is where it goes on (06 R160). -/
  | parked (w : Wait) (next : Pos)
  /-- A translation fault that is not yet posted holds it at its word (12 R310). -/
  | faulting
  /-- Stopped for system software; the tag of the fault record it joined, if any (04 R121, 12 R310). -/
  | stopped (tag : Option (BitVec 16))
  /-- Stopped by `halt`; what it waited for, if it was parked (04 R118). -/
  | halted (w : Option (Wait × Pos))
  /-- Switched out with its skein; what it waited for, if it was parked (06 R172). -/
  | saved (w : Option (Wait × Pos))
  deriving DecidableEq, Repr

/-- A wait that a fibre takes up again when it resumes at its word and has met the thresholds of its clause
(04 R118 R127): the word, the wait and the place behind the word. -/
structure Rejoin where
  at_ : VAddr
  wait : Wait
  next : Pos
  deriving DecidableEq, Repr

/-- A fibre (01 R10 R15 R21, 04 R122, 05 R145, 06 R157). Registers that are not listed hold 0, and
knot phase records that are not listed hold 0xFFFFFFFF. -/
structure Fibre where
  /-- The key of its skein. -/
  sk : Nat
  /-- sr.fibre. -/
  idx : BitVec 10
  /-- sr.lane, the home lane. -/
  lane : BitVec 6
  v : Table Word := []
  /-- Predicates; bit 0 is p0. -/
  p : BitVec 8 := 1
  /-- Member masks m1-m7. -/
  m : Table DWord := []
  pos : Pos
  fpc : Word := 1
  dtag : BitVec 41 := 0
  spass : Word := 0
  slip : Word := 0
  tr : TrapRec := {}
  /-- The handler bit (04 R122). -/
  h : Bool := false
  /-- Header of the clause of the trapping word (04 R121). -/
  resume : VAddr := 0
  /-- The trapping word's fibre had come to its place by a control transfer (02 R41). -/
  rjump : Bool := false
  /-- The words of the clause in which it is parked or filed between two words (02 R42 R47). -/
  clause : Option Clause := none
  /-- A wait to take up again (04 R127). -/
  rejoin : Option Rejoin := none
  /-- Decisions taken from the queue (03 R83). -/
  cursor : Nat := 0
  krec : Table Word := []
  /-- Arrival counts of the four barrier levels (11 R281). -/
  arrivals : Table Word := []
  run : Run := .filed
  loads : List Load := []
  stores : List Store := []
  steers : List Steer := []
  /-- Tile writes (`twr`) that count on ST and are not yet performed (09 R261). -/
  twrs : Nat := 0
  /-- Interval counters of the race watch, by scope code (15 R374). -/
  ivl : Table DWord := []
  ident : Ident
  /-- Serial of the fibre's next access. -/
  nextId : Nat := 0
  deriving DecidableEq, Repr

/-- A strand on an issue slot (06 R159 R160): fibre keys in ascending home lane. -/
structure Strand where
  core : Nat
  slot : Nat
  active : Bool
  fibs : List Nat
  pos : Pos
  clause : Option Clause := none
  /-- The clock when it last issued a word, was formed, or was put into the pending set. -/
  since : Nat := 0
  /-- Its word was not ready when it was last tried, for a reason for which the slot may exchange it
  (06 R160). -/
  waits : Bool := false
  /-- Yield was taken at its last word (02 R43, 06 R160). -/
  yields : Bool := false
  /-- The miss of the clause's line has been counted (11 R283). -/
  missed : Bool := false
  deriving DecidableEq, Repr

/-- Where a front context stands (06 R162, 04 R118 R121). -/
inductive FrontRun where
  | ready
  | ended
  | faulting
  | stopped (tag : Option (BitVec 16))
  | halted
  | saved
  deriving DecidableEq, Repr

/-- The front context of a skein (06 R157, 08 R206-R211). Registers not listed hold 0. -/
structure Front where
  pos : Pos
  s : Table DWord := []
  /-- q0-q7; bit 0 is q0. -/
  q : BitVec 8 := 1
  tr : TrapRec := {}
  resume : VAddr := 0
  run : FrontRun := .ready
  clause : Option Clause := none
  loads : List Load := []
  stores : List Store := []
  ivl : Table DWord := []
  ident : Ident
  nextId : Nat := 0
  deriving DecidableEq, Repr

/-! ### Records of a skein -/

/-- A work-identifier field: width, level and extent (06 R150 R153 R154). -/
structure WidField where
  width : Nat
  level : Nat
  extent : Nat
  deriving DecidableEq, Repr

/-- A relay-table entry (04 R109). -/
structure RelayEntry where
  entry : Nat
  keep : BitVec 128
  deriving DecidableEq, Repr

/-- A mapping descriptor (07 R180). -/
structure MapDesc where
  bind : Nat
  mode : Nat
  key : Nat
  offset : Nat
  stride : Nat
  foff : Nat
  flen : Nat
  count : Nat
  sbase : Nat
  deriving DecidableEq, Repr

/-- A launch record as read at acceptance (06 R150 R151), with the context and queue it came from. -/
structure LaunchRec where
  ctx : Nat
  relayMode : Bool
  sup : Bool
  fentry : Nat
  sentry : Nat
  tentry : Nat
  codebuf : Nat
  regs : Nat
  span : Nat
  fibres : Nat
  wid : List WidField
  stash : Nat
  pool : Nat
  tiles : Nat
  knots : Nat
  queues : Nat
  reels : Nat
  draft : Bool
  caddr : Nat
  clen : Nat
  ckey : Nat
  cbind : Nat
  cscope : Nat
  cvalid : Bool
  coff : Nat
  relay : List RelayEntry
  binds : List Word
  maps : List MapDesc
  deriving DecidableEq, Repr

/-- An entry of a decision queue (06 R163). -/
structure Decision where
  tag : BitVec 7
  taken : Bool
  value : Word
  deriving DecidableEq, Repr

/-- What a knotted word does when its phase completes (06 R169). -/
inductive KnotOp where
  /-- `tie` or `tiew`. -/
  | tie
  /-- `dload`. -/
  | dload
  /-- `dend`. -/
  | dend
  /-- A tile operation: the minor and flags of the word and its tiles (09 R246). -/
  | tile (minor flags td ta tb : Nat)
  | trd (tile slice dst : Nat)
  | twr (tile slice src : Nat)
  | tstat (tile dst : Nat) (clr : Bool)
  deriving DecidableEq, Repr

/-- A member of the open phase: the fibre, what its tie captured and the load that waits for the
operation (06 R165, 08 R233, 09 R261 R262). -/
structure Member where
  fib : Nat
  /-- sr.fibre, which ranks the members (06 R169). -/
  idx : Nat := 0
  captured : List Word
  load : Option Nat
  deriving DecidableEq, Repr

/-- The word that opened the phase of a knot (06 R169). -/
structure PhaseWord where
  op : KnotOp
  word : Word
  pfx : Option Word
  pc : VAddr
  deriving DecidableEq, Repr

/-- A knot (06 R165). -/
structure Knot where
  memberMode : Bool := false
  p : Word := 0
  c : Nat := 1
  ties : Nat := 0
  members : List Member := []
  open_ : Option PhaseWord := none
  b : Int := 0
  posted : Bool := false
  error : Bool := false
  /-- A plied phase whose ties are all in and whose ply is not complete (11 R289). -/
  closed : Bool := false
  deriving DecidableEq, Repr

/-- A bobbin queue (08 R213). -/
structure BQueue where
  init : Bool := false
  base : Nat := 0
  depth : Nat := 0
  allow : Nat := 0
  head : Nat := 0
  tail : Nat := 0
  count : Nat := 0
  deriving DecidableEq, Repr

/-- A shape record (08 R217). -/
structure Shape where
  ver : Nat
  fmt : Nat
  kind : Nat
  rank : Nat
  clamp : Bool
  strided : Bool
  bind : Nat
  boff : Nat
  size : List Nat
  stride : List Nat
  box : List Nat
  layout : Nat
  pitch : Nat
  scoff : Nat
  /-- Every reserved field is zero. -/
  clean : Bool
  deriving DecidableEq, Repr

/-- A reel command under way (08 R216 R226). -/
structure ReelCmd where
  id : Nat
  form : Nat
  shape : Shape
  stash : Nat
  rop : Nat
  vrows : Nat
  origin : List Int
  knot : Option Nat
  /-- The overflow table in force at issue (08 R221). -/
  ovt : BitVec 16
  /-- `reel.dec`: stream identifier and counter (08 R224). -/
  stream : Nat
  counter : Nat
  /-- The buffer-table entry that the checks at issue read (08 R220). -/
  entry : BitVec 512 := 0
  /-- Lines completed. -/
  line : Nat := 0
  /-- The remote requests of the line are out; the pieces answered, and the code of one that failed
  (08 R223 R228). -/
  asked : Bool := false
  got : Table (List Byte) := []
  bad : Option (BitVec 8) := none
  /-- `reel.dec`: the plaintext that verified and waits to be written (16 R386). -/
  plain : Option (List Byte) := none
  deriving DecidableEq, Repr

/-- A reel channel (08 R226). -/
structure Chan where
  wp : DWord := 0
  cmds : List ReelCmd := []
  err : Bool := false
  code : BitVec 8 := 0
  inv : Bool := false
  ovf : Bool := false
  unf : Bool := false
  sat : Bool := false
  crlost : Bool := false
  /-- An error since the last `reel.wp`: later commands are discarded (08 R228). -/
  failed : Bool := false
  /-- Stopped by a fault that system software has not resumed; the tag of the record (12 R310). -/
  held : Bool := false
  deriving DecidableEq, Repr

/-- A tile of the skein (09 R240 R241 R243). Image bytes not listed are 0, scales not listed 1.0. -/
structure Tile where
  image : Table Byte := []
  scales : Table Word := []
  marks : Table (BitVec 128) := []
  /-- The writable fields of the control register, bits [59:0]. -/
  tc : BitVec 60 := 0
  zero : Bool := true
  nf : Bool := false
  err : Bool := false
  cinv : Bool := false
  covf : Bool := false
  cnfi : Bool := false
  ecode : BitVec 7 := 0
  ppc : BitVec 49 := 0
  deriving DecidableEq, Repr

/-- The exact partial sum of the products of one element of an mmz (09 R252 R253): the finite terms in units of
2^-32, and what else they include. -/
structure BlockSum where
  units : Int := 0
  /-- Some term is NaN; some product is of a zero and an infinity. -/
  nan : Bool := false
  inv : Bool := false
  /-- Some term is +∞; some is −∞. -/
  pos : Bool := false
  neg : Bool := false
  /-- There are terms, and every one is −0. -/
  minus : Bool := false
  empty : Bool := true
  deriving DecidableEq, Repr

/-- An issued tile operation (09 R247), or a transfer of a completed phase that waits for earlier
operations on its tile (09 R261). -/
structure TileOp where
  id : Nat
  minor : Nat
  flags : Nat
  td : Nat
  ta : Nat
  tb : Nat
  pc : VAddr
  ovt : BitVec 16
  /-- The knot whose phase a plied operation completes (11 R289). -/
  knot : Option Nat := none
  /-- Pairing number of a ply on its core (11 R286). -/
  ply : Option Nat := none
  begun : Bool := false
  /-- When a ply was issued, or offered again on resumption (11 R286 R290). -/
  seq : Nat := 0
  /-- The step counter of an mmz under way, and the partial block sums of its rows (09 R253). -/
  step : Nat := 0
  sums : List (List BlockSum) := []
  /-- The members of a phase whose transfer waits (09 R261); its `minor` is 8-10, its tile `td`, its slice
  `tb`. -/
  members : List Member := []
  /-- Waits for a fault of a mapping window (09 R263). -/
  held : Bool := false
  deriving DecidableEq, Repr

/-- An owner's accumulator of the draft unit: the exact sum of its terms, or the extreme so far
(08 R235). Sums of f32 are kept in units of 2^-149. -/
structure Accum where
  terms : Nat := 0
  sum : Int := 0
  negZero : Bool := true
  nan : Bool := false
  posInf : Bool := false
  negInf : Bool := false
  best : Option Nat := none
  deriving DecidableEq, Repr

/-- A member of the draft set, in rank order (08 R233 R234). -/
structure DraftMember where
  fib : Nat
  start : Word
  len : Nat
  cursor : Nat := 0
  pending : Bool := false
  left : Bool := false
  acc : Accum := {}
  deriving DecidableEq, Repr

/-- The draft unit of a skein (08 R232-R239). -/
structure Draft where
  isOpen : Bool := false
  failed : Bool := false
  code : Nat := 0
  n : Nat := 0
  total : Nat := 0
  members : List DraftMember := []
  dealt : Nat := 0
  reduced : Nat := 0
  /-- Type and operation, fixed by the first `dred` or `dget`. -/
  mode : Option (Nat × Nat) := none
  deriving DecidableEq, Repr

/-- The image in a constant store (06 R156, 07 R196). -/
structure ConstImage where
  key : Nat
  addr : Nat
  bytes : Table Byte
  deriving DecidableEq, Repr

/-- Where a skein stands in its life (06 R157 R172, 04 R118). -/
inductive SkeinRun where
  /-- Resources reserved, admission not complete; the step of 06 R157 it has to run next. -/
  | admitting (step : Nat)
  /-- Held unstarted; the step at which its admission stopped (06 R157). -/
  | held (step : Nat)
  | resident
  /-- Stopped for a context switch or an abort, its accesses not yet drained (06 R172, 13 R332). -/
  | stopping
  /-- Switched out; the step of a held admission, if it was held (06 R172). -/
  | switchedOut (step : Option Nat)
  /-- Lost with its die: its fibres stay live for every barrier (15 R368). -/
  | lost
  deriving DecidableEq, Repr

/-- A skein (06 R155-R157). -/
structure Skein where
  launch : Nat
  lr : LaunchRec
  /-- sr.skein. -/
  idx : Nat
  /-- Package-wide core, 64 x die + core. -/
  core : Nat
  /-- First lane of its block. -/
  lane0 : Nat
  /-- Index of its front context on the core (04 R126). -/
  slot : Nat
  run : SkeinRun := .resident
  halted : Bool := false
  /-- Cluster group: the values of the fields of level 2 and above (06 R154). -/
  cgrp : Nat := 0
  /-- sr.ctl (01 R20). -/
  ctl : DWord
  front : Front
  /-- Outstanding reel commands and tile operations in issue order, with their completion marks
  (06 R164). -/
  cpq : List (Nat × Bool) := []
  tlq : List (Nat × Bool) := []
  dq : List Decision := []
  /-- Decisions freed so far: the index of the first entry kept (06 R163). -/
  dqBase : Nat := 0
  knots : Table Knot := []
  queues : Table BQueue := []
  chans : Table Chan := []
  tiles : Table Tile := []
  tops : List TileOp := []
  /-- Private stash bytes that have been written; the serial names the free value of the others. -/
  stash : Table Byte := []
  stashSerial : Nat := 0
  /-- Mapping slots in use: slot and mapping key (07 R182). -/
  slots : Table Nat := []
  draft : Draft := {}
  /-- The constant image that a context switch saved (13 R329). -/
  image : Option ConstImage := none
  /-- QUANTUM and SAVE of the context, as its admission read them (13 R317 R329 R330). -/
  quantum : Nat := 0
  save : Nat := 0
  /-- The images that a context switch wrote to the save area for its group: address, length and serial
  (13 R329). -/
  saved : List (Nat × Nat × Nat) := []
  /-- The watchdog counter (16 R395). -/
  dog : Nat := 0
  /-- Serial of the skein's next engine operation or queue wait. -/
  nextId : Nat := 0
  deriving DecidableEq, Repr

/-! ### Records of a core, a cluster and a die -/

/-- A card bin (06 R158 R159): fibres in the order filed, each with the clock at its filing. -/
structure Bin where
  launch : Nat
  pc : VAddr
  fibs : List (Nat × Nat)
  forced : Bool := false
  aged : Bool := false
  /-- Full when filed to BINFULL; it stays eligible while it keeps fibres (06 R159). -/
  drawn : Bool := false
  deriving DecidableEq, Repr

/-- A cached leaf translation as walked (12 R308): of one 32 KiB page, of a run of 64, or of 128 MiB. -/
structure Xlat where
  ctx : Nat
  /-- The first page, and how many pages it maps. -/
  page : Nat
  size : Nat := 1
  pte : DWord
  /-- Physical address of the first page. -/
  frame : Nat
  /-- The slice of the die's cache that it is in. -/
  slice : Nat := 0
  /-- The D bit was set when the walk ended. -/
  dirty : Bool
  deriving DecidableEq, Repr

/-- A buffer-table entry held by a core (12 R308). -/
structure BufCache where
  ctx : Nat
  index : Nat
  entry : BitVec 512
  deriving DecidableEq, Repr

/-- A shape record held by a core (08 R225). -/
structure ShapeCache where
  ctx : Nat
  va : Nat
  shape : Shape
  deriving DecidableEq, Repr

/-- A core (06, 07). Its key is 64 x die + core. -/
structure Core where
  bins : List Bin := []
  /-- Fibres that wait for filing while every bin is in use, the longest waiting first (06 R158). -/
  unfiled : List Nat := []
  /-- Strands that were tried and the clock when each was: those that have not been overtaken by an issue of
  their slot are passed over (06 R160). -/
  tried : Table Nat := []
  /-- The slot of the front context that the front thread took last (06 R162). -/
  turn : Nat := 63
  /-- Stale copies of global lines that a plain load may still be served from (07 R198). -/
  l1 : Table (List Byte) := []
  xlats : List Xlat := []
  bufs : List BufCache := []
  const : Option ConstImage := none
  shapes : List ShapeCache := []
  /-- Kept and nameless regions in the order formed, as mapping keys (07 R188 R189). -/
  regions : List Nat := []
  /-- Serial of the next writer identity (15 R374). -/
  serial : Nat := 0
  /-- The word whose lanes are entering the merge point (05 R143). -/
  merging : Option Nat := none
  /-- Plies issued on the core, by launch (11 R286). -/
  plies : Table Nat := []
  deriving DecidableEq, Repr

/-- The storage of a mapping window (07 R180-R188). Its key outlives the skein when the region is kept. -/
structure Mapping where
  ctx : Nat
  core : Nat
  desc : MapDesc
  bufIndex : Nat
  /-- BASE, ILV, TRK, LCLS and RDEV of the binding's entry when the mapping was set up (07 R180 R183). -/
  base : Nat
  ilv : Nat
  trk : Bool
  lcls : Nat
  rdev : Nat
  /-- Bytes of the window that hold a value, by offset from SBASE. -/
  bytes : Table Byte := []
  filled : List Nat := []
  dirty : List Nat := []
  /-- Written bytes of a write-only window that its buffer or page keeps untracked (07 R186). -/
  loose : List Nat := []
  /-- The mapping was found again under its key (07 R188). -/
  found : Bool := false
  /-- The mapping is to go once its writeback is done: a reclaim that met a fault (07 R187 R189). -/
  closing : Bool := false
  serial : Nat := 0
  poisoned : List Nat := []
  deriving DecidableEq, Repr

/-- A registration of the directory: the mapping and its line, and for each byte of the global line that
the stash holds its offset in the window (12 R304). Its key is the global line. -/
structure Reg where
  map : Nat
  sline : Nat
  offs : Table Nat
  deriving DecidableEq, Repr

/-- A pool allocation of a cluster group (11 R276). -/
structure Pool where
  launch : Nat
  cgrp : Nat
  clus : Nat
  size : Nat
  bytes : Table Byte := []
  serial : Nat := 0
  poisoned : List Nat := []
  deriving DecidableEq, Repr

/-- Who waits for a translation or a stash fill. -/
inductive Agent where
  | ctx (c : Ctx)
  | who (w : Who)
  | chan (sk ch : Nat)
  | tileOp (sk : Nat)
  | writeback (map : Nat)
  | admission (sk : Nat)
  deriving DecidableEq, Repr

/-- Causes of a walk (05 R134). -/
inductive WalkCause where
  | translation (level : Nat)
  | writeProtect
  | interleave
  deriving DecidableEq, Repr

/-- Who waits for a page walk, whether its access writes, the interleave mode of its buffer where one is
checked, and the fault that the walk found for it (12 R309). -/
structure WalkWaiter where
  agent : Agent
  write : Bool
  ilv : Option Nat
  fault : Option WalkCause := none
  deriving DecidableEq, Repr

/-- A page walk of the batch translation unit (12 R309). A walk that is done keeps the faults that its
waiters have not yet taken. -/
structure Walk where
  ctx : Nat
  page : Nat
  waiters : List WalkWaiter
  done : Bool := false
  deriving DecidableEq, Repr

/-- A fault of a stash fill or of a write registration (07 R177): its cause and the virtual address. -/
inductive FillFault where
  | walk (c : WalkCause) (va : Nat)
  | poison (va : Nat)
  /-- A frame of the device-register range; a request that the home device dropped (16 R378 R390). -/
  | rights (va : Nat)
  | refused (va : Nat)
  /-- A request to a remote device that is lost (16 R391; log 60). -/
  | lost (va : Nat)
  deriving DecidableEq, Repr

/-- A stash fill or write registration under way (07 R183 R184): the mapping and its line. -/
structure Fill where
  map : Nat
  line : Nat
  /-- Window offsets that a write to a write-only window registers; none for a fill. -/
  writes : Option (List Nat)
  waiters : List Agent
  fault : Option FillFault := none
  done : Bool := false
  /-- A fill from a remote device: its requests have gone out, the bytes that came by their offsets, and the
  first of them that failed (16 R390). -/
  asked : Bool := false
  got : Table Byte := []
  bad : Option FillFault := none
  deriving DecidableEq, Repr

/-- A stop record that waits to be posted (04 R126), its eight 64-bit words but for the tag. -/
structure StopRec where
  words : List DWord
  deriving DecidableEq, Repr

/-- A fault of one stopper before it is posted (12 R310). -/
structure FaultWait where
  ctx : Nat
  va : Nat
  cause : WalkCause
  src : Nat
  write : Bool
  core : Nat
  chan : Nat
  agent : Agent
  /-- The trap record that the stopper takes when the fault is posted. -/
  tr : TrapRec
  /-- The place of the trapping word, for a fibre or a front context. -/
  pos : Pos
  deriving DecidableEq, Repr

/-- An open fault record (12 R310). -/
structure FaultOpen where
  tag : BitVec 16
  ctx : Nat
  page : Nat
  cause : WalkCause
  stoppers : List Agent
  deriving DecidableEq, Repr

/-- An invalidation command in progress (12 R312). -/
structure Inval where
  kind : Nat
  ctx : Nat
  addr : Nat
  len : Nat
  /-- The loads, stores and remote requests under way when it began, by context and serial. -/
  loads : List (Ctx × Nat) := []
  stores : List (Ctx × Nat) := []
  remotes : List Nat := []
  deriving DecidableEq, Repr

/-- A region whose holder differs from its home, or that has been split (12 R301 R302): its base, its
size, its holder and the dies that accessed it in this window and the one before. -/
structure Region where
  base : Nat
  size : Nat
  holder : Nat
  now : List Nat := []
  before : List Nat := []
  /-- The clock of the last split by a conflict. -/
  split : Nat := 0
  /-- A move of holdership that the home die has begun (12 R303). -/
  moving : Option Nat := none
  deriving DecidableEq, Repr

/-- A line of an L2 (12 R298 R299). Its key is the physical line. -/
structure L2Line where
  die : Nat
  /-- The mark of each byte that has been written. -/
  dirty : BitVec 128 := 0
  /-- Marked first for eviction (05 R138). -/
  first : Bool := false
  deriving DecidableEq, Repr

/-- A shadow of the race watch (15 R374). Its key is the physical 32-byte sector. -/
structure Shadow where
  ctx : Nat
  ident : Ident
  n : DWord
  deriving DecidableEq, Repr

/-- The registers of a ring of records in memory: FQ (12 R311), SQ (04 R126), EQ (16 R392) and the
race log (15 R370). -/
structure Ring where
  base : BitVec 40 := 0
  size : BitVec 4 := 4
  en : Bool := false
  head : BitVec 16 := 0
  tail : BitVec 16 := 0
  deriving DecidableEq, Repr

/-- A compute die (12, 04 R126 R127, 15 R364). Its key is 0-3; agent 4 uses only the Hahan fields. -/
structure Die where
  sq : Ring := {}
  serr : Bool := false
  sbusy : Bool := false
  /-- The fibre that a command of action 2 ends once its stores are performed (04 R127). -/
  ending : Option Nat := none
  sdata : DWord := 0
  spc : VAddr := 0
  stopTag : BitVec 16 := 0
  stops : List StopRec := []
  fq : Ring := {}
  faultTag : BitVec 16 := 0
  waits : List FaultWait := []
  opened : List FaultOpen := []
  inverr : Bool := false
  invaddr : VAddr := 0
  invlen : VAddr := 0
  inval : Option Inval := none
  xlats : List Xlat := []
  /-- Page-table roots and buffer-table bases of contexts, as last read (13 R317). -/
  roots : Table Nat := []
  tables : Table Nat := []
  /-- Cached next-node entries: context, level and index path, with the physical address of the node. -/
  nodes : List (Nat × Nat × Nat × Nat) := []
  walks : List Walk := []
  /-- The matrix C of the agent: entry 5d + s (15 R364). -/
  c : Table (BitVec 12) := []
  /-- Applied counts D[s]. -/
  d : Table (BitVec 12) := []
  /-- Applied counts last acknowledged, A[d]. -/
  a : Table (BitVec 12) := []
  inc : BitVec 8 := 0
  /-- Recorded incarnations of the other agents (15 R367). -/
  incs : Table (BitVec 8) := []
  emax : BitVec 10 := 0
  stalls : Word := 0
  drops : Word := 0
  wear : BitVec 10 := 0
  eoldays : BitVec 16 := 0xFFFF
  thrcyc : Word := 0
  /-- The counter of the errors that its L2 and directory have corrected (12 R300). -/
  corrected : Nat := 0
  coresvc : DWord := 0xFFFFFFFFFFFFFFFF
  deriving DecidableEq, Repr

/-- Where a Hahan packet stands (15 R361). -/
inductive PacketAt where
  | flight | early | applied | lost
  deriving DecidableEq, Repr

/-- A Hahan write packet (15 R361 R366). -/
structure Packet where
  src : Nat
  dst : Nat
  /-- The core or front context whose merge order it belongs to. -/
  origin : Nat
  inc : BitVec 8
  stamp : List (BitVec 12)
  access : Access
  data : List Byte
  writer : Option (Ident × DWord)
  at_ : PacketAt
  /-- Its serial, and whether its sender has the acknowledgement of its acceptance (15 R361). -/
  id : Nat := 0
  acked : Bool := false
  /-- The release of a context that stays on ST until the packet is accepted (05 R146). -/
  release : Option (Ctx × Nat) := none
  deriving DecidableEq, Repr

/-! ### Records of the package -/

/-- A launch queue (13 R318). -/
structure LQueue where
  base : BitVec 40 := 0
  size : BitVec 4 := 1
  en : Bool := false
  sup : Bool := false
  dev : Bool := false
  ctx : BitVec 16 := 0
  tickets : BitVec 12 := 1
  widx : BitVec 16 := 0
  ridx : BitVec 16 := 0
  lrej : BitVec 8 := 0
  rjidx : BitVec 16 := 0
  rjcnt : Word := 0
  ldone : DWord := 0
  clmask : Word := 0
  coremask : Byte := 0
  qwerr : Bool := false
  qirq : Bool := false
  deriving DecidableEq, Repr

/-- An accepted launch (13 R323 R325 R330 R331). -/
structure Launch where
  lr : LaunchRec
  queue : Nat
  ringIdx : BitVec 16
  /-- Position in the order of acceptance. -/
  order : Nat
  /-- Skeins not yet placed, in ascending order. -/
  waiting : List Nat
  /-- The clock when it last placed a group, or when it was accepted. -/
  placed : Nat := 0
  blocking : Bool := false
  aborting : Bool := false
  /-- Die groups that are being switched out: their cores are stopped (13 R329). -/
  leaving : List Nat := []
  /-- Quantum counters of resident die groups: the clock at which each began. -/
  quanta : Table Nat := []
  /-- Die groups whose quantum has expired (13 R330). -/
  expired : List Nat := []
  deriving DecidableEq, Repr

/-- A row slot of the fast segment (14 R336). -/
structure RowSlot where
  row : Nat
  pin : Bool
  ref : Bool
  deriving DecidableEq, Repr

/-- A bank request in bank order (14 R337 R344): its row, what it is (0 access, 1 promote.pin,
2 promote.cache, 3 demote) and the class. -/
structure BankReq where
  row : Nat
  op : Nat
  cls : LClass
  deriving DecidableEq, Repr

/-- A bank (14 R336 R345). Slot i that is not listed holds row i, unpinned and unreferenced. -/
structure Bank where
  slots : Table RowSlot := []
  hand : Nat := 0
  last : Option Nat := none
  isOpen : Bool := false
  queue : List BankReq := []
  /-- Activations of its rows since the last mitigation (14 R341 R347). -/
  acts : Table Nat := []
  /-- A mitigation is due (14 R347). -/
  alert : Bool := false
  deriving DecidableEq, Repr

/-- A pseudo-channel (14 R346): refreshes owed. -/
structure Pseudo where
  owed : Nat := 0
  deriving DecidableEq, Repr

/-- A channel (14 R345 R348 R350). Row-buffer counters not listed hold 2. -/
structure Channel where
  /-- tREFI since the last retraining started, the steps that it still has to run, and whether the refresh last
  issued carries one. -/
  issued : Nat := 0
  train : Nat := 0
  stepping : Bool := false
  counters : Table (BitVec 2) := []
  bursts : Nat := 0
  errors : Table Nat := []
  replays : Table Nat := []
  spares : Nat := 8
  map : Table Nat := []
  deriving DecidableEq, Repr

/-- The registers of an HBM stack (14 R352). -/
structure Stack where
  pinmax : BitVec 11 := 1536
  pinen : Bool := true
  rtint : BitVec 8 := 64
  lthr : BitVec 16 := 16
  swaps : DWord := 0
  alerts : Word := 0
  pinfail : Word := 0
  replays : Word := 0
  repairs : BitVec 16 := 0
  cecnt : Word := 0
  uecnt : Word := 0
  chdown : Word := 0
  deriving DecidableEq, Repr

/-- A key slot (16 R385 R387). -/
structure KeySlot where
  inst : Bool := false
  ctx : BitVec 16 := 0
  stream : Word := 0
  lastctr : DWord := 0
  fails : Word := 0
  key : BitVec 256 := 0
  deriving DecidableEq, Repr

/-- States of a TDI (16 R384). -/
inductive TdiState where
  | unlocked | locked | run | error
  deriving DecidableEq, Repr

/-- A TDI (16 R384). -/
structure Tdi where
  state : TdiState := .unlocked
  stream : Nat := 0
  ctxs : List Nat := []
  queues : List Nat := []
  deriving DecidableEq, Repr

/-- An MSI-X vector of a function (16 R382). -/
structure Vec where
  masked : Bool := true
  pending : Bool := false
  deriving DecidableEq, Repr

/-- An export entry (16 R392). -/
structure Export where
  base : BitVec 37 := 0
  len : DWord := 0
  src : Word := 0
  rt : BitVec 4 := 0
  deriving DecidableEq, Repr

/-- What a remote request is for (16 R390 R391). -/
inductive RemoteUse where
  | load (c : Ctx) (id : Nat)
  /-- A store; a release of a context that stays on ST until it is answered (05 R146). -/
  | store (ctx core : Nat) (release : Option (Ctx × Nat))
  /-- A piece of the line that a reel command reads: skein, channel, command and piece. -/
  | reel (sk ch cmd piece : Nat)
  /-- A piece of a `reel.rred` line, with the context of the command: its loss is an event also where the
  command is gone (16 R391). -/
  | reduce (sk ch cmd piece ctx : Nat)
  /-- Bytes of a stash line that is filled: the mapping, the offset in its window of the first, and its virtual
  address. -/
  | fill (map off va : Nat)
  /-- A line of code for a cluster. -/
  | code (clus line : Nat)
  deriving DecidableEq, Repr

/-- A remote request that awaits its response (16 R390). -/
structure RemoteOut where
  dev : Nat
  pa : Nat
  use : RemoteUse
  /-- The clock when it was sent. -/
  sent : Nat
  deriving DecidableEq, Repr

/-- What leaves the package: MSI-X messages (16 R382), remote requests (16 R390), responses to remote
and host reads, signed measurements and the PCIe error signal (16 R389 R398). -/
inductive OutMsg where
  | msix (fn vec : Nat)
  | request (id : Nat) (dev : Nat) (inc : BitVec 8) (pa : Nat) (op : RemoteOp)
  | response (dev : Nat) (resp : RemoteResp)
  | hostData (bytes : List Byte)
  | unsupported
  | measurements (regs : List (BitVec 256)) (signature : List Byte)
  | fatal
  /-- A report to system software for which the spec gives no record (log 58): a ply failed (11 R291), a launch
  ends with the pool of a cluster that left service (11 R292), a skein is lost with its die (15 R368). -/
  | plyFailed (launch plane : Nat)
  | poolLost (clus launch : Nat)
  | skeinLost (launch idx : Nat)
  deriving DecidableEq, Repr

/-- A request from outside that has to wait: a host request whose lines are held by packets that are not
applied (15 R362, 16 R381), a remote request likewise, and a key message while its slot is read
(16 R385). -/
inductive Waiting where
  | hostWrite (pa : BitVec 52) (data : List Byte) (stream : Nat)
  | hostRead (pa : BitVec 52) (n stream : Nat)
  | remote (r : RemoteReq)
  | keyset (slot : BitVec 6) (ctx : BitVec 16) (stream : Word) (key : BitVec 256)
  | keyclr (slot : BitVec 6)
  deriving DecidableEq, Repr

/-- Who moves with the next step. -/
inductive Turn where
  | event (i : Instr)
  /-- The request at a place of the waiting ones. -/
  | again (n : Nat)
  | issue (w : Who)
  deriving DecidableEq, Repr

/-- The word that is being executed: who issued it, the word and its prefix. -/
structure Issue where
  who : Option Who := none
  word : Word := 0
  pfx : Option Word := none
  deriving DecidableEq, Repr

/-- The state of the package. -/
structure State where
  /-- sr.clk (01 R17). -/
  clk : DWord
  /-- Package memory and host memory: pairs of physical address and byte, no byte 0 listed (log 1). -/
  mem : List Host.Cell
  /-- Poisoned 32-byte sectors of package memory, by sector number, with the bytes that stores have
  overwritten since (14 R351). -/
  poison : Table (BitVec 32)
  /-- Poisoned sectors whose mark came with a read burst: memory itself holds them sound (14 R349). -/
  flown : List Nat
  fibres : Table Fibre
  strands : Table Strand
  skeins : Table Skein
  cores : Table Core
  /-- Lines of the instruction caches: the cluster and the line with its bytes (11 R282). -/
  icache : Table (Table (List Byte))
  /-- Lines that a fetch or an `ipf` has asked an instruction cache for (04 R112, 11 R282). -/
  ifetch : Table (List Nat)
  maps : Table Mapping
  regs : Table Reg
  pools : Table Pool
  fills : List Fill
  dies : Table Die
  regions : List Region
  /-- Next tracking window of each home die, counted in windows (12 R302). -/
  windows : Table Nat
  l2 : Table L2Line
  /-- Duplicate lines, by line, with the dies that hold them (12 R299). -/
  dups : Table (List Nat)
  shadows : Table Shadow
  /-- Frame modes: 32 KiB frame to tracked (15 R373). -/
  modes : Table Bool
  packets : List Packet
  /-- STATE and INSVC of the Hahan block (15 R370). -/
  hstate : BitVec 2
  insvc : BitVec 5
  rlog : Ring
  rllost : Word
  /-- Global registers of the front end (13 R316). -/
  ctxbase : BitVec 36
  ctxcnt : BitVec 17
  lseed : Word
  inflight : BitVec 9
  abusy : Bool
  blockage : Word
  swcyc : DWord
  queues : Table LQueue
  launches : Table Launch
  /-- Control processors in service, and the processors of the queues that have changed theirs; queue n is else
  served by n mod 4 (13 R315 R333). -/
  cps : List Nat
  served : Table Nat
  banks : Table Bank
  pseudos : Table Pseudo
  channels : Table Channel
  hbms : Table Stack
  idtab : BitVec 128
  idlock : Bool
  slots : Table KeySlot
  /-- Measurement registers (16 R389). -/
  meas : Table (BitVec 256)
  tdis : Table Tdi
  /-- Vectors, by 2048 x function + vector. -/
  vecs : Table Vec
  devnum : BitVec 14
  devinc : BitVec 8
  /-- Bring-ups of links so far: what they last taught of the other devices' incarnations (16 R390). -/
  linkups : Nat
  portup : BitVec 36
  rtmo : Word
  eq : Ring
  eqlost : Word
  exports : Table Export
  remotes : Table RemoteOut
  /-- Requests from outside that wait, in the order of their arrival. -/
  waiting : List Waiting
  wdlim : BitVec 48
  hevt : Word
  wearalert : BitVec 10
  rbusy : Bool
  /-- The core that a repair takes out of service (16 R397). -/
  rcore : Option Nat
  fstat : BitVec 8
  /-- A fatal error has stopped all issue (16 R398). -/
  stopped : Bool
  /-- Boot ended in the recovery state (16 R388). -/
  recovery : Bool
  outbox : List OutMsg
  /-- Serials of the keys of the tables. -/
  nextKey : Nat
  /-- The model's own fields: the word being executed, who moves next, the events from outside that
  have not yet been taken, and the counters of free values and choices. -/
  cur : Issue
  turn : Option Turn
  agenda : List Instr
  fresh : Nat
  /-- Package resets that left the memory outside the dump area undefined (16 R398; log 7). -/
  wiped : Nat
  deriving DecidableEq, Repr

/-- The package right after package reset: registers at the values of the spec, no launch accepted,
memory with nothing listed. -/
def State.reset : State :=
  { clk := 0, mem := [], poison := [], flown := [], fibres := [], strands := [], skeins := [], cores := [],
    icache := [], ifetch := [], maps := [], regs := [], pools := [], fills := [], dies := [], regions := [],
    windows := [], l2 := [], dups := [], shadows := [], modes := [], packets := [], hstate := 0,
    insvc := 0x1F, rlog := {}, rllost := 0, ctxbase := 0, ctxcnt := 0, lseed := 1, inflight := 0,
    abusy := false, blockage := 0x00100000, swcyc := 0, queues := [], launches := [],
    cps := [0, 1, 2, 3], served := [], banks := [], pseudos := [], channels := [], hbms := [],
    idtab := 0x55555555555555555555555555555555, idlock := false, slots := [], meas := [],
    tdis := [], vecs := [], devnum := 0, devinc := 0, linkups := 0, portup := 0,
    rtmo := 0x01000000, eq := {}, eqlost := 0, exports := [], remotes := [], waiting := [],
    wdlim := 0x100000000, hevt := 0, wearalert := 900, rbusy := false, rcore := none, fstat := 0,
    stopped := false, recovery := false, outbox := [], nextKey := 1, cur := {}, turn := none,
    agenda := [], fresh := 0, wiped := 0 }

end Sys2Proof.Machine
end

