-- ==== Sys2Proof/Machine/Ops.lean ====
section
/-! DEFINITION. The named operations over the state: bit fields and byte lists, tables in canonical
form, the primitive effects of a step and the plan that collects them, the place of a strand in its
code, filing and drawing of fibres, and taking an exception and returning from one. -/

namespace Sys2Proof.Machine

open Sys2Proof

/-! ### Numbers -/

/-- Bits `hi` down to `lo` of a natural number (00 R8). -/
def bitsOf (x hi lo : Nat) : Nat := x / 2 ^ lo % 2 ^ (hi + 1 - lo)

/-- Bit `i` of a natural number. -/
def bitOf (x i : Nat) : Bool := x / 2 ^ i % 2 == 1

/-- The low `n` bits read as a two's-complement integer (00 R8). -/
def sextN (x n : Nat) : Int :=
  let y := x % 2 ^ n
  if n != 0 && 2 ^ (n - 1) ≤ y then (y : Int) - (2 ^ n : Nat) else y

/-- The low `n` bits of the two's-complement pattern of an integer (00 R8). -/
def zextI (x : Int) (n : Nat) : Nat := (x % (2 ^ n : Nat)).toNat

/-- The `n` low bytes of a number, little-endian (00 R4). -/
def bytesOf (x : Nat) : Nat → List Byte
  | 0 => []
  | n + 1 => BitVec.ofNat 8 x :: bytesOf (x / 256) n

/-- The number that bytes make, little-endian (00 R4). -/
def ofBytes : List Byte → Nat
  | [] => 0
  | b :: r => b.toNat + 256 * ofBytes r

/-- The mask with bit `l` set. -/
def laneBit (l : Nat) : DWord := BitVec.ofNat 64 (2 ^ l)

/-! ### Tables -/

/-- The value of a key. -/
def tget {α : Type} : Table α → Nat → Option α
  | [], _ => none
  | (i, x) :: r, k => if i = k then some x else tget r k

/-- The value of a key, or the default of an unlisted key. -/
def tgetD {α : Type} (t : Table α) (k : Nat) (d : α) : α := (tget t k).getD d

/-- The table with a key set, keys strictly rising. -/
def tput {α : Type} : Table α → Nat → α → Table α
  | [], k, x => [(k, x)]
  | (i, y) :: r, k, x =>
    if k < i then (k, x) :: (i, y) :: r
    else if k = i then (k, x) :: r
    else (i, y) :: tput r k x

/-- The table without a key. -/
def tdel {α : Type} : Table α → Nat → Table α
  | [], _ => []
  | (i, y) :: r, k => if i = k then tdel r k else (i, y) :: tdel r k

/-- The table with a key set, where a key of the default value is not listed. -/
def tputD {α : Type} [BEq α] (t : Table α) (k : Nat) (d x : α) : Table α :=
  if x == d then tdel t k else tput t k x

/-- The keys of a table rise strictly. -/
def tableWf {α : Type} : Table α → Bool
  | [] => true
  | [_] => true
  | (i, _) :: (j, y) :: r => i < j && tableWf ((j, y) :: r)

/-- What an unlisted address reads as: 0, or after a reset that left package memory undefined a free
value in it, outside the dump area and host memory (16 R398; log 1, log 7). -/
def Memory.blank (wiped a : Nat) : Byte :=
  if wiped = 0 then 0 else if a < Config.dumpBase then Config.freeMemory wiped a else 0

/-- A memory is in canonical form: addresses rise strictly and no byte is the one that an unlisted
address reads as. -/
def Memory.wf (wiped : Nat) (m : List Host.Cell) : Bool :=
  tableWf m && m.all (fun c => c.2 != Memory.blank wiped c.1)

/-- A set of numbers as a list that rises strictly: with an element added. -/
def sadd : List Nat → Nat → List Nat
  | [], k => [k]
  | i :: r, k => if k < i then k :: i :: r else if k = i then i :: r else i :: sadd r k

/-- A set of numbers with an element removed. -/
def sdel (l : List Nat) (k : Nat) : List Nat := l.filter (fun i => i != k)

/-- A list of numbers with each once, in the order of their first places. -/
def nub : List Nat → List Nat
  | [] => []
  | a :: r => a :: (nub r).filter (fun b => b != a)

/-! ### Reading the state -/

/-- One byte of package or host memory. -/
def State.byte (s : State) (a : Nat) : Byte := tgetD s.mem a (Memory.blank s.wiped a)

/-- `n` bytes of memory from an address. -/
def State.bytes (s : State) (a : Nat) : Nat → List Byte
  | 0 => []
  | n + 1 => s.byte a :: s.bytes (a + 1) n

/-- The `n` bytes of memory at an address, read little-endian (00 R7). -/
def State.readMem (s : State) (a n : Nat) : Nat := ofBytes (s.bytes a n)

/-- A core; one not listed is as at reset. -/
def State.core (s : State) (k : Nat) : Core := tgetD s.cores k {}

/-- A die; one not listed is as at reset. -/
def State.die (s : State) (k : Nat) : Die := tgetD s.dies k {}

/-- A launch queue; one not listed is as at reset. -/
def State.queue (s : State) (k : Nat) : LQueue := tgetD s.queues k {}

/-- A stack; one not listed is as at reset. -/
def State.stack (s : State) (k : Nat) : Stack := tgetD s.hbms k {}

/-- The keys of the fibres of a skein. -/
def State.fibresOf (s : State) (sk : Nat) : List Nat :=
  (s.fibres.filter (fun e => e.2.sk == sk)).map (fun e => e.1)

/-- A member mask: m0 is the mask of the lane block of the skein (01 R10). -/
def laneBlock (lane0 span : Nat) : DWord := BitVec.ofNat 64 ((2 ^ span - 1) * 2 ^ lane0)

/-- The home lane, row and block of a fibre follow from its skein (06 R155). -/
def State.blockOf (s : State) (f : Fibre) : DWord :=
  match tget s.skeins f.sk with
  | some k => laneBlock k.lane0 k.lr.span
  | none => 0

/-- Outstanding loads of a fibre: the LD counter (01 R13, 05 R146). -/
def Fibre.ld (f : Fibre) : Nat := f.loads.length

/-- Outstanding stores of a fibre: the ST counter (01 R13, 05 R146, 09 R261, 14 R343). -/
def Fibre.st (f : Fibre) : Nat := f.stores.length + f.steers.length + f.twrs

/-- The skein counter CP: reel commands whose issue order is not yet complete (06 R164). -/
def Skein.cp (k : Skein) : Nat := k.cpq.length

/-- The skein counter TL (06 R164): a knotted operation that finds it at 7 waits at the engine (09 R247). -/
def Skein.tl (k : Skein) : Nat := min 7 k.tlq.length

/-! ### Effects and plans -/

/-- The primitive changes of the state. Every step of the machine is a list of them. -/
inductive Effect where
  | mem (a : Nat) (b : Byte)
  | poison (sector : Nat) (x : Option (BitVec 32))
  | fibre (k : Nat) (f : Fibre)
  | fibreEnd (k : Nat)
  | strand (k : Nat) (x : Strand)
  | strandEnd (k : Nat)
  | skein (k : Nat) (x : Skein)
  | skeinEnd (k : Nat)
  | core (k : Nat) (x : Core)
  | icache (k : Nat) (x : Table (List Byte))
  | map (k : Nat) (x : Mapping)
  | mapEnd (k : Nat)
  | reg (line : Nat) (x : Reg)
  | regEnd (line : Nat)
  | pool (k : Nat) (x : Pool)
  | poolEnd (k : Nat)
  | die (k : Nat) (x : Die)
  | queue (k : Nat) (x : LQueue)
  | launch (k : Nat) (x : Launch)
  | launchEnd (k : Nat)
  | bank (k : Nat) (x : Bank)
  /-- The other registers and lists of the package, taken from a state. -/
  | rest (t : State)
  /-- Time passes: the clock and the watchdogs of the running skeins (01 R17, 16 R395). -/
  | tick (n : Nat)
  /-- A package reset, with what it keeps (16 R398). -/
  | reset (t : State)

/-- sr.ctl of a skein that no descriptor has set yet: the reset value of the overflow table (01 R20 R31). -/
def ctlReset : DWord := 0x0145

/-- A fibre as the registers hold it: p0 reads 1, reserved bits of sr.fpc read 0 (01 R10 R19). -/
def Fibre.norm (f : Fibre) : Fibre := { f with p := f.p ||| 1, fpc := f.fpc &&& 0x001F0F1F }

/-- A skein as the registers hold it: q0 reads 1, reserved bits of sr.ctl read 0 (01 R20, 06 R157). -/
def Skein.norm (k : Skein) : Skein :=
  { k with front := { k.front with q := k.front.q ||| 1 }, ctl := k.ctl &&& 0x000001FF3FFFFFFF }

/-- The watchdog of a skein counts while the skein is on its core and not halted (16 R395). -/
def Skein.watched (k : Skein) : Bool := (k.run == .resident || k.run == .stopping) && !k.halted

/-- Time passes for the watchdog of a skein. -/
def Skein.tick (n : Nat) (k : Skein) : Skein := if k.watched then { k with dog := k.dog + n } else k

/-- One effect. -/
def apply (e : Effect) (s : State) : State :=
  match e with
  | .mem a b => { s with mem := tputD s.mem a (Memory.blank s.wiped a) b }
  | .poison k x =>
    { s with poison := match x with
      | some m => tput s.poison k m
      | none => tdel s.poison k }
  | .fibre k f => { s with fibres := tput s.fibres k f.norm }
  | .fibreEnd k => { s with fibres := tdel s.fibres k }
  | .strand k x => { s with strands := tput s.strands k x }
  | .strandEnd k => { s with strands := tdel s.strands k }
  | .skein k x => { s with skeins := tput s.skeins k x.norm }
  | .skeinEnd k => { s with skeins := tdel s.skeins k }
  | .core k x => { s with cores := tput s.cores k x }
  | .icache k x => { s with icache := tput s.icache k x }
  | .map k x => { s with maps := tput s.maps k x }
  | .mapEnd k => { s with maps := tdel s.maps k }
  | .reg k x => { s with regs := tput s.regs k x }
  | .regEnd k => { s with regs := tdel s.regs k }
  | .pool k x => { s with pools := tput s.pools k x }
  | .poolEnd k => { s with pools := tdel s.pools k }
  | .die k x => { s with dies := tput s.dies k x }
  | .queue k x => { s with queues := tput s.queues k x }
  | .launch k x => { s with launches := tput s.launches k x }
  | .launchEnd k => { s with launches := tdel s.launches k }
  | .bank k x => { s with banks := tput s.banks k x }
  | .rest t =>
    { t with mem := s.mem, poison := s.poison, fibres := s.fibres, strands := s.strands,
             skeins := s.skeins, cores := s.cores, icache := s.icache, maps := s.maps,
             regs := s.regs, pools := s.pools, dies := s.dies, queues := s.queues,
             launches := s.launches, banks := s.banks, wiped := s.wiped }
  | .tick n =>
    { s with clk := s.clk + BitVec.ofNat 64 n,
             skeins := s.skeins.map (fun e => (e.1, e.2.tick n)) }
  | .reset t =>
    { State.reset with
      mem := s.mem.filter (fun c => Config.dumpBase ≤ c.1), wiped := s.wiped + 1,
      devinc := t.devinc, meas := t.meas, recovery := t.recovery, agenda := t.agenda, cps := t.cps, served := t.served,
      fresh := t.fresh, nextKey := t.nextKey, outbox := t.outbox }

/-- A list of effects, in order. -/
def applyAll : List Effect → State → State
  | [], s => s
  | e :: r, s => applyAll r (apply e s)

/-- What a meaning has done so far: the state it sees and the effects that led there, the latest
first. -/
structure Plan where
  now : State
  log : List Effect

/-- One more effect. -/
def Plan.emit (p : Plan) (e : Effect) : Plan := { now := apply e p.now, log := e :: p.log }

/-- A change made by a step of a meaning. -/
abbrev Act := Plan → Plan

/-- The next state of a meaning: the effects it collected, applied in order. -/
def commit (s : State) (act : Act) : Host.Outcome State Fault Refusal :=
  .next (applyAll (act { now := s, log := [] }).log.reverse s)

/-- An action for each element of a list, in order. -/
def forEach {α : Type} (l : List α) (act : α → Act) : Act :=
  fun p => l.foldl (fun q x => act x q) p

/-- Change the other registers and lists of the package. -/
def modRest (g : State → State) : Act := fun p => p.emit (.rest (g p.now))

/-- Change a fibre, if it is there. -/
def modFibre (k : Nat) (g : Fibre → Fibre) : Act := fun p =>
  match tget p.now.fibres k with
  | some f => p.emit (.fibre k (g f))
  | none => p

/-- Change a strand, if it is there. -/
def modStrand (k : Nat) (g : Strand → Strand) : Act := fun p =>
  match tget p.now.strands k with
  | some f => p.emit (.strand k (g f))
  | none => p

/-- Change a skein, if it is there. -/
def modSkein (k : Nat) (g : Skein → Skein) : Act := fun p =>
  match tget p.now.skeins k with
  | some f => p.emit (.skein k (g f))
  | none => p

/-- Change the front context of a skein, if it is there. -/
def modFront (k : Nat) (g : Front → Front) : Act :=
  modSkein k (fun x => { x with front := g x.front })

/-- Change a core. -/
def modCore (k : Nat) (g : Core → Core) : Act := fun p => p.emit (.core k (g (p.now.core k)))

/-- Change a die. -/
def modDie (k : Nat) (g : Die → Die) : Act := fun p => p.emit (.die k (g (p.now.die k)))

/-- Change a mapping, if it is there. -/
def modMap (k : Nat) (g : Mapping → Mapping) : Act := fun p =>
  match tget p.now.maps k with
  | some f => p.emit (.map k (g f))
  | none => p

/-- Change a pool, if it is there. -/
def modPool (k : Nat) (g : Pool → Pool) : Act := fun p =>
  match tget p.now.pools k with
  | some f => p.emit (.pool k (g f))
  | none => p

/-- Change an accepted launch, if it is there. -/
def modLaunch (k : Nat) (g : Launch → Launch) : Act := fun p =>
  match tget p.now.launches k with
  | some f => p.emit (.launch k (g f))
  | none => p

/-- Change a launch queue. -/
def modQueue (k : Nat) (g : LQueue → LQueue) : Act := fun p => p.emit (.queue k (g (p.now.queue k)))

/-- Change a bank. -/
def modBank (k : Nat) (g : Bank → Bank) : Act := fun p =>
  p.emit (.bank k (g (tgetD p.now.banks k {})))

/-- Change a stack's registers. -/
def modStack (k : Nat) (g : Stack → Stack) : Act :=
  modRest (fun s => { s with hbms := tput s.hbms k (g (s.stack k)) })

/-- An action under a condition. -/
def actIf (c : Bool) (a : Act) : Act := fun p => if c then a p else p

/-- A fresh key for a table; the caller reads it before. -/
def bumpKey : Act := modRest (fun s => { s with nextKey := s.nextKey + 1 })

/-- One more free value has been drawn. -/
def bumpFresh : Act := modRest (fun s => { s with fresh := s.fresh + 1 })

/-- A message leaves the package. -/
def send (m : OutMsg) : Act := modRest (fun s => { s with outbox := s.outbox ++ [m] })

/-- Write bytes to memory from an address upward. -/
def writeBytes (a : Nat) : List Byte → Act
  | [], p => p
  | b :: r, p => writeBytes (a + 1) r (p.emit (.mem a b))

/-! ### The place of a strand in its code -/

/-- The number of bytes that the word being executed takes, its prefix included. -/
def wordBytes (s : State) : Nat := if s.cur.pfx.isSome then 8 else 4

/-- The end of a clause: the address of the header that follows it (04 R99). -/
def Clause.fall (c : Clause) : VAddr :=
  c.hdr + BitVec.ofNat 51 (4 * ((Header.ofWord c.head.toNat).n.toNat + 1))

/-- The place after a word: within the clause, or the header that follows it. -/
def nextPos (pos : Pos) (c : Option Clause) (n : Nat) : Pos :=
  let pc := pos.pc + BitVec.ofNat 51 n
  match c with
  | some cl => if pc == cl.fall then { pc := pc, hdr := pc } else { pc := pc, hdr := pos.hdr }
  | none => { pc := pc, hdr := pos.hdr }

/-- The place of a clause header. -/
def posAt (a : VAddr) : Pos := { pc := a, hdr := a }

/-- The target of a control transfer that is taken (02 R41, 04 R97). -/
def posTo (a : VAddr) : Pos := { pc := a, hdr := a, jumped := true }

/-- The clock as a number. -/
def State.time (s : State) : Nat := s.clk.toNat

/-- The watchdog counter of a skein returns to 0 when one of its contexts retires a word (16 R395). -/
def kickDog (k : Nat) : Act := modSkein k (fun x => { x with dog := 0 })

/-! ### Card bins, strands and slots -/

/-- The fibres of a strand with their keys, in ascending home lane, each once. -/
def State.strandFibres (s : State) (x : Strand) : List (Nat × Fibre) :=
  (nub x.fibs).filterMap (fun k => (tget s.fibres k).map (fun f => (k, f)))

/-- The mask of the home lanes of some fibres. -/
def lanesOf (l : List (Nat × Fibre)) : DWord :=
  l.foldl (fun m e => m ||| laneBit e.2.lane.toNat) 0

/-- The home lane of a fibre. -/
def State.laneOf (s : State) (k : Nat) : Nat :=
  ((tget s.fibres k).map (fun f => f.lane.toNat)).getD 0

/-- Keys of fibres put in ascending home lane. -/
def insertLane (s : State) (k : Nat) : List Nat → List Nat
  | [] => [k]
  | j :: r =>
    if s.laneOf k < s.laneOf j then k :: j :: r else j :: insertLane s k r

/-- The strands of a slot of a core. -/
def State.slotStrands (s : State) (core slot : Nat) : Table Strand :=
  s.strands.filter (fun e => e.2.core == core && e.2.slot == slot)

/-- Where a drawn strand goes: an active set with room, or the pending set with the fewest strands
(06 R160). -/
def State.chooseSlot (s : State) (core : Nat) : Nat × Bool :=
  let act := fun i => ((s.slotStrands core i).filter (fun e => e.2.active)).length
  let pend := fun i => ((s.slotStrands core i).filter (fun e => !e.2.active)).length
  match [0, 1, 2, 3].find? (fun i => act i < 8) with
  | some i => (i, true)
  | none =>
    ([1, 2, 3].foldl (fun b i => if pend i < pend b then i else b) 0, false)

/-- Form a strand of some fibres of one launch at one place (06 R159 R160). It holds the clause in which they
stand between two words. -/
def formStrand (core : Nat) (fibs : List Nat) (pos : Pos) (clause : Option Clause) : Act := fun p =>
  if fibs.isEmpty then p
  else
    let n := p.now.nextKey
    let w := p.now.chooseSlot core
    let ord := fibs.foldl (fun l k => insertLane p.now k l) []
    let p := bumpKey p
    let p := p.emit (.strand n {
      core := core, slot := w.1, active := w.2, fibs := ord, pos := pos,
      clause := clause, since := p.now.time })
    forEach ord (fun k => modFibre k (fun f =>
      { f with
        run := .strand n
        clause := none
        pos := { pos with jumped := f.pos.jumped } })) p

/-- The oldest fibre of a bin in each home lane, and what stays in the bin (06 R159). -/
def takeLanes (s : State) : List (Nat × Nat) → List Nat → List Nat × List (Nat × Nat)
  | [], _ => ([], [])
  | (k, t) :: r, lanes =>
    match tget s.fibres k with
    | none => takeLanes s r lanes
    | some f =>
      if lanes.contains f.lane.toNat then
        let o := takeLanes s r lanes
        (o.1, (k, t) :: o.2)
      else
        let o := takeLanes s r (f.lane.toNat :: lanes)
        (k :: o.1, o.2)

/-- Fibres drawn together at one PC form a strand; those of another clause header, or that hold the words of
another clause, form one of their own (06 R159, 02 R47; log 43). -/
def formStrands (core : Nat) (pc : VAddr) (ks : List Nat) : Nat → Act
  | 0, p => p
  | n + 1, p =>
    match ks.filterMap (fun k => (tget p.now.fibres k).map (fun f => (k, f))) with
    | [] => p
    | (k, f) :: r =>
      let same := fun (e : Nat × Fibre) => e.2.pos.hdr == f.pos.hdr && e.2.clause == f.clause
      formStrands core pc ((r.filter (fun e => !same e)).map (fun e => e.1)) n
        (formStrand core (k :: (r.filter same).map (fun e => e.1)) { pc := pc, hdr := f.pos.hdr } f.clause p)

/-- Draw one strand from the bin at an index of a core's bins; an emptied bin is freed (06 R159). -/
def drawBin (core i : Nat) : Act := fun p =>
  match (p.now.core core).bins[i]? with
  | none => p
  | some b =>
    let o := takeLanes p.now b.fibs []
    let bins := (p.now.core core).bins
    let bins := if o.2.isEmpty then bins.eraseIdx i
      else bins.set i { b with fibs := o.2, drawn := true }
    formStrands core b.pc o.1 o.1.length (modCore core (fun c => { c with bins := bins }) p)

/-- The pending strands of a slot of a core. -/
def State.pendingOf (s : State) (core slot : Nat) : Table Strand :=
  (s.slotStrands core slot).filter (fun e => !e.2.active)

/-- The active strands of a slot of a core. -/
def State.activeOf (s : State) (core slot : Nat) : Table Strand :=
  (s.slotStrands core slot).filter (fun e => e.2.active)

/-- Bins are not drawn while every pending set is full (06 R160). -/
def State.drawOpen (s : State) (core : Nat) : Bool :=
  [0, 1, 2, 3].any (fun i => (s.pendingOf core i).length < 64)

/-- Draw a forced bin empty, at most `n` strands, while a pending set has room (06 R158 R160). -/
def drawAll (core i : Nat) : Nat → Act
  | 0, p => p
  | n + 1, p =>
    match (p.now.core core).bins[i]? with
    | none => p
    | some _ =>
      if !p.now.drawOpen core then p
      else
        let q := drawBin core i p
        if (q.now.core core).bins.length < (p.now.core core).bins.length then q
        else drawAll core i n q

/-- The index of the bin whose oldest fibre was filed first (06 R158). -/
def oldestBin (bins : List Bin) (ok : Bin → Bool) : Option Nat :=
  let age := fun (b : Bin) => (b.fibs.head?.map (fun e => e.2)).getD 0
  ((bins.zipIdx.filter (fun e => ok e.1)).foldl (fun (m : Option (Bin × Nat)) e =>
    match m with
    | none => some e
    | some x => if age e.1 < age x.1 then some e else some x) none).map (fun e => e.2)

/-- The bin of a launch and a PC, among those of a core. -/
def binOf (bins : List Bin) (launch : Nat) (pc : VAddr) : Option Nat :=
  bins.findIdx? (fun b => b.launch == launch && b.pc == pc)

/-- A fibre enters the bin of its key, or an empty bin; none where every bin has another key (06 R158). -/
def enterBin (core launch k : Nat) (pc : VAddr) (p : Plan) : Option Plan :=
  let entry := (k, p.now.time)
  let bins := (p.now.core core).bins
  match binOf bins launch pc with
  | some i =>
    some (modCore core (fun c => { c with bins := bins.modify i (fun b =>
      { b with fibs := b.fibs ++ [entry] }) }) p)
  | none =>
    if bins.length < 32 then
      some (modCore core (fun c => { c with bins := c.bins ++ [{ launch := launch, pc := pc, fibs := [entry] }] }) p)
    else none

/-- The oldest bin of a core is forced: its fibres are drawn (06 R158). -/
def forceBin (core : Nat) : Act := fun p =>
  match oldestBin (p.now.core core).bins (fun _ => true) with
  | none => p
  | some i => drawAll core i 64 (modCore core (fun c =>
      { c with bins := c.bins.modify i (fun b => { b with forced := true }) }) p)

/-- The fibres that wait for filing are filed, in order, as far as a bin is there or can be forced
(06 R158). -/
def fileWaiting (core : Nat) : Nat → Act
  | 0, p => p
  | n + 1, p =>
    match (p.now.core core).unfiled with
    | [] => p
    | k :: r =>
      let rest := modCore core (fun c => { c with unfiled := r })
      match (tget p.now.fibres k).bind (fun f => (tget p.now.skeins f.sk).map (fun x => (f, x))) with
      | none => fileWaiting core n (rest p)
      | some (f, x) =>
        match enterBin core x.launch k f.pos.pc p with
        | some q => fileWaiting core n (rest q)
        | none =>
          let q := forceBin core p
          match enterBin core x.launch k f.pos.pc q with
          | some q => fileWaiting core n (rest q)
          | none => q

/-- File a fibre into the card bin of its launch and PC. When all 32 bins are in use the oldest is
forced, and the fibre waits until the freed bin takes its key (06 R158). -/
def fileFibre (k : Nat) : Act := fun p =>
  match tget p.now.fibres k with
  | none => p
  | some f =>
    match tget p.now.skeins f.sk with
    | none => p
    | some x =>
      let p := p.emit (.fibre k { f with run := .filed })
      match enterBin x.core x.launch k f.pos.pc p with
      | some q => q
      | none =>
        fileWaiting x.core ((p.now.core x.core).unfiled.length + 1)
          (modCore x.core (fun c => { c with unfiled := c.unfiled ++ [k] }) p)

/-- Fibres leave a strand and are filed at its word, in its clause (06 R158). -/
def refileHere (n : Nat) (ks : List Nat) (leave : Act) : Act := fun p =>
  let c := (tget p.now.strands n).bind (fun x => x.clause)
  forEach ks (fun k q => fileFibre k (modFibre k (fun f => { f with clause := c }) q)) (leave p)

/-- Take fibres out of a strand; an emptied strand is gone (06 R159). -/
def leaveStrand (n : Nat) (ks : List Nat) : Act := fun p =>
  match tget p.now.strands n with
  | none => p
  | some x =>
    let rest := x.fibs.filter (fun k => !ks.contains k)
    if rest.isEmpty then p.emit (.strandEnd n) else p.emit (.strand n { x with fibs := rest })

/-! ### Messages and records to system software -/

/-- An event raises an MSI-X vector of a function: a message, unless the vector is masked or its
message is still pending (16 R382). -/
def raiseVec (fn vec : Nat) : Act := fun p =>
  let key := 2048 * fn + vec
  let v := tgetD p.now.vecs key {}
  if v.masked || v.pending then
    modRest (fun s => { s with vecs := tput s.vecs key { v with pending := true } }) p
  else send (.msix fn vec) p

/-- The number of records of a ring: 2^SIZE, sizes outside 4-12 acting as 12 (12 R311, 04 R126). -/
def Ring.count (r : Ring) : Nat :=
  2 ^ (if 4 ≤ r.size.toNat && r.size.toNat ≤ 12 then r.size.toNat else 12)

/-- A ring is full when one more record would meet the head (12 R311). -/
def Ring.full (r : Ring) : Bool := (r.tail.toNat + 1) % r.count == r.head.toNat

/-- The ring after one more record. -/
def Ring.push (r : Ring) : Ring := { r with tail := BitVec.ofNat 16 ((r.tail.toNat + 1) % r.count) }

/-- The address of the next record of a ring. -/
def Ring.slotAddr (r : Ring) (size : Nat) : Nat :=
  r.base.toNat * 4096 + size * (r.tail.toNat % r.count)

/-- The stop record of a fibre or front context, its tag left 0 (04 R126): context, kind, core, slot,
fibre, lane, skein and trap record. -/
def stopRecord (x : Skein) (kind fibre lane : Nat) (tr : TrapRec) : StopRec :=
  { words :=
    [ BitVec.ofNat 64 (x.lr.ctx * 2 ^ 16 + kind * 2 ^ 32 + x.core % 64 * 2 ^ 34 + x.slot * 2 ^ 40),
      BitVec.ofNat 64 (fibre + lane * 2 ^ 16 + x.idx * 2 ^ 32),
      tr.cause.zeroExtend 64, tr.pc.zeroExtend 64, tr.mask, tr.addr, tr.aux, tr.word ] }

/-- A stop record waits to be posted on the die of a core (04 R126). -/
def queueStop (core : Nat) (r : StopRec) : Act :=
  modDie (core / 64) (fun d => { d with stops := d.stops ++ [r] })

/-! ### Taking an exception -/

/-- The cause codes of 04 R125. -/
inductive Cause where
  | illegalOpcode | illegalField | illegalPrefix | zeroWord | clauseFormat | contextMismatch
  | privileged | operandAlign | nonfinite | uniformity | decisionMismatch | userTrap | breakpoint
  | exitMode | bounds | rights | owner | binding | misaligned | translation | writeProtect
  | interleave | poison | remotePartial | race | mixedTracking | stashBounds | stashMap
  | sliverOverrun | queue | knot | poolBounds | constBounds | tileNonfinite | tileShape | draftState
  | reelFault | watchdog
  deriving DecidableEq, Repr

/-- The code of a cause (04 R125). -/
def Cause.code : Cause → Nat
  | .illegalOpcode => 0x01 | .illegalField => 0x02 | .illegalPrefix => 0x03 | .zeroWord => 0x04
  | .clauseFormat => 0x05 | .contextMismatch => 0x06 | .privileged => 0x07 | .operandAlign => 0x08
  | .nonfinite => 0x10 | .uniformity => 0x12 | .decisionMismatch => 0x13 | .userTrap => 0x14
  | .breakpoint => 0x15 | .exitMode => 0x16 | .bounds => 0x20 | .rights => 0x21 | .owner => 0x22
  | .binding => 0x23 | .misaligned => 0x24 | .translation => 0x25 | .writeProtect => 0x26
  | .interleave => 0x27 | .poison => 0x28 | .remotePartial => 0x29 | .race => 0x2A
  | .mixedTracking => 0x2B | .stashBounds => 0x30 | .stashMap => 0x31 | .sliverOverrun => 0x32
  | .queue => 0x33 | .knot => 0x34 | .poolBounds => 0x35 | .constBounds => 0x36
  | .tileNonfinite => 0x40 | .tileShape => 0x41 | .draftState => 0x42 | .reelFault => 0x43
  | .watchdog => 0x50

/-- A trap of a word: its cause, the detail for tr.aux[55:48], the offending lanes and tr.addr. -/
structure Trap where
  cause : Cause
  detail : Nat := 0
  mask : DWord := 0
  addr : Nat := 0
  /-- Of a walk: the virtual address and what it found (05 R134). -/
  walk : Option WalkCause := none
  deriving DecidableEq, Repr

/-- TRANSLATION, POISON and REMOTE_PARTIAL always go to system software (04 R121 R124). -/
def Cause.software (c : Cause) : Bool := c == .translation || c == .poison || c == .remotePartial

/-- Causes that are reported through the fault queue when they stop a context (12 R310). -/
def Cause.viaFaultQueue (c : Cause) : Bool :=
  c == .translation || c == .writeProtect || c == .interleave

/-- The ROUTE bit of a cause: its group selects a bit of sr.ctl[21:16] (01 R20, 04 R124). -/
def routed (ctl : DWord) (c : Cause) : Bool := bitOf ctl.toNat (16 + c.code / 16)

/-- The trap record of a trap at a word (01 R21). -/
def Trap.record (t : Trap) (pc : VAddr) (word : Word) (pfx : Option Word) (dtag : Nat) : TrapRec :=
  { cause := BitVec.ofNat 8 t.cause.code, pc := pc, mask := t.mask, addr := BitVec.ofNat 64 t.addr,
    aux := BitVec.ofNat 64 (dtag + t.detail % 256 * 2 ^ 48),
    word := BitVec.ofNat 64 (word.toNat + ((pfx.map (fun w => w.toNat)).getD 0) * 2 ^ 32) }

/-- A fault that waits to be posted, for one stopper (12 R310). A stopper whose key has an open record
joins it at once; `who` then takes its trap. -/
def faultOf (x : Skein) (t : Trap) (src chan : Nat) (agent : Agent) (tr : TrapRec) (pos : Pos) :
    FaultWait :=
  { ctx := x.lr.ctx, va := t.addr % 2 ^ 51, cause := t.walk.getD (.translation 1), src := src,
    write := bitOf t.detail 0, core := x.core % 64, chan := chan, agent := agent, tr := tr,
    pos := pos }

/-- The CAUSE of a fault record (12 R310). -/
def WalkCause.kind : WalkCause → Nat
  | .translation _ => 0
  | .writeProtect => 1
  | .interleave => 2

/-- The open record of a fault's key, if any (12 R310). -/
def Die.openFor (d : Die) (w : FaultWait) : Option FaultOpen :=
  d.opened.find? (fun o => o.ctx == w.ctx && o.page == w.va / 2 ^ 15 && o.cause.kind == w.cause.kind)

/-- Deliver a posted fault to its stopper: a fibre or a front context takes its trap record and stops
with the tag of the record (12 R310). The other stoppers are held already. -/
def deliverFault (w : FaultWait) (tag : BitVec 16) : Act :=
  match w.agent with
  | .ctx (.fibre k) => modFibre k (fun f =>
      { f with tr := w.tr, resume := w.pos.hdr, pos := w.pos, run := .stopped (some tag) })
  | .ctx (.front k) => modFront k (fun f =>
      { f with tr := w.tr, resume := w.pos.hdr, pos := w.pos, run := .stopped (some tag) })
  | _ => id

/-- A stopper meets a fault: it joins the open record of its key, or waits until one is posted
(12 R310). -/
def meetFault (die : Nat) (w : FaultWait) : Act := fun p =>
  match (p.now.die die).openFor w with
  | some o =>
    deliverFault w o.tag (modDie die (fun d => { d with opened := d.opened.map (fun y =>
      if y.tag == o.tag then { y with stoppers := y.stoppers ++ [w.agent] } else y) }) p)
  | none => modDie die (fun d => { d with waits := d.waits ++ [w] }) p

/-- Take a trap in one fibre: enter the handler, or stop for system software (04 R121). `pos` is the
place of the trapping word. The fibre has left its strand. -/
def trapFibre (k : Nat) (t : Trap) (pos : Pos) (word : Word) (pfx : Option Word) : Act := fun p =>
  match tget p.now.fibres k with
  | none => p
  | some f =>
    match tget p.now.skeins f.sk with
    | none => p
    | some x =>
      let pos := { pos with jumped := f.pos.jumped }
      let tr := t.record pos.pc word pfx f.dtag.toNat
      if routed x.ctl t.cause && !t.cause.software && !f.h && x.lr.tentry != 0 then
        let a := BitVec.ofNat 51 x.lr.tentry
        fileFibre k (p.emit (.fibre k { f with
          tr := tr, resume := pos.hdr, rjump := pos.jumped, h := true, pos := posTo a, clause := none }))
      else if t.cause.viaFaultQueue then
        let src := if word == 0 && pfx.isNone then 5 else 0
        meetFault (x.core / 64) (faultOf x t src 0 (.ctx (.fibre k)) tr pos)
          (p.emit (.fibre k { f with pos := pos, run := .faulting, clause := none }))
      else
        queueStop x.core (stopRecord x 0 f.idx.toNat f.lane.toNat tr)
          (p.emit (.fibre k { f with
            tr := tr, resume := pos.hdr, pos := pos, run := .stopped none, clause := none }))

/-- Take a trap in a front context: it has no handler and stops for system software (04 R121). -/
def trapFront (k : Nat) (t : Trap) (pos : Pos) (word : Word) : Act := fun p =>
  match tget p.now.skeins k with
  | none => p
  | some x =>
    let tr := t.record pos.pc word none 0
    if t.cause.viaFaultQueue then
      meetFault (x.core / 64) (faultOf x t (if word == 0 then 5 else 1) 0 (.ctx (.front k)) tr pos)
        (modFront k (fun f => { f with pos := pos, run := .faulting, clause := none }) p)
    else
      queueStop x.core (stopRecord x 1 0 0 tr)
        (modFront k (fun f => { f with
          tr := tr, resume := pos.hdr, pos := pos,
          run := .stopped none, clause := none }) p)

/-- Take a trap of the word being executed in some fibres of its strand, which leave it (04 R121,
05 R147). -/
def trapSome (n : Nat) (ks : List Nat) (t : Trap) : Act := fun p =>
  match tget p.now.strands n with
  | none => p
  | some x =>
    forEach (nub ks) (fun k => trapFibre k t x.pos p.now.cur.word p.now.cur.pfx) (leaveStrand n ks p)

/-- Take a trap of the word being executed: in every fibre of the issuing strand, or in the issuing
front context (04 R121). -/
def trapWord (t : Trap) : Act := fun p =>
  match p.now.cur.who with
  | some (.strand n) =>
    match tget p.now.strands n with
    | some x => trapSome n x.fibs t p
    | none => p
  | some (.front k) =>
    match tget p.now.skeins k with
    | some x => trapFront k { t with mask := 0 } x.front.pos p.now.cur.word p
    | none => p
  | none => p

/-- Return from an exception in one fibre: H is cleared and the fibre continues at tr.pc, filed at a
reform point; the clause is f.resume's. At the header that a transfer had led to, the word executed again is
still the target of that transfer (02 R41, 04 R97 R123, 06 R158). -/
def returnFibre (k : Nat) : Act := fun p =>
  match tget p.now.fibres k with
  | none => p
  | some f =>
    fileFibre k (p.emit (.fibre k { f with
      h := false
      clause := none
      pos := { pc := f.tr.pc, hdr := f.resume, jumped := f.rjump && f.tr.pc == f.resume } }))

/-! ### Retiring a word -/

/-- The skeins of some fibres, each once. -/
def skeinsOf (l : List (Nat × Fibre)) : List Nat := l.foldl (fun m e => sadd m e.2.sk) []

/-- The clause of the strand carries the yield hint (02 R43). -/
def Strand.asksYield (x : Strand) : Bool :=
  (x.clause.map (fun c => (Header.ofWord c.head.toNat).yld)).getD false

/-- The strand of a key retires its word: every fibre moves past it (16 R395, 02 R44). The card-after hint of a
clause is never taken (02 R43; log 50). -/
def retireStrand (n : Nat) : Act := fun p =>
  match tget p.now.strands n with
  | none => p
  | some x =>
    let np := nextPos x.pos x.clause (wordBytes p.now)
    let done := np.pc == np.hdr
    let p := p.emit (.strand n { x with
      pos := np, since := p.now.time, missed := false, waits := false
      yields := done && x.asksYield
      clause := if done then none else x.clause })
    let p := forEach x.fibs (fun k => modFibre k (fun f => { f with pos := np })) p
    forEach (skeinsOf (p.now.strandFibres x)) kickDog p

/-- The front context of a skein retires its word. -/
def retireFront (k : Nat) : Act := fun p =>
  match tget p.now.skeins k with
  | none => p
  | some x =>
    let np := nextPos x.front.pos x.front.clause (wordBytes p.now)
    let cl := if np.pc == np.hdr then none else x.front.clause
    p.emit (.skein k { x with dog := 0, front := { x.front with pos := np, clause := cl } })

/-- The context that issued the word retires it. -/
def retire : Act := fun p =>
  match p.now.cur.who with
  | some (.strand n) => retireStrand n p
  | some (.front k) => retireFront k p
  | none => p

/-- A strand is not ready, for a reason for which its slot may exchange it (06 R160). -/
def waitStrand (n : Nat) : Act := modStrand n (fun x => { x with waits := true })

/-- The word is not ready, for a reason of 06 R160: it has issued for no lane and is tried again (01 R13). -/
def stall : Act := fun p =>
  match p.now.cur.who with
  | some (.strand n) => waitStrand n p
  | _ => p

/-- The word is not ready for another reason, for which the slot does not exchange the strand: it has issued
for no lane and is tried again. -/
def hold : Act := id

end Sys2Proof.Machine
end

