-- ==== Sys2Proof/Machine/Numbers.lean ====
section
/-! DEFINITION. The floating formats and their exact arithmetic (01 R24-R30, 03 R84-R89): a value is
an exact dyadic number, an operation computes the exact result, and one rounding chooses the value of
the destination. Functions whose exact result is no dyadic number are computed to far more bits than a
destination has, with a mark that the rest is not zero. -/

namespace Sys2Proof.Machine

open Sys2Proof

/-- A floating format: exponent bits, fraction bits, and whether it has the range of e4m3, with no
infinity (01 R24). -/
structure Fmt where
  e : Nat
  f : Nat
  e4m3 : Bool := false
  deriving DecidableEq, Repr

def Fmt.f64 : Fmt := { e := 11, f := 52 }
def Fmt.f32 : Fmt := { e := 8, f := 23 }
def Fmt.f16 : Fmt := { e := 5, f := 10 }
def Fmt.bf16 : Fmt := { e := 8, f := 7 }
def Fmt.e5m2 : Fmt := { e := 5, f := 2 }
def Fmt.fp8 : Fmt := { e := 4, f := 3, e4m3 := true }

/-- The exponent bias (01 R24). -/
def Fmt.bias (t : Fmt) : Nat := 2 ^ (t.e - 1) - 1
/-- Bits of a pattern without the sign. -/
def Fmt.mag (t : Fmt) : Nat := t.e + t.f
/-- Bits of a pattern. -/
def Fmt.width (t : Fmt) : Nat := t.e + t.f + 1
/-- The exponent of the smallest normal value (01 R24). -/
def Fmt.emin (t : Fmt) : Int := 1 - (t.bias : Int)
/-- The largest finite magnitude as a pattern (01 R24). -/
def Fmt.maxPat (t : Fmt) : Nat := if t.e4m3 then 2 ^ t.mag - 2 else (2 ^ t.e - 1) * 2 ^ t.f - 1
/-- The pattern of infinity without the sign; e4m3 has none and uses its NaN (01 R8 R24). -/
def Fmt.infPat (t : Fmt) : Nat := if t.e4m3 then 2 ^ t.mag - 1 else (2 ^ t.e - 1) * 2 ^ t.f
/-- The positive canonical NaN (01 R25). -/
def Fmt.nanPat (t : Fmt) : Nat :=
  if t.e4m3 then 2 ^ t.mag - 1
  else (2 ^ t.e - 1) * 2 ^ t.f + 2 ^ (t.f - 1)

/-- A floating value: NaN, an infinity, or the finite number m x 2^x with its sign. -/
inductive FV where
  | nan
  | inf (neg : Bool)
  | fin (neg : Bool) (m : Nat) (x : Int)
  deriving DecidableEq, Repr

/-- The value of a pattern (01 R24). -/
def FV.of (t : Fmt) (w : Nat) : FV :=
  let neg := bitOf w t.mag
  let e := w / 2 ^ t.f % 2 ^ t.e
  let f := w % 2 ^ t.f
  if e = 2 ^ t.e - 1 && (!t.e4m3 || f = 2 ^ t.f - 1) then
    if t.e4m3 || f != 0 then .nan else .inf neg
  else if e = 0 then .fin neg f (t.emin - t.f)
  else .fin neg (2 ^ t.f + f) ((e : Int) - t.bias - t.f)

/-- The sign bit of a pattern, in place. -/
def Fmt.sign (t : Fmt) (neg : Bool) : Nat := if neg then 2 ^ t.mag else 0

/-- A zero or subnormal pattern that is not zero (01 R24). -/
def Fmt.subnormal (t : Fmt) (w : Nat) : Bool :=
  w / 2 ^ t.f % 2 ^ t.e == 0 && w % 2 ^ t.f != 0

/-- The flush of a subnormal input to zero of its sign (01 R29). -/
def Fmt.flushIn (t : Fmt) (fzi : Bool) (w : Nat) : Nat :=
  if fzi && t.subnormal w then t.sign (bitOf w t.mag) else w

/-- The sign of a value. -/
def FV.neg : FV → Bool
  | .nan => false
  | .inf n => n
  | .fin n _ _ => n

/-- Not finite: an infinity or NaN (01 R33). -/
def FV.nonfinite : FV → Bool
  | .fin _ _ _ => false
  | _ => true

/-- A zero. -/
def FV.isZero : FV → Bool
  | .fin _ 0 _ => true
  | _ => false

/-- The value with its sign inverted. -/
def FV.negate : FV → FV
  | .nan => .nan
  | .inf n => .inf (!n)
  | .fin n m x => .fin (!n) m x

/-- Rounding modes (01 R26). -/
inductive RMode where
  | rne | rtz | rup | rdn | rna
  deriving DecidableEq, Repr

/-- The mode of a rounding code; other codes do not reach here (01 R19 R26, 02 R52). -/
def RMode.ofCode (c : Nat) : RMode :=
  if c = 2 then .rtz else if c = 3 then .rup else if c = 4 then .rdn
  else if c = 5 then .rna else .rne

/-- Round up from the lower neighbour: `odd` is its last bit, `r` of `d` the part above it, `more`
that a further part lies above (01 R26). -/
def RMode.up (mode : RMode) (neg odd : Bool) (r d : Nat) (more : Bool) : Bool :=
  let inexact := r != 0 || more
  match mode with
  | .rne => d < 2 * r || (2 * r = d && (more || odd))
  | .rtz => false
  | .rup => inexact && !neg
  | .rdn => inexact && neg
  | .rna => d ≤ 2 * r

/-- The outcome of a rounding: the pattern, overflow and underflow (01 R26 R27 R30). -/
structure Rounded where
  bits : Nat
  ovf : Bool := false
  unf : Bool := false
  deriving DecidableEq, Repr

/-- floor(log2) of m x 2^x for m > 0. -/
def expOf (m : Nat) (x : Int) : Int := x + Nat.log2 m

/-- Round the exact magnitude (m + d) x 2^x with the sign `neg`, where d lies strictly between 0 and 1
when `more` is set and is 0 otherwise, to the format; m > 0 (01 R26 R27 R30). The boundary point
stands for an overflow. -/
def roundMag (t : Fmt) (mode : RMode) (neg : Bool) (m : Nat) (x : Int) (more : Bool) : Rounded :=
  let tiny := expOf m x < t.emin
  let q := max (expOf m x) t.emin - t.f
  let lo := if q ≤ x then m * 2 ^ (x - q).toNat else m / 2 ^ (q - x).toNat
  let r := if q ≤ x then 0 else m % 2 ^ (q - x).toNat
  let d := if q ≤ x then 2 else 2 ^ (q - x).toNat
  let inexact := r != 0 || more
  let up := mode.up neg (lo % 2 == 1) r d more
  let pat := (q - (t.emin - t.f)).toNat * 2 ^ t.f + (lo + if up then 1 else 0)
  let truncate := match mode with
    | .rtz => true
    | .rup => neg
    | .rdn => !neg
    | _ => false
  if t.maxPat < pat then
    if truncate then { bits := t.maxPat + t.sign neg }
    else { bits := if t.e4m3 then t.nanPat else t.infPat + t.sign neg, ovf := true }
  else { bits := pat + t.sign neg, unf := tiny && inexact }

/-- Round an exact finite value; a zero keeps its sign (01 R26). -/
def roundFin (t : Fmt) (mode : RMode) (neg : Bool) (m : Nat) (x : Int) (more : Bool) : Rounded :=
  if m = 0 then { bits := t.sign neg } else roundMag t mode neg m x more

/-- A finite exact magnitude is nonzero and below the smallest normal value (01 R29 R30). -/
def isTiny (t : Fmt) (m : Nat) (x : Int) : Bool := m != 0 && expOf m x < t.emin

/-! ### Exact sums and products -/

/-- A finite value as an integer in units of 2^x0, for x0 at most its exponent. -/
def toUnits (neg : Bool) (m : Nat) (x x0 : Int) : Int :=
  let v : Int := (m * 2 ^ (x - x0).toNat : Nat)
  if neg then -v else v

/-- An exact sum: NaN, invalid when both infinities meet, an infinity, or a finite number in units
with the sign of a zero (00 R8 exact_sum). -/
structure ExactSum where
  val : FV
  invalid : Bool := false
  deriving DecidableEq, Repr

/-- The lowest exponent among the finite terms. -/
def minExp : List FV → Int → Int
  | [], x => x
  | .fin _ _ y :: r, x => minExp r (min x y)
  | _ :: r, x => minExp r x

/-- The sum of the finite terms in units of 2^x0. -/
def sumUnits (x0 : Int) : List FV → Int
  | [] => 0
  | .fin n m y :: r => toUnits n m y x0 + sumUnits x0 r
  | _ :: r => sumUnits x0 r

/-- exact_sum (00 R8). An exact zero is -0 when every term is -0, or when the mode is RDN and the
terms are not all +0. -/
def exactSum (mode : RMode) (l : List FV) : ExactSum :=
  if l.any (fun v => v == .nan) then { val := .nan }
  else
    let pos := l.any (fun v => v == .inf false)
    let neg := l.any (fun v => v == .inf true)
    if pos && neg then { val := .nan, invalid := true }
    else if pos then { val := .inf false }
    else if neg then { val := .inf true }
    else
      let x0 := minExp l 4096
      let u := sumUnits x0 l
      if u = 0 then
        let allNeg := l.all (fun v => v.isZero && v.neg) && !l.isEmpty
        let allPos := l.all (fun v => v.isZero && !v.neg)
        { val := .fin (allNeg || (mode == .rdn && !allPos)) 0 0 }
      else { val := .fin (u < 0) u.natAbs x0 }

/-- The exact product; 0 x infinity is invalid (01 R33). -/
def fvMul (a b : FV) : ExactSum :=
  match a, b with
  | .nan, _ => { val := .nan }
  | _, .nan => { val := .nan }
  | .inf n, .inf k => { val := .inf (n != k) }
  | .inf n, .fin k m _ => if m = 0 then { val := .nan, invalid := true } else { val := .inf (n != k) }
  | .fin n m _, .inf k => if m = 0 then { val := .nan, invalid := true } else { val := .inf (n != k) }
  | .fin n m x, .fin k l y => { val := .fin (n != k) (m * l) (x + y) }

/-! ### Conditions -/

/-- The conditions a lane raises, and the marks of underflow and saturation (01 R33 R30 R32). -/
structure Cond where
  inv : Bool := false
  ovf : Bool := false
  dz : Bool := false
  nfi : Bool := false
  rng : Bool := false
  unf : Bool := false
  sat : Bool := false
  deriving DecidableEq, Repr

/-- The conditions of two elements or steps, merged (01 R23). -/
def Cond.merge (a b : Cond) : Cond :=
  { inv := a.inv || b.inv, ovf := a.ovf || b.ovf, dz := a.dz || b.dz, nfi := a.nfi || b.nfi,
    rng := a.rng || b.rng, unf := a.unf || b.unf, sat := a.sat || b.sat }

/-- A pattern together with the conditions of its computation. -/
structure FRes where
  bits : Nat
  cond : Cond := {}
  deriving DecidableEq, Repr

/-- How a lane rounds: its mode and the flush of results (01 R28 R29). -/
structure FMode where
  mode : RMode := .rne
  fzi : Bool := false
  fzo : Bool := false
  deriving DecidableEq, Repr

/-- The result of an exact finite value: flushed when FZO says so, otherwise rounded once
(01 R29, 03 R84). -/
def finish (t : Fmt) (md : FMode) (neg : Bool) (m : Nat) (x : Int) (more : Bool) : FRes :=
  if md.fzo && isTiny t m x then { bits := t.sign neg, cond := { unf := true } }
  else
    let r := roundFin t md.mode neg m x more
    { bits := r.bits, cond := { ovf := r.ovf, unf := r.unf } }

/-- The result of an exact sum or product. -/
def finishSum (t : Fmt) (md : FMode) (s : ExactSum) : FRes :=
  match s.val with
  | .nan => { bits := t.nanPat, cond := { inv := s.invalid } }
  | .inf n => { bits := t.infPat + (if t.e4m3 then 0 else t.sign n) }
  | .fin n m x => finish t md n m x false

/-- Non-finite input is raised when a source read is an infinity or NaN (01 R33). -/
def withInputs (l : List FV) (r : FRes) : FRes :=
  { r with cond := { r.cond with nfi := r.cond.nfi || l.any FV.nonfinite } }

/-! ### The operations of 03 R85 -/

def fAdd (t : Fmt) (md : FMode) (a b : FV) : FRes :=
  withInputs [a, b] (finishSum t md (exactSum md.mode [a, b]))

def fSub (t : Fmt) (md : FMode) (a b : FV) : FRes :=
  withInputs [a, b] (finishSum t md (exactSum md.mode [a, b.negate]))

def fMul (t : Fmt) (md : FMode) (a b : FV) : FRes :=
  withInputs [a, b] (finishSum t md (fvMul a b))

/-- a x b + c, rounded once (03 R85). A NaN product of a NaN source is no invalid operation. -/
def fFma (t : Fmt) (md : FMode) (a b c : FV) : FRes :=
  let p := fvMul a b
  let s := exactSum md.mode [p.val, c]
  withInputs [a, b, c] (finishSum t md { s with invalid := s.invalid || (p.invalid && c != .nan) })

/-- The order of values with -0 below +0: a is below b (03 R85); neither is NaN. -/
def fvBelow (a b : FV) : Bool :=
  match a, b with
  | .inf n, .inf k => n && !k
  | .inf n, _ => n
  | _, .inf k => !k
  | .fin n m x, .fin k l y =>
    let x0 := min x y
    let u := toUnits n m x x0
    let v := toUnits k l y x0
    u < v || (u = v && n && !k)
  | _, _ => false

/-- IEEE 754 less-than: -0 equals +0, and NaN is unordered (03 R79). -/
def fvLess (a b : FV) : Bool :=
  match a, b with
  | .nan, _ => false
  | _, .nan => false
  | .inf n, .inf k => n && !k
  | .inf n, .fin _ _ _ => n
  | .fin _ _ _, .inf k => !k
  | .fin n m x, .fin k l y => let x0 := min x y; toUnits n m x x0 < toUnits k l y x0

/-- IEEE 754 equality (03 R79). -/
def fvEq (a b : FV) : Bool :=
  a != .nan && b != .nan && !fvLess a b && !fvLess b a

/-- The smaller (or larger) operand as a pattern, one NaN yielding the other operand or, in the m
forms, the canonical NaN (03 R85). The operands are flushed patterns. -/
def fMinMax (t : Fmt) (larger strict : Bool) (wa wb : Nat) : FRes :=
  let a := FV.of t wa
  let b := FV.of t wb
  withInputs [a, b] {
    bits :=
      if a == .nan && b == .nan then t.nanPat
      else if a == .nan then (if strict then t.nanPat else wb)
      else if b == .nan then (if strict then t.nanPat else wa)
      else if larger then (if fvBelow a b then wb else wa)
      else (if fvBelow b a then wb else wa) }

/-- A min or max in the lane's flush mode: a subnormal result of unflushed inputs is flushed when FZO
says so (01 R29, 03 R84). -/
def fMinMaxM (t : Fmt) (md : FMode) (larger strict : Bool) (wa wb : Nat) : FRes :=
  let r := fMinMax t larger strict wa wb
  if md.fzo && t.subnormal r.bits then
    { bits := t.sign (bitOf r.bits t.mag), cond := { r.cond with unf := true } }
  else r

/-- The quotient of two magnitudes to `k` bits and whether a remainder is left. -/
def quot (m l k : Nat) : Nat × Bool := (m * 2 ^ k / l, m * 2 ^ k % l != 0)

/-- a / b (03 R85). -/
def fDiv (t : Fmt) (md : FMode) (a b : FV) : FRes :=
  withInputs [a, b] (
    match a, b with
    | .nan, _ => { bits := t.nanPat }
    | _, .nan => { bits := t.nanPat }
    | .inf _, .inf _ => { bits := t.nanPat, cond := { inv := true } }
    | .inf n, .fin k _ _ => { bits := t.infPat + t.sign (n != k) }
    | .fin n _ _, .inf k => { bits := t.sign (n != k) }
    | .fin n m x, .fin k l y =>
      if l = 0 then
        if m = 0 then { bits := t.nanPat, cond := { inv := true } }
        else { bits := t.infPat + t.sign (n != k), cond := { dz := true } }
      else if m = 0 then { bits := t.sign (n != k) }
      else
        let s := Nat.log2 l + t.f + 4
        let q := quot m l s
        finish t md (n != k) q.1 (x - y - s) q.2)

/-- The integer square root, one bit at a time from bit `n - 1` down. -/
def isqrtBits (v : Nat) : Nat → Nat → Nat
  | 0, r => r
  | n + 1, r =>
    let c := r + 2 ^ n
    if c * c ≤ v then isqrtBits v n c else isqrtBits v n r

/-- The integer square root. -/
def isqrt (v : Nat) : Nat := isqrtBits v (Nat.log2 v / 2 + 1) 0

/-- The square root (03 R85). -/
def fSqrt (t : Fmt) (md : FMode) (a : FV) : FRes :=
  withInputs [a] (
    match a with
    | .nan => { bits := t.nanPat }
    | .inf n => if n then { bits := t.nanPat, cond := { inv := true } } else { bits := t.infPat }
    | .fin n m x =>
      if m = 0 then { bits := t.sign n }
      else if n then { bits := t.nanPat, cond := { inv := true } }
      else
        -- scale to an even exponent with enough bits
        let k := 2 * (t.f + 4) + (if x % 2 = 0 then 0 else 1)
        let v := m * 2 ^ k
        let r := isqrt v
        finish t md false r ((x - k) / 2) (r * r != v))

/-- 1 / a (03 R85). -/
def fRcp (t : Fmt) (md : FMode) (a : FV) : FRes :=
  withInputs [a] (
    match a with
    | .nan => { bits := t.nanPat }
    | .inf n => { bits := t.sign n }
    | .fin n m x =>
      if m = 0 then { bits := t.infPat + t.sign n, cond := { dz := true } }
      else
        let s := Nat.log2 m + t.f + 4
        let q := quot 1 m s
        finish t md n q.1 (-x - s) q.2)

/-- 1 / sqrt a (03 R85). -/
def fRsqrt (t : Fmt) (md : FMode) (a : FV) : FRes :=
  withInputs [a] (
    match a with
    | .nan => { bits := t.nanPat }
    | .inf n => if n then { bits := t.nanPat, cond := { inv := true } } else { bits := 0 }
    | .fin n m x =>
      if m = 0 then { bits := t.infPat + t.sign n, cond := { dz := true } }
      else if n then { bits := t.nanPat, cond := { inv := true } }
      else
        -- an even exponent y with m x 2^x = l x 2^y
        let l := if x % 2 = 0 then m else 2 * m
        let y := if x % 2 = 0 then x else x - 1
        let k := Nat.log2 l + t.f + 4
        let r := isqrt (2 ^ (2 * k) / l)
        finish t md false r (-(k : Int) - y / 2) (r * r * l != 2 ^ (2 * k)))

/-- The fractional bits of the fixed-point computations. -/
def fixBits : Nat := 320

/-- ln 2 in fixed point, rounded down. -/
def fixLn2 : Nat := 0xb17217f7d1cf79abc9e3b39803f2f6af40f343267298b62d8a0d175b8baafa2be7b876206debac98

/-- The terms t^n / n! of the exponential series in fixed point, `fuel` of them from the n-th. -/
def expTerms (t : Nat) : Nat → Nat → Nat → Nat
  | 0, _, _ => 0
  | fuel + 1, n, term => term + expTerms t fuel (n + 1) (term * t / 2 ^ fixBits / n)

/-- exp t in fixed point for t below 1. -/
def fixExp (t : Nat) : Nat := expTerms t 90 1 (2 ^ fixBits)

/-- A fixed-point number squared `n` times. -/
def fixSquares : Nat → Nat → Nat
  | 0, v => v
  | n + 1, v => fixSquares n (v * v / 2 ^ fixBits)

/-- 2^a (03 R85): the integral part goes to the exponent, the fraction through the series. -/
def fExp2 (t : Fmt) (md : FMode) (a : FV) : FRes :=
  withInputs [a] (
    match a with
    | .nan => { bits := t.nanPat }
    | .inf n => if n then { bits := 0 } else { bits := t.infPat }
    | .fin n m x =>
      if m = 0 then finish t md false 1 0 false
      else if 16 < expOf m x then finish t md false 1 (if n then -100000 else 100000) true
      else
        -- a in units of 2^-fixBits, rounded towards minus infinity
        let v := toUnits n m x (min x 0)
        let d : Nat := (-(min x 0)).toNat
        let ip := v / (2 ^ d : Nat)
        let fr := (v % (2 ^ d : Nat)).toNat
        if fr = 0 then finish t md false 1 ip false
        else finish t md false (fixExp (fr * fixLn2 / 2 ^ d)) (ip - fixBits) true)

/-- The binary digits of log2 z for z in [1, 2) in fixed point: `n` digits. -/
def logDigits : Nat → Nat → Nat → Nat
  | 0, _, acc => acc
  | n + 1, z, acc =>
    let w := z * z / 2 ^ fixBits
    if 2 ^ (fixBits + 1) ≤ w then logDigits n (w / 2) (2 * acc + 1) else logDigits n w (2 * acc)

/-- log2 a (03 R85). The exact zero of log2 1 is +0 (log 52). -/
def fLog2 (t : Fmt) (md : FMode) (a : FV) : FRes :=
  withInputs [a] (
    match a with
    | .nan => { bits := t.nanPat }
    | .inf n => if n then { bits := t.nanPat, cond := { inv := true } } else { bits := t.infPat }
    | .fin n m x =>
      if m = 0 then { bits := t.infPat + t.sign true, cond := { dz := true } }
      else if n then { bits := t.nanPat, cond := { inv := true } }
      else
        let e := expOf m x
        let z := m * 2 ^ (fixBits - Nat.log2 m)
        if z = 2 ^ fixBits then
          (if e = 0 then { bits := 0 } else finish t md (e < 0) e.natAbs 0 false)
        else
          let l := logDigits 160 z 0
          let v : Int := e * (2 ^ 160 : Nat) + l
          if 0 ≤ v then finish t md false v.natAbs (-160) true
          else finish t md true (v.natAbs - 1) (-160) true)

/-- tanh a (03 R85). A zero keeps its sign (log 52). For magnitudes below 2^-60 the result lies just below a; from 32 upward it lies
just below 1. -/
def fTanh (t : Fmt) (md : FMode) (a : FV) : FRes :=
  withInputs [a] (
    match a with
    | .nan => { bits := t.nanPat }
    | .inf n => finish t md n 1 0 false
    | .fin n m x =>
      if m = 0 then { bits := t.sign n }
      else if expOf m x < -60 then finish t md n (m * 2 ^ 60 - 1) (x - 60) true
      else if 5 ≤ expOf m x then finish t md n (2 ^ 60 - 1) (-60) true
      else
        -- exp (2 |a|) through exp (2 |a| / 128) squared seven times
        let u := m * 2 ^ (fixBits + x - 6).toNat
        let e := fixSquares 7 (fixExp u)
        let one := 2 ^ fixBits
        finish t md n ((e - one) * 2 ^ 160 / (e + one)) (-160) true)

/-- The integral value of a finite magnitude under a mode (03 R85). -/
def roundInt (mode : RMode) (neg : Bool) (m : Nat) (x : Int) : Nat :=
  if 0 ≤ x then m * 2 ^ x.toNat
  else
    let d := 2 ^ (-x).toNat
    let lo := m / d
    if mode.up neg (lo % 2 == 1) (m % d) d false then lo + 1 else lo

/-- floor, ceil, trunc and rint: an integral value of the format, with the sign of a (03 R85). -/
def fIntegral (t : Fmt) (mode : RMode) (w : Nat) : FRes :=
  let a := FV.of t w
  withInputs [a] (
    match a with
    | .nan => { bits := t.nanPat }
    | .inf n => { bits := t.infPat + t.sign n }
    | .fin n m x => { bits := (roundFin t .rtz n (roundInt mode n m x) 0 false).bits })

/-- a x 2^k (03 R85). A zero keeps its sign (log 52). -/
def fLdexp (t : Fmt) (md : FMode) (a : FV) (k : Int) : FRes :=
  withInputs [a] (
    match a with
    | .nan => { bits := t.nanPat }
    | .inf n => { bits := t.infPat + t.sign n }
    | .fin n m x =>
      -- exponents far outside the range behave as its ends
      finish t md n m (x + max (-4096) (min 4096 k)) false)

/-- The class mask of a pattern (03 R87). -/
def fClass (t : Fmt) (w : Nat) : Nat :=
  let neg := bitOf w t.mag
  match FV.of t w with
  | .nan => 2 ^ 8
  | .inf _ => if neg then 1 else 2 ^ 7
  | .fin _ m _ =>
    if m = 0 then (if neg then 2 ^ 3 else 2 ^ 4)
    else if t.subnormal w then (if neg then 2 ^ 2 else 2 ^ 5)
    else (if neg then 2 else 2 ^ 6)

end Sys2Proof.Machine
end

