-- ==== Sys2Proof/Machine/Flags.lean ====
section
/-! DEFINITION. Conditions, enables and sticky flags (01 R19 R33-R35), the overflow table (01 R31) and
the narrowing of an exact value to a type (01 R32), with the numbered types of 01 R22-R24. -/

namespace Sys2Proof.Machine

open Sys2Proof

/-! ### Conditions and sr.fpc -/

/-- A bit of a mask. -/
def flagBit (b : Bool) (i : Nat) : Nat := if b then 2 ^ i else 0

/-- The detail mask of a lane's conditions (01 R33). -/
def Cond.bits (c : Cond) : Nat :=
  flagBit c.inv 0 + flagBit c.ovf 1 + flagBit c.dz 2 + flagBit c.nfi 3 + flagBit c.rng 4

/-- enables(l): the trap enables of a lane's sr.fpc (01 R19 R35). -/
def enables (fpc : Word) : Nat := bitsOf fpc.toNat 11 8

/-- The conditions of a lane that trap: the enabled ones and integer range (01 R35). -/
def Cond.raised (c : Cond) (fpc : Word) : Nat := c.bits &&& (enables fpc ||| 16)

/-- sr.fpc with the sticky flags of the lane's conditions set; non-finite input has none (01 R34). -/
def Cond.sticky (c : Cond) (fpc : Word) : Word :=
  fpc ||| BitVec.ofNat 32
    (flagBit c.inv 16 + flagBit c.ovf 17 + flagBit c.dz 18 + flagBit c.unf 19 + flagBit c.sat 20)

/-- The rounding mode of a lane: the prefix code if it is nonzero, else sr.fpc.RM (01 R28), with the
flush controls (01 R29). -/
def laneMode (rs : Nat) (fpc : Word) : FMode :=
  { mode := RMode.ofCode (if rs != 0 then rs else bitsOf fpc.toNat 2 0),
    fzi := bitOf fpc.toNat 3, fzo := bitOf fpc.toNat 4 }

/-- A value for sr.fpc is refused when RM is not 001-100 or a reserved bit is set (01 R19). -/
def fpcLegal (w : Word) : Bool :=
  let rm := bitsOf w.toNat 2 0
  1 ≤ rm && rm ≤ 4 && (w &&& ~~~ 0x001F0F1F#32) == 0

/-! ### The overflow table -/

/-- Entry `i` of an overflow table (01 R31). -/
def ovtEntry (ovt : BitVec 16) (i : Nat) : Nat := bitsOf ovt.toNat (2 * i + 1) (2 * i)

/-- An overflow table that `lovt` accepts: no entry 11b, and no 01b for e4m3 (01 R31). -/
def ovtLegal (ovt : BitVec 16) : Bool :=
  (List.range 8).all (fun i => ovtEntry ovt i != 3) && ovtEntry ovt 2 != 1

/-- The overflow table in force for a skein: sr.ctl.OVT (01 R20). -/
def ctlOvt (ctl : DWord) : BitVec 16 := BitVec.ofNat 16 (ctl.toNat % 2 ^ 16)

/-! ### Types -/

/-- The scalar types of a value by code (01 R22 R24): signed or unsigned integers and floats. -/
inductive NType where
  | int (signed : Bool) (w : Nat)
  | flt (t : Fmt)
  deriving DecidableEq, Repr

/-- The scalar type of a code 0-13 (01 R22 R24). -/
def NType.ofCode (c : Nat) : NType :=
  match c with
  | 0 => .int true 8
  | 1 => .int false 8
  | 2 => .int true 16
  | 3 => .int false 16
  | 4 => .int true 32
  | 5 => .int false 32
  | 6 => .int true 64
  | 7 => .int false 64
  | 8 => .flt .f16
  | 9 => .flt .bf16
  | 10 => .flt .f32
  | 11 => .flt .f64
  | 12 => .flt .fp8
  | _ => .flt .e5m2

/-- The overflow-table entry of a type (01 R31); f64 has none and never overflows in a conversion. -/
def NType.entry (t : NType) (ovt : BitVec 16) : Nat :=
  match t with
  | .int _ w => if w = 8 then ovtEntry ovt 5 else if w = 16 then ovtEntry ovt 6 else ovtEntry ovt 7
  | .flt f =>
    if f.e4m3 then ovtEntry ovt 2
    else if f.e = 8 then (if f.f = 23 then ovtEntry ovt 4 else ovtEntry ovt 1)
    else if f.e = 5 then (if f.f = 10 then ovtEntry ovt 0 else ovtEntry ovt 3)
    else 1

/-! ### narrow (01 R32) -/

/-- narrow to a floating format: the entry chooses the result of an overflow. -/
def narrowFin (t : Fmt) (entry : Nat) (mode : RMode) (neg : Bool) (m : Nat) (x : Int) (more : Bool) :
    FRes :=
  let r := roundFin t mode neg m x more
  if r.ovf then
    if entry = 0 then { bits := t.maxPat + t.sign neg, cond := { sat := true } }
    else if entry = 2 then { bits := t.nanPat, cond := { inv := true } }
    else { bits := r.bits, cond := { ovf := true } }
  else { bits := r.bits, cond := { unf := r.unf } }

/-- The value of an infinite source in a floating format: infinity, or NaN for e4m3. -/
def infOf (t : Fmt) (neg : Bool) : Nat := if t.e4m3 then t.nanPat else t.infPat + t.sign neg

/-- The least and the greatest value of an integer type. -/
def intRange (signed : Bool) (w : Nat) : Int × Int :=
  if signed then (-(2 ^ (w - 1) : Nat), (2 ^ (w - 1) : Nat) - 1) else (0, (2 ^ w : Nat) - 1)

/-- narrow to an integer type, of a value that is rounded to an integer first. Under entry 10b an
out-of-range source and a NaN raise integer range. -/
def narrowInt (signed : Bool) (w entry : Nat) (mode : RMode) (v : FV) : Int × Cond :=
  let r := intRange signed w
  let out := fun (neg : Bool) => (if neg then r.1 else r.2)
  match v with
  | .nan =>
    if entry = 2 then (0, { rng := true })
    else (if entry = 1 then r.1 else 0, { inv := true })
  | .inf neg => (out neg, if entry = 2 then { rng := true } else { sat := true })
  | .fin neg m x =>
    let i := roundInt mode neg m x
    let z : Int := if neg then -i else i
    if z < r.1 || r.2 < z then
      (out (z < 0), if entry = 2 then { rng := true } else { sat := true })
    else (z, {})

/-- The exact value of a source of a type. -/
def NType.value (t : NType) (w : Nat) : FV :=
  match t with
  | .int s n =>
    let z : Int := if s then sextN w n else (w % 2 ^ n : Nat)
    .fin (z < 0) z.natAbs 0
  | .flt f => FV.of f (w % 2 ^ f.width)

/-- The flush controls apply to a format in `cvt`: f16, bf16, f32 and f64 (01 R29). -/
def Fmt.flushes (t : Fmt) : Bool := !(t == .fp8 || t == .e5m2)

/-- The source pattern after the flush of inputs. -/
def NType.flushed (t : NType) (md : FMode) (w : Nat) : Nat :=
  match t with
  | .int _ _ => w
  | .flt f => if f.flushes then f.flushIn md.fzi (w % 2 ^ f.width) else w

/-- The conversion of one element (03 R89): the pattern in the image of 01 R12, of 32 or 64 bits. -/
def convert (ovt : BitVec 16) (md : FMode) (src dst : NType) (w : Nat) : FRes :=
  let v := src.value (src.flushed md w)
  let nfi := match src with
    | .flt _ => v.nonfinite
    | .int _ _ => false
  let r : FRes := match dst with
    | .int s n =>
      let o := narrowInt s n (dst.entry ovt) md.mode v
      { bits := zextI o.1 (if n < 64 then 32 else 64), cond := o.2 }
    | .flt t =>
      match v with
      | .nan => { bits := t.nanPat }
      | .inf neg => { bits := infOf t neg }
      | .fin neg m x =>
        if md.fzo && t.flushes && isTiny t m x then
          { bits := t.sign neg, cond := { unf := true } }
        else narrowFin t (dst.entry ovt) md.mode neg m x false
  { r with cond := { r.cond with nfi := nfi } }

end Sys2Proof.Machine
end

