-- ==== Sys2Proof/Machine/Operands.lean ====
section
/-! DEFINITION. The operands of a fibre word: registers, pairs and groups with the checks of 01 R11,
prefixed execution in a lane (02 R53), the wait for outstanding loads (03 R73), poison that a source
meets (05 R149), and the one way in which a word of many lanes retires or traps (04 R119 R120). -/

namespace Sys2Proof.Machine

open Sys2Proof

/-! ### Registers of a fibre -/

/-- v register `r`. -/
def Fibre.reg (f : Fibre) (r : Nat) : Word := tgetD f.v r 0

/-- The pair vr:vr+1, bits [31:0] in the even register (00 R4). -/
def Fibre.pair (f : Fibre) (r : Nat) : DWord := f.reg (r + 1) ++ f.reg r

/-- The number that `n` registers hold, the lowest first (01 R11). -/
def Fibre.val (f : Fibre) (r : Nat) : Nat → Nat
  | 0 => 0
  | n + 1 => (f.reg r).toNat + 2 ^ 32 * f.val (r + 1) n

/-- A load still has to write register `r`. -/
def Load.covers (l : Load) (r : Nat) : Bool :=
  !l.abandoned && l.dst ≤ r && r < l.dst + l.n && !l.killed.contains r

/-- A later word has written register `r`: the loads that still had to write it no longer do
(03 R73). -/
def Load.kill (r : Nat) (l : Load) : Load :=
  if l.covers r then { l with killed := r :: l.killed } else l

/-- v register `r` written. -/
def Fibre.set (f : Fibre) (r : Nat) (w : Word) : Fibre :=
  { f with
    v := tputD f.v r 0 w
    loads := f.loads.map (Load.kill r) }

/-- A pair written. -/
def Fibre.setPair (f : Fibre) (r : Nat) (w : DWord) : Fibre :=
  (f.set r (w.setWidth 32)).set (r + 1) ((w >>> 32).setWidth 32)

/-- `n` registers written with a number, the lowest first. -/
def Fibre.setVal (f : Fibre) (r : Nat) : Nat → Nat → Fibre
  | 0, _ => f
  | n + 1, x => (f.set r (BitVec.ofNat 32 x)).setVal (r + 1) n (x / 2 ^ 32)

/-- Predicate `i`; p0 reads 1 (01 R10). -/
def Fibre.pred (f : Fibre) (i : Nat) : Bool := i == 0 || f.p.getLsbD i

/-- Predicate `i` written; a write to p0 is ignored (01 R10). -/
def Fibre.setPred (f : Fibre) (i : Nat) (b : Bool) : Fibre :=
  if i = 0 then f
  else { f with p := (f.p &&& ~~~ BitVec.ofNat 8 (2 ^ i)) ||| BitVec.ofNat 8 (if b then 2 ^ i else 0) }

/-! ### Operands -/

/-- A register operand: its first register, the number of registers and its alignment (01 R11). -/
structure Opd where
  r : Nat
  n : Nat
  al : Nat
  deriving DecidableEq, Repr

/-- One register. -/
def one {w : Nat} (r : BitVec w) : Opd := { r := r.toNat, n := 1, al := 1 }
/-- A pair. -/
def two {w : Nat} (r : BitVec w) : Opd := { r := r.toNat, n := 2, al := 2 }
/-- A group of four. -/
def four {w : Nat} (r : BitVec w) : Opd := { r := r.toNat, n := 4, al := 4 }

/-- The registers of a word: what it reads, what it writes, and the predicates it writes. -/
structure Regs where
  src : List Opd := []
  dst : List Opd := []
  pdst : List Nat := []
  deriving DecidableEq, Repr

/-- The operands of a word lie below G and are aligned; a misaligned one beyond G is ILLEGAL_FIELD.
Between the two comes the privilege check (01 R11, 02 R57). -/
def Regs.check (rg : Regs) (g : Nat) (denied : Bool) : Option Cause :=
  let l := rg.src ++ rg.dst
  if l.any (fun o => g < o.r + o.n) then some .illegalField
  else if denied then some .privileged
  else if l.any (fun o => o.r % o.al != 0) then some .operandAlign
  else none

/-! ### Lanes -/

/-- What a prefixed word does in a lane (02 R53). -/
inductive LaneAct where
  | active | zero | merge
  deriving DecidableEq, Repr

/-- A fibre of the issuing strand with its skein and what the word does in it. -/
structure Lane where
  k : Nat
  f : Fibre
  x : Skein
  act : LaneAct
  deriving DecidableEq, Repr

/-- The lane takes part. -/
def Lane.on (l : Lane) : Bool := l.act == .active

/-- The mask bit of the lane. -/
def Lane.bit (l : Lane) : DWord := laneBit l.f.lane.toNat

/-- The prefix of the word being executed. -/
def State.prefixWord (s : State) : Option Prefix := s.cur.pfx.map (fun w => Prefix.ofWord w.toNat)

/-- The rs field of the prefix, 0 without one. -/
def State.rs (s : State) : Nat := (s.prefixWord.map (fun p => p.rs.toNat)).getD 0

/-- The byte offset of the prefix, 0 without one (02 R49). -/
def State.prefixOffset (s : State) : Int := (s.prefixWord.map (fun p => p.offset)).getD 0

/-- The fourth operand of `fma`, `mad` and `bfi`: vd without a prefix, else vc (03 R74). -/
def State.fourth (s : State) (d : Nat) : BitVec 7 :=
  BitVec.ofNat 7 ((s.prefixWord.map (fun p => p.vc)).getD d)

/-- What the word does in a lane (02 R53). -/
def laneAct (p : Option Prefix) (f : Fibre) : LaneAct :=
  match p with
  | none => .active
  | some x =>
    if (if x.p = 0 then !x.neg else f.pred x.p.toNat != x.neg) then .active
    else if x.zero then .zero else .merge

/-- The lanes of a strand, in ascending home lane. -/
def State.lanes (s : State) (x : Strand) : List Lane :=
  (s.strandFibres x).filterMap (fun e => (tget s.skeins e.2.sk).map (fun k =>
    { k := e.1, f := e.2, x := k, act := laneAct s.prefixWord e.2 }))

/-- The mask of some lanes. -/
def maskOf (l : List Lane) : DWord := l.foldl (fun m x => m ||| x.bit) 0

/-- A lane under the zero policy: 0 in every destination of the word (02 R53). -/
def Regs.zeroed (rg : Regs) (f : Fibre) : Fibre :=
  let f := rg.dst.foldl (fun g o => g.setVal o.r o.n 0) f
  rg.pdst.foldl (fun g i => g.setPred i false) f

/-- A register of an operand. -/
def Opd.has (o : Opd) (r : Nat) : Bool := o.r ≤ r && r < o.r + o.n

/-- A load that a source waits for: it still has to write one of the registers (03 R73). -/
def Load.blocks (l : Load) (rg : Regs) : Bool :=
  rg.src.any (fun o => (List.range o.n).any (fun i => l.covers (o.r + i)))

/-- The load whose poison an active lane meets at this word (05 R149). -/
def Lane.meets (l : Lane) (rg : Regs) : Option Load :=
  if l.on then l.f.loads.find? (fun y => y.poisoned && y.blocks rg) else none

/-- An active lane has to wait for a load (03 R73). -/
def Lane.waits (l : Lane) (rg : Regs) : Bool := l.on && l.f.loads.any (fun y => y.blocks rg)

/-- The virtual address of a load. -/
def Load.va (l : Load) : Nat :=
  match l.src with
  | .mem a _ => a.va
  | .atomic a => a.va
  | _ => 0

/-- Every fibre of the issuing strand takes POISON, with a record that names the load (05 R149,
04 R121). -/
def trapPoison (n : Nat) (ls : List (Lane × Load)) : Act := fun p =>
  match tget p.now.strands n, ls with
  | some x, (_, y) :: _ =>
    let atomic := match y.src with
      | .atomic _ => 3
      | _ => 0
    let t : Trap := { cause := .poison, detail := 16 + atomic, mask := maskOf (ls.map (fun e => e.1)),
                      addr := y.va }
    forEach (nub x.fibs) (fun k => trapFibre k t { pc := y.pc, hdr := x.pos.hdr } y.word y.pfx)
      (leaveStrand n x.fibs p)
  | _, _ => p

/-- The lanes whose source meets poison, with the loads. -/
def poisonOf (lanes : List Lane) (rg : Regs) : List (Lane × Load) :=
  lanes.filterMap (fun l => (l.meets rg).map (fun y => (l, y)))

/-- A fibre word: the checks that depend on no lane (02 R57), poison and the wait for loads, and then
its effect on the lanes of the strand. `denied` tells a privilege check that fails. -/
def fibreWord (rg : Regs) (denied : Skein → Bool) (body : Nat → List Lane → Act) : Act := fun p =>
  match p.now.cur.who with
  | some (.front _) => trapWord { cause := .contextMismatch } p
  | none => p
  | some (.strand n) =>
    match tget p.now.strands n with
    | none => p
    | some x =>
      let lanes := p.now.lanes x
      match lanes with
      | [] => p
      | l :: _ =>
        match rg.check l.x.lr.regs (denied l.x) with
        | some c => trapWord { cause := c, mask := maskOf lanes } p
        | none =>
          match poisonOf lanes rg with
          | [] => if lanes.any (fun y => y.waits rg) then stall p else body n lanes p
          | ls => trapPoison n ls p

/-- No privilege check. -/
def anyone : Skein → Bool := fun _ => false

/-- Supervisor only (02 R58). -/
def supervisorOnly : Skein → Bool := fun x => !x.lr.sup

/-! ### Lanes that compute -/

/-- What a word does in one active lane: the fibre after it, or a trap. -/
structure LaneOut where
  f : Fibre
  trap : Option Trap := none
  deriving DecidableEq, Repr

/-- The trap of a word: the lowest code among its lanes, in the lanes that raised it, with the detail
and address of the lowest of them; NONFINITE joins the details (04 R120, 01 R35). -/
def worstTrap : List Trap → Option Trap
  | [] => none
  | t :: r =>
    match worstTrap r with
    | none => some t
    | some u =>
      if t.cause.code < u.cause.code then some t
      else if u.cause.code < t.cause.code then some u
      else some { t with
        mask := t.mask ||| u.mask
        detail := if t.cause = .nonfinite then t.detail ||| u.detail else t.detail }

/-- The fibre after the word in a lane. -/
def Lane.result (rg : Regs) (g : Lane → LaneOut) (l : Lane) : LaneOut :=
  match l.act with
  | .active => g l
  | .zero => { f := rg.zeroed l.f }
  | .merge => { f := l.f }

/-- A word that computes in each lane alone: it retires in every lane or in none (04 R119). -/
def laneWord (rg : Regs) (g : State → Lane → LaneOut) : Act :=
  fibreWord rg anyone (fun _ lanes p =>
    let outs := lanes.map (fun l => (l, l.result rg (g p.now)))
    match worstTrap (outs.filterMap (fun o => o.2.trap.map (fun t => { t with mask := o.1.bit }))) with
    | some t => trapWord t p
    | none => retire (forEach outs (fun o q => q.emit (.fibre o.1.k o.2.f)) p))

/-- A lane result that raises nothing. -/
def LaneOut.ok (f : Fibre) : LaneOut := { f := f }

/-- A floating result in a lane: NONFINITE when an enabled condition or integer range is raised, else
the write with the sticky flags (01 R34 R35). -/
def floatOut (l : Lane) (d n : Nat) (r : FRes) : LaneOut :=
  let c := r.cond.raised l.f.fpc
  if c != 0 then { f := l.f, trap := some { cause := .nonfinite, detail := c } }
  else
    let f := l.f.setVal d n r.bits
    { f := { f with fpc := r.cond.sticky f.fpc } }

/-! ### Words of both contexts and of a front context -/

/-- s register `r` of a front context (06 R157). -/
def Front.reg (f : Front) (r : Nat) : DWord := tgetD f.s r 0

/-- s register `r` written; the loads that still had to write it no longer do. -/
def Front.set (f : Front) (r : Nat) (w : DWord) : Front :=
  { f with
    s := tputD f.s r 0 w
    loads := f.loads.map (Load.kill r) }

/-- Predicate q`i`; q0 reads 1. -/
def Front.pred (f : Front) (i : Nat) : Bool := i == 0 || f.q.getLsbD i

/-- Predicate q`i` written; a write to q0 is ignored. -/
def Front.setPred (f : Front) (i : Nat) (b : Bool) : Front :=
  if i = 0 then f
  else { f with q := (f.q &&& ~~~ BitVec.ofNat 8 (2 ^ i)) ||| BitVec.ofNat 8 (if b then 2 ^ i else 0) }

/-- The front context takes POISON at a word that reads the destination of a poisoned load. -/
def trapFrontPoison (k : Nat) (x : Skein) (y : Load) : Act :=
  trapFront k { cause := .poison, detail := 16, addr := y.va }
    { pc := y.pc, hdr := x.front.pos.hdr } y.word

/-- The load stands for a remote request whose word waits for it (05 R148). -/
def Load.isRemote (l : Load) : Bool :=
  match l.src with
  | .remote _ _ => true
  | _ => false

/-- A word of a front context: its effect, once the data of its loads has returned (06 R162). In a fibre
it raises CONTEXT_MISMATCH (02 R46). -/
def frontWord (src : List Nat) (denied : Skein → Bool) (body : Nat → Skein → Act) : Act := fun p =>
  match p.now.cur.who with
  | none => p
  | some (.strand n) =>
    match tget p.now.strands n with
    | none => p
    | some x => trapWord { cause := .contextMismatch, mask := maskOf (p.now.lanes x) } p
  | some (.front k) =>
    match tget p.now.skeins k with
    | none => p
    | some x =>
      if p.now.cur.pfx.isSome then trapWord { cause := .contextMismatch } p
      else if denied x then trapWord { cause := .privileged } p
      else
        let rg : Regs := { src := src.map (fun r => { r := r, n := 1, al := 1 }) }
        match x.front.loads.find? (fun y => y.poisoned && y.blocks rg) with
        | some y => trapFrontPoison k x y p
        | none => if x.front.loads.any (fun y => !y.poisoned && !y.isRemote) then stall p else body k x p

/-- A word of a front context that computes at once and retires. -/
def frontAct (src : List Nat) (g : State → Front → Front) : Act :=
  frontWord src anyone (fun k _ p => retire (modFront k (g p.now) p))

/-- A word that both contexts execute. -/
def bothWord (fibre front : Act) : Act := fun p =>
  match p.now.cur.who with
  | some (.front _) => front p
  | _ => fibre p

end Sys2Proof.Machine
end

