-- ==== Sys2Proof/Machine/Integer.lean ====
section
/-! DEFINITION. Integer, compare, predicate, select and move words, majors 0x01-0x0D
(03 R75-R82). -/

namespace Sys2Proof.Machine

open Sys2Proof

/-! ### Shapes -/

/-- `op vd, va, vb` on 32-bit registers (03 R76). -/
def word3 (d a b : BitVec 7) (op : Word → Word → Word) : Act :=
  laneWord { src := [one a, one b], dst := [one d] } (fun _ l =>
    .ok (l.f.set d.toNat (op (l.f.reg a.toNat) (l.f.reg b.toNat))))

/-- `op vd, va` on 32-bit registers (03 R76). -/
def word2 (d a : BitVec 7) (op : Word → Word) : Act :=
  laneWord { src := [one a], dst := [one d] } (fun _ l =>
    .ok (l.f.set d.toNat (op (l.f.reg a.toNat))))

/-- `op vd, va, vb, vc`: the fourth operand is vd or the vc of the prefix (03 R74). -/
def word4 (d a b : BitVec 7) (op : Word → Word → Word → Word) : Act := fun p =>
  let c := p.now.fourth d.toNat
  laneWord { src := [one a, one b, one c], dst := [one d] } (fun _ l =>
    .ok (l.f.set d.toNat (op (l.f.reg a.toNat) (l.f.reg b.toNat) (l.f.reg c.toNat)))) p

/-- `op vd, imm` (03 R77). -/
def word1 (d : BitVec 7) (w : Word) : Act :=
  laneWord { dst := [one d] } (fun _ l => .ok (l.f.set d.toNat w))

/-- A 64-bit form on two pairs (03 R78). -/
def pair3 (d a b : BitVec 7) (op : DWord → DWord → DWord) : Act :=
  laneWord { src := [two a, two b], dst := [two d] } (fun _ l =>
    .ok (l.f.setPair d.toNat (op (l.f.pair a.toNat) (l.f.pair b.toNat))))

/-- A 64-bit form on a pair and a register (03 R78). -/
def pair2w (d a b : BitVec 7) (op : DWord → Word → DWord) : Act :=
  laneWord { src := [two a, one b], dst := [two d] } (fun _ l =>
    .ok (l.f.setPair d.toNat (op (l.f.pair a.toNat) (l.f.reg b.toNat))))

/-- A 64-bit form on one pair (03 R78). -/
def pair2 (d a : BitVec 7) (op : DWord → DWord) : Act :=
  laneWord { src := [two a], dst := [two d] } (fun _ l =>
    .ok (l.f.setPair d.toNat (op (l.f.pair a.toNat))))

/-- A widening form: two registers to a pair (03 R78). -/
def widen (d a b : BitVec 7) (op : Word → Word → DWord) : Act :=
  laneWord { src := [one a, one b], dst := [two d] } (fun _ l =>
    .ok (l.f.setPair d.toNat (op (l.f.reg a.toNat) (l.f.reg b.toNat))))

/-- A compare of two registers (03 R79). -/
def cmp32 (p : BitVec 3) (a b : BitVec 7) (op : Word → Word → Bool) : Act :=
  laneWord { src := [one a, one b], pdst := [p.toNat] } (fun _ l =>
    .ok (l.f.setPred p.toNat (op (l.f.reg a.toNat) (l.f.reg b.toNat))))

/-- A compare of two pairs (03 R79). -/
def cmp64 (p : BitVec 3) (a b : BitVec 7) (op : DWord → DWord → Bool) : Act :=
  laneWord { src := [two a, two b], pdst := [p.toNat] } (fun _ l =>
    .ok (l.f.setPred p.toNat (op (l.f.pair a.toNat) (l.f.pair b.toNat))))

/-- A predicate word (03 R80). -/
def predWord (d a b : BitVec 3) (op : Bool → Bool → Bool) : Act :=
  laneWord { pdst := [d.toNat] } (fun _ l =>
    .ok (l.f.setPred d.toNat (op (l.f.pred a.toNat) (l.f.pred b.toNat))))

/-! ### Values -/

/-- The leading zero bits of the low `n` bits of a number (03 R76). -/
def leadingZeros (n : Nat) (x : Nat) : Nat := if x = 0 then n else n - 1 - Nat.log2 x

/-- The one bits among the low `n` bits of a number (03 R76). -/
def popCount (x : Nat) : Nat → Nat
  | 0 => 0
  | n + 1 => x % 2 + popCount (x / 2) n

/-- The low `n` bits of a number in reverse order (03 R76). -/
def reverseBits (x : Nat) : Nat → Nat
  | 0 => 0
  | n + 1 => x % 2 * 2 ^ n + reverseBits (x / 2) n

/-- The position of `bfx` and `bfi` (03 R76). -/
def fieldPos (b : Word) : Nat := bitsOf b.toNat 4 0

/-- The width of `bfx` and `bfi`, cut at bit 31 (03 R76). -/
def fieldWidth (b : Word) : Nat := min (bitsOf b.toNat 13 8) (32 - fieldPos b)

/-- bfx.n32 (03 R76). -/
def extractN (a b : Word) : Word := BitVec.ofNat 32 (a.toNat / 2 ^ fieldPos b % 2 ^ fieldWidth b)

/-- bfx.i32 (03 R76). -/
def extractI (a b : Word) : Word :=
  BitVec.ofInt 32 (sextN (a.toNat / 2 ^ fieldPos b) (fieldWidth b))

/-- bfi (03 R76). -/
def insertField (a b c : Word) : Word :=
  let f := BitVec.ofNat 32 ((2 ^ fieldWidth b - 1) * 2 ^ fieldPos b)
  (c &&& ~~~ f) ||| ((a <<< fieldPos b) &&& f)

/-- The shift amount of a 32-bit form (03 R76). -/
def amount5 (b : Word) : Nat := bitsOf b.toNat 4 0

/-- The shift amount of a 64-bit form (03 R78). -/
def amount6 (b : Word) : Nat := bitsOf b.toNat 5 0

/-! ### 32-bit operations, major 0x01 (03 R76) -/

/-- `add` (03 R76). -/
def execAdd (d a b : BitVec 7) (s : State) : Host.Outcome State Fault Refusal :=
  commit s (word3 d a b (fun x y => x + y))

/-- `sub` (03 R76). -/
def execSub (d a b : BitVec 7) (s : State) : Host.Outcome State Fault Refusal :=
  commit s (word3 d a b (fun x y => x - y))

/-- `mullo` (03 R76). -/
def execMullo (d a b : BitVec 7) (s : State) : Host.Outcome State Fault Refusal :=
  commit s (word3 d a b (fun x y => x * y))

/-- `mulhi.i32` (03 R76). -/
def execMulhiI32 (d a b : BitVec 7) (s : State) : Host.Outcome State Fault Refusal :=
  commit s (word3 d a b (fun x y => BitVec.ofInt 32 (x.toInt * y.toInt / 2 ^ 32)))

/-- `mulhi.n32` (03 R76). -/
def execMulhiN32 (d a b : BitVec 7) (s : State) : Host.Outcome State Fault Refusal :=
  commit s (word3 d a b (fun x y => BitVec.ofNat 32 (x.toNat * y.toNat / 2 ^ 32)))

/-- `min.i32` (03 R76). -/
def execMinI32 (d a b : BitVec 7) (s : State) : Host.Outcome State Fault Refusal :=
  commit s (word3 d a b (fun x y => if y.slt x then y else x))

/-- `max.i32` (03 R76). -/
def execMaxI32 (d a b : BitVec 7) (s : State) : Host.Outcome State Fault Refusal :=
  commit s (word3 d a b (fun x y => if x.slt y then y else x))

/-- `min.n32` (03 R76). -/
def execMinN32 (d a b : BitVec 7) (s : State) : Host.Outcome State Fault Refusal :=
  commit s (word3 d a b (fun x y => if y.ult x then y else x))

/-- `max.n32` (03 R76). -/
def execMaxN32 (d a b : BitVec 7) (s : State) : Host.Outcome State Fault Refusal :=
  commit s (word3 d a b (fun x y => if x.ult y then y else x))

/-- `and` (03 R76). -/
def execAnd (d a b : BitVec 7) (s : State) : Host.Outcome State Fault Refusal :=
  commit s (word3 d a b (fun x y => x &&& y))

/-- `or` (03 R76). -/
def execOr (d a b : BitVec 7) (s : State) : Host.Outcome State Fault Refusal :=
  commit s (word3 d a b (fun x y => x ||| y))

/-- `xor` (03 R76). -/
def execXor (d a b : BitVec 7) (s : State) : Host.Outcome State Fault Refusal :=
  commit s (word3 d a b (fun x y => x ^^^ y))

/-- `andn` (03 R76). -/
def execAndn (d a b : BitVec 7) (s : State) : Host.Outcome State Fault Refusal :=
  commit s (word3 d a b (fun x y => x &&& ~~~ y))

/-- `shl` (03 R76). -/
def execShl (d a b : BitVec 7) (s : State) : Host.Outcome State Fault Refusal :=
  commit s (word3 d a b (fun x y => x <<< amount5 y))

/-- `shr.n32` (03 R76). -/
def execShrN32 (d a b : BitVec 7) (s : State) : Host.Outcome State Fault Refusal :=
  commit s (word3 d a b (fun x y => x >>> amount5 y))

/-- `shr.i32` (03 R76). -/
def execShrI32 (d a b : BitVec 7) (s : State) : Host.Outcome State Fault Refusal :=
  commit s (word3 d a b (fun x y => x.sshiftRight (amount5 y)))

/-- `rotl` (03 R76). -/
def execRotl (d a b : BitVec 7) (s : State) : Host.Outcome State Fault Refusal :=
  commit s (word3 d a b (fun x y => x.rotateLeft (amount5 y)))

/-- `abs` (03 R76). -/
def execAbs (d a : BitVec 7) (s : State) : Host.Outcome State Fault Refusal :=
  commit s (word2 d a (fun x => if x.msb then -x else x))

/-- `neg` (03 R76). -/
def execNeg (d a : BitVec 7) (s : State) : Host.Outcome State Fault Refusal :=
  commit s (word2 d a (fun x => -x))

/-- `clz` (03 R76). -/
def execClz (d a : BitVec 7) (s : State) : Host.Outcome State Fault Refusal :=
  commit s (word2 d a (fun x => BitVec.ofNat 32 (leadingZeros 32 x.toNat)))

/-- `popc` (03 R76). -/
def execPopc (d a : BitVec 7) (s : State) : Host.Outcome State Fault Refusal :=
  commit s (word2 d a (fun x => BitVec.ofNat 32 (popCount x.toNat 32)))

/-- `brev` (03 R76). -/
def execBrev (d a : BitVec 7) (s : State) : Host.Outcome State Fault Refusal :=
  commit s (word2 d a (fun x => BitVec.ofNat 32 (reverseBits x.toNat 32)))

/-- `bfx.n32` (03 R76). -/
def execBfxN32 (d a b : BitVec 7) (s : State) : Host.Outcome State Fault Refusal :=
  commit s (word3 d a b (fun x y => extractN x y))

/-- `bfx.i32` (03 R76). -/
def execBfxI32 (d a b : BitVec 7) (s : State) : Host.Outcome State Fault Refusal :=
  commit s (word3 d a b (fun x y => extractI x y))

/-- `bfi` (03 R76). -/
def execBfi (d a b : BitVec 7) (s : State) : Host.Outcome State Fault Refusal :=
  commit s (word4 d a b (fun x y z => insertField x y z))

/-- `mad` (03 R76). -/
def execMad (d a b : BitVec 7) (s : State) : Host.Outcome State Fault Refusal :=
  commit s (word4 d a b (fun x y z => x * y + z))

/-! ### Immediate forms, majors 0x02-0x08 (03 R77) -/

/-- `addi` (03 R77). -/
def execAddi (d a : BitVec 7) (i : BitVec 12) (s : State) : Host.Outcome State Fault Refusal :=
  commit s (word2 d a (fun x => x + i.signExtend 32))

/-- `andi` (03 R77). -/
def execAndi (d a : BitVec 7) (i : BitVec 12) (s : State) : Host.Outcome State Fault Refusal :=
  commit s (word2 d a (fun x => x &&& i.zeroExtend 32))

/-- `ori` (03 R77). -/
def execOri (d a : BitVec 7) (i : BitVec 12) (s : State) : Host.Outcome State Fault Refusal :=
  commit s (word2 d a (fun x => x ||| i.zeroExtend 32))

/-- `xori` (03 R77). -/
def execXori (d a : BitVec 7) (i : BitVec 12) (s : State) : Host.Outcome State Fault Refusal :=
  commit s (word2 d a (fun x => x ^^^ i.zeroExtend 32))

/-- The amount of an immediate shift lies below 32 (03 R77). -/
def amountChecked (n : BitVec 6) (a : Act) : Act :=
  if n.toNat < 32 then a
  else fibreWord {} anyone (fun _ lanes => trapWord { cause := .illegalField, mask := maskOf lanes })

/-- `shli`; an amount from 32 is ILLEGAL_FIELD (03 R77). -/
def execShli (d a : BitVec 7) (n : BitVec 6) (s : State) : Host.Outcome State Fault Refusal :=
  commit s (amountChecked n (word2 d a (fun x => x <<< n.toNat)))

/-- `shri.n32`; an amount from 32 is ILLEGAL_FIELD (03 R77). -/
def execShriN32 (d a : BitVec 7) (n : BitVec 6) (s : State) : Host.Outcome State Fault Refusal :=
  commit s (amountChecked n (word2 d a (fun x => x >>> n.toNat)))

/-- `shri.i32`; an amount from 32 is ILLEGAL_FIELD (03 R77). -/
def execShriI32 (d a : BitVec 7) (n : BitVec 6) (s : State) : Host.Outcome State Fault Refusal :=
  commit s (amountChecked n (word2 d a (fun x => x.sshiftRight n.toNat)))

/-- `rotli`; an amount from 32 is ILLEGAL_FIELD (03 R77). -/
def execRotli (d a : BitVec 7) (n : BitVec 6) (s : State) : Host.Outcome State Fault Refusal :=
  commit s (amountChecked n (word2 d a (fun x => x.rotateLeft n.toNat)))

/-- `lui` (03 R77). -/
def execLui (d : BitVec 7) (i : BitVec 19) (s : State) : Host.Outcome State Fault Refusal :=
  commit s (word1 d (i.zeroExtend 32 <<< 13))

/-- `movi` (03 R77). -/
def execMovi (d : BitVec 7) (i : BitVec 19) (s : State) : Host.Outcome State Fault Refusal :=
  commit s (word1 d (i.signExtend 32))

/-! ### 64-bit operations, major 0x09 (03 R78) -/

/-- `add.i64` (03 R78). -/
def execAddI64 (d a b : BitVec 7) (s : State) : Host.Outcome State Fault Refusal :=
  commit s (pair3 d a b (fun x y => x + y))

/-- `sub.i64` (03 R78). -/
def execSubI64 (d a b : BitVec 7) (s : State) : Host.Outcome State Fault Refusal :=
  commit s (pair3 d a b (fun x y => x - y))

/-- `mullo.i64` (03 R78). -/
def execMulloI64 (d a b : BitVec 7) (s : State) : Host.Outcome State Fault Refusal :=
  commit s (pair3 d a b (fun x y => x * y))

/-- `mulhi.i64` (03 R78). -/
def execMulhiI64 (d a b : BitVec 7) (s : State) : Host.Outcome State Fault Refusal :=
  commit s (pair3 d a b (fun x y => BitVec.ofInt 64 (x.toInt * y.toInt / 2 ^ 64)))

/-- `mulhi.n64` (03 R78). -/
def execMulhiN64 (d a b : BitVec 7) (s : State) : Host.Outcome State Fault Refusal :=
  commit s (pair3 d a b (fun x y => BitVec.ofNat 64 (x.toNat * y.toNat / 2 ^ 64)))

/-- `min.i64` (03 R78). -/
def execMinI64 (d a b : BitVec 7) (s : State) : Host.Outcome State Fault Refusal :=
  commit s (pair3 d a b (fun x y => if y.slt x then y else x))

/-- `max.i64` (03 R78). -/
def execMaxI64 (d a b : BitVec 7) (s : State) : Host.Outcome State Fault Refusal :=
  commit s (pair3 d a b (fun x y => if x.slt y then y else x))

/-- `min.n64` (03 R78). -/
def execMinN64 (d a b : BitVec 7) (s : State) : Host.Outcome State Fault Refusal :=
  commit s (pair3 d a b (fun x y => if y.ult x then y else x))

/-- `max.n64` (03 R78). -/
def execMaxN64 (d a b : BitVec 7) (s : State) : Host.Outcome State Fault Refusal :=
  commit s (pair3 d a b (fun x y => if x.ult y then y else x))

/-- `shl.b64` (03 R78). -/
def execShlB64 (d a b : BitVec 7) (s : State) : Host.Outcome State Fault Refusal :=
  commit s (pair2w d a b (fun x y => x <<< amount6 y))

/-- `shr.n64` (03 R78). -/
def execShrN64 (d a b : BitVec 7) (s : State) : Host.Outcome State Fault Refusal :=
  commit s (pair2w d a b (fun x y => x >>> amount6 y))

/-- `shr.i64` (03 R78). -/
def execShrI64 (d a b : BitVec 7) (s : State) : Host.Outcome State Fault Refusal :=
  commit s (pair2w d a b (fun x y => x.sshiftRight (amount6 y)))

/-- `neg.i64` (03 R78). -/
def execNegI64 (d a : BitVec 7) (s : State) : Host.Outcome State Fault Refusal :=
  commit s (pair2 d a (fun x => -x))

/-- `clz.b64` (03 R78). -/
def execClzB64 (d a : BitVec 7) (s : State) : Host.Outcome State Fault Refusal :=
  commit s (pair2 d a (fun x => BitVec.ofNat 64 (leadingZeros 64 x.toNat)))

/-- `popc.b64` (03 R78). -/
def execPopcB64 (d a : BitVec 7) (s : State) : Host.Outcome State Fault Refusal :=
  commit s (pair2 d a (fun x => BitVec.ofNat 64 (popCount x.toNat 64)))

/-- `mulw.i32` (03 R78). -/
def execMulwI32 (d a b : BitVec 7) (s : State) : Host.Outcome State Fault Refusal :=
  commit s (widen d a b (fun x y => x.signExtend 64 * y.signExtend 64))

/-- `mulw.n32` (03 R78). -/
def execMulwN32 (d a b : BitVec 7) (s : State) : Host.Outcome State Fault Refusal :=
  commit s (widen d a b (fun x y => x.zeroExtend 64 * y.zeroExtend 64))

/-- `addx.i64` (03 R78). -/
def execAddxI64 (d a b : BitVec 7) (s : State) : Host.Outcome State Fault Refusal :=
  commit s (pair2w d a b (fun x y => x + y.signExtend 64))

/-! ### Compares, major 0x0A (03 R79) -/

/-- `cmp.eq.i32` (03 R79). -/
def execCmpEqI32 (p : BitVec 3) (a b : BitVec 7) (s : State) : Host.Outcome State Fault Refusal :=
  commit s (cmp32 p a b (fun x y => x == y))

/-- `cmp.ne.i32` (03 R79). -/
def execCmpNeI32 (p : BitVec 3) (a b : BitVec 7) (s : State) : Host.Outcome State Fault Refusal :=
  commit s (cmp32 p a b (fun x y => x != y))

/-- `cmp.lt.i32` (03 R79). -/
def execCmpLtI32 (p : BitVec 3) (a b : BitVec 7) (s : State) : Host.Outcome State Fault Refusal :=
  commit s (cmp32 p a b (fun x y => x.slt y))

/-- `cmp.le.i32` (03 R79). -/
def execCmpLeI32 (p : BitVec 3) (a b : BitVec 7) (s : State) : Host.Outcome State Fault Refusal :=
  commit s (cmp32 p a b (fun x y => x.sle y))

/-- `cmp.lt.n32` (03 R79). -/
def execCmpLtN32 (p : BitVec 3) (a b : BitVec 7) (s : State) : Host.Outcome State Fault Refusal :=
  commit s (cmp32 p a b (fun x y => x.ult y))

/-- `cmp.le.n32` (03 R79). -/
def execCmpLeN32 (p : BitVec 3) (a b : BitVec 7) (s : State) : Host.Outcome State Fault Refusal :=
  commit s (cmp32 p a b (fun x y => x.ule y))

/-- `cmp.eq.i64` (03 R79). -/
def execCmpEqI64 (p : BitVec 3) (a b : BitVec 7) (s : State) : Host.Outcome State Fault Refusal :=
  commit s (cmp64 p a b (fun x y => x == y))

/-- `cmp.ne.i64` (03 R79). -/
def execCmpNeI64 (p : BitVec 3) (a b : BitVec 7) (s : State) : Host.Outcome State Fault Refusal :=
  commit s (cmp64 p a b (fun x y => x != y))

/-- `cmp.lt.i64` (03 R79). -/
def execCmpLtI64 (p : BitVec 3) (a b : BitVec 7) (s : State) : Host.Outcome State Fault Refusal :=
  commit s (cmp64 p a b (fun x y => x.slt y))

/-- `cmp.le.i64` (03 R79). -/
def execCmpLeI64 (p : BitVec 3) (a b : BitVec 7) (s : State) : Host.Outcome State Fault Refusal :=
  commit s (cmp64 p a b (fun x y => x.sle y))

/-- `cmp.lt.n64` (03 R79). -/
def execCmpLtN64 (p : BitVec 3) (a b : BitVec 7) (s : State) : Host.Outcome State Fault Refusal :=
  commit s (cmp64 p a b (fun x y => x.ult y))

/-- `cmp.le.n64` (03 R79). -/
def execCmpLeN64 (p : BitVec 3) (a b : BitVec 7) (s : State) : Host.Outcome State Fault Refusal :=
  commit s (cmp64 p a b (fun x y => x.ule y))

/-- The value of an f32 pattern. -/
def f32v (w : Word) : FV := FV.of .f32 w.toNat

/-- The value of an f64 pattern. -/
def f64v (w : DWord) : FV := FV.of .f64 w.toNat

/-- `cmp.eq.f32` (03 R79). -/
def execCmpEqF32 (p : BitVec 3) (a b : BitVec 7) (s : State) : Host.Outcome State Fault Refusal :=
  commit s (cmp32 p a b (fun x y => fvEq (f32v x) (f32v y)))

/-- `cmp.ne.f32` (03 R79). -/
def execCmpNeF32 (p : BitVec 3) (a b : BitVec 7) (s : State) : Host.Outcome State Fault Refusal :=
  commit s (cmp32 p a b (fun x y => !fvEq (f32v x) (f32v y)))

/-- `cmp.lt.f32` (03 R79). -/
def execCmpLtF32 (p : BitVec 3) (a b : BitVec 7) (s : State) : Host.Outcome State Fault Refusal :=
  commit s (cmp32 p a b (fun x y => fvLess (f32v x) (f32v y)))

/-- `cmp.le.f32` (03 R79). -/
def execCmpLeF32 (p : BitVec 3) (a b : BitVec 7) (s : State) : Host.Outcome State Fault Refusal :=
  commit s (cmp32 p a b (fun x y => fvLess (f32v x) (f32v y) || fvEq (f32v x) (f32v y)))

/-- `cmp.un.f32` (03 R79). -/
def execCmpUnF32 (p : BitVec 3) (a b : BitVec 7) (s : State) : Host.Outcome State Fault Refusal :=
  commit s (cmp32 p a b (fun x y => f32v x == .nan || f32v y == .nan))

/-- `cmp.eq.f64` (03 R79). -/
def execCmpEqF64 (p : BitVec 3) (a b : BitVec 7) (s : State) : Host.Outcome State Fault Refusal :=
  commit s (cmp64 p a b (fun x y => fvEq (f64v x) (f64v y)))

/-- `cmp.ne.f64` (03 R79). -/
def execCmpNeF64 (p : BitVec 3) (a b : BitVec 7) (s : State) : Host.Outcome State Fault Refusal :=
  commit s (cmp64 p a b (fun x y => !fvEq (f64v x) (f64v y)))

/-- `cmp.lt.f64` (03 R79). -/
def execCmpLtF64 (p : BitVec 3) (a b : BitVec 7) (s : State) : Host.Outcome State Fault Refusal :=
  commit s (cmp64 p a b (fun x y => fvLess (f64v x) (f64v y)))

/-- `cmp.le.f64` (03 R79). -/
def execCmpLeF64 (p : BitVec 3) (a b : BitVec 7) (s : State) : Host.Outcome State Fault Refusal :=
  commit s (cmp64 p a b (fun x y => fvLess (f64v x) (f64v y) || fvEq (f64v x) (f64v y)))

/-- `cmp.un.f64` (03 R79). -/
def execCmpUnF64 (p : BitVec 3) (a b : BitVec 7) (s : State) : Host.Outcome State Fault Refusal :=
  commit s (cmp64 p a b (fun x y => f64v x == .nan || f64v y == .nan))

/-! ### Predicates, major 0x0B (03 R80) -/

/-- `pand` (03 R80). -/
def execPand (d a b : BitVec 3) (s : State) : Host.Outcome State Fault Refusal :=
  commit s (predWord d a b (fun x y => x && y))

/-- `por` (03 R80). -/
def execPor (d a b : BitVec 3) (s : State) : Host.Outcome State Fault Refusal :=
  commit s (predWord d a b (fun x y => x || y))

/-- `pxor` (03 R80). -/
def execPxor (d a b : BitVec 3) (s : State) : Host.Outcome State Fault Refusal :=
  commit s (predWord d a b (fun x y => x ^^ y))

/-- `pandn` (03 R80). -/
def execPandn (d a b : BitVec 3) (s : State) : Host.Outcome State Fault Refusal :=
  commit s (predWord d a b (fun x y => x && !y))

/-- `pnot` (03 R80). -/
def execPnot (d a : BitVec 3) (s : State) : Host.Outcome State Fault Refusal :=
  commit s (predWord d a 0 (fun x _ => !x))

/-- `pmov` (03 R80). -/
def execPmov (d a : BitVec 3) (s : State) : Host.Outcome State Fault Refusal :=
  commit s (predWord d a 0 (fun x _ => x))

/-! ### Select and moves, majors 0x0C and 0x0D (03 R81 R82) -/

/-- The lane's selector: p[n] xor the invert bit (03 R81). -/
def selector (f : Fibre) (n : BitVec 1) (p : BitVec 3) : Bool := f.pred p.toNat ^^ (n == 1#1)

/-- `sel` (03 R81). -/
def execSel (d a b : BitVec 7) (n : BitVec 1) (p : BitVec 3) (s : State) :
    Host.Outcome State Fault Refusal :=
  commit s (laneWord { src := [one a, one b], dst := [one d] } (fun _ l =>
    .ok (l.f.set d.toNat (if selector l.f n p then l.f.reg a.toNat else l.f.reg b.toNat))))

/-- `sel64` (03 R81). -/
def execSel64 (d a b : BitVec 7) (n : BitVec 1) (p : BitVec 3) (s : State) :
    Host.Outcome State Fault Refusal :=
  commit s (laneWord { src := [two a, two b], dst := [two d] } (fun _ l =>
    .ok (l.f.setPair d.toNat (if selector l.f n p then l.f.pair a.toNat else l.f.pair b.toNat))))

/-- `mov` (03 R82). -/
def execMov (d a : BitVec 7) (s : State) : Host.Outcome State Fault Refusal :=
  commit s (word2 d a (fun x => x))

/-- `mov64` (03 R82). -/
def execMov64 (d a : BitVec 7) (s : State) : Host.Outcome State Fault Refusal :=
  commit s (pair2 d a (fun x => x))

/-- `pget`: the predicates as a number, p0 reading 1 (03 R82). -/
def execPget (d : BitVec 7) (s : State) : Host.Outcome State Fault Refusal :=
  commit s (laneWord { dst := [one d] } (fun _ l =>
    .ok (l.f.set d.toNat ((l.f.p ||| 1).zeroExtend 32))))

/-- `pput`: the predicates from a register, p0 kept (03 R82). -/
def execPput (a : BitVec 7) (s : State) : Host.Outcome State Fault Refusal :=
  commit s (laneWord { src := [one a], pdst := [1, 2, 3, 4, 5, 6, 7] } (fun _ l =>
    .ok { l.f with p := (l.f.reg a.toNat).setWidth 8 ||| 1 }))

end Sys2Proof.Machine
end

