-- ==== Sys2Proof/Machine/FloatOps.lean ====
section
/-! DEFINITION. Floating-point arithmetic, majors 0x10-0x13, conversions, major 0x14, and dot products,
major 0x15 (03 R84-R90). -/

namespace Sys2Proof.Machine

open Sys2Proof

/-! ### Shapes -/

/-- The mode of a lane for the word being executed (01 R28 R29). -/
def State.mode (s : State) (f : Fibre) : FMode := laneMode s.rs f.fpc

/-- A source of a format after the flush of inputs (03 R84). -/
def inVal (t : Fmt) (md : FMode) (w : Nat) : FV := FV.of t (t.flushIn md.fzi w)

/-- The operand shape of a format: a register, or a pair for f64. -/
def fOpd (t : Fmt) (r : BitVec 7) : Opd := if t.e = 11 then two r else one r

/-- A form of two floating sources (03 R84 R85). -/
def float2 (t : Fmt) (d a b : BitVec 7) (op : FMode → Nat → Nat → FRes) : Act :=
  laneWord { src := [fOpd t a, fOpd t b], dst := [fOpd t d] } (fun s l =>
    let md := s.mode l.f
    let n := (fOpd t d).n
    let x := t.flushIn md.fzi (l.f.val a.toNat n)
    let y := t.flushIn md.fzi (l.f.val b.toNat n)
    floatOut l d.toNat n (op md x y))

/-- A form of one floating source (03 R84 R85). -/
def float1 (t : Fmt) (d a : BitVec 7) (op : FMode → Nat → FRes) : Act :=
  laneWord { src := [fOpd t a], dst := [fOpd t d] } (fun s l =>
    let md := s.mode l.f
    let n := (fOpd t d).n
    floatOut l d.toNat n (op md (t.flushIn md.fzi (l.f.val a.toNat n))))

/-- `fma`: the addend is vd, or vc under a prefix (03 R74 R85). -/
def float3 (t : Fmt) (d a b : BitVec 7) (op : FMode → Nat → Nat → Nat → FRes) : Act := fun p =>
  let c := p.now.fourth d.toNat
  laneWord { src := [fOpd t a, fOpd t b, fOpd t c], dst := [fOpd t d] } (fun s l =>
    let md := s.mode l.f
    let n := (fOpd t d).n
    let x := t.flushIn md.fzi (l.f.val a.toNat n)
    let y := t.flushIn md.fzi (l.f.val b.toNat n)
    let z := t.flushIn md.fzi (l.f.val c.toNat n)
    floatOut l d.toNat n (op md x y z)) p

/-- An operation on values as an operation on patterns. -/
def onVals2 (t : Fmt) (op : Fmt → FMode → FV → FV → FRes) : FMode → Nat → Nat → FRes :=
  fun md x y => op t md (FV.of t x) (FV.of t y)

/-- An operation on one value as an operation on a pattern. -/
def onVals1 (t : Fmt) (op : Fmt → FMode → FV → FRes) : FMode → Nat → FRes :=
  fun md x => op t md (FV.of t x)

/-- The fused form on patterns. -/
def onVals3 (t : Fmt) : FMode → Nat → Nat → Nat → FRes :=
  fun md x y z => fFma t md (FV.of t x) (FV.of t y) (FV.of t z)

/-- The two elements of a packed result, with their conditions merged (01 R23). -/
def pack2 (lo hi : FRes) : FRes :=
  { bits := lo.bits + hi.bits * 2 ^ 16, cond := lo.cond.merge hi.cond }

/-- Element `i` of a packed register of 16-bit elements (01 R23). -/
def half (w i : Nat) : Nat := w / 2 ^ (16 * i) % 2 ^ 16

/-- A packed form of two sources, element by element (03 R84 R86). -/
def packed2 (t : Fmt) (d a b : BitVec 7) (op : FMode → Nat → Nat → FRes) : Act :=
  laneWord { src := [one a, one b], dst := [one d] } (fun s l =>
    let md := s.mode l.f
    let e := fun i => op md (t.flushIn md.fzi (half (l.f.reg a.toNat).toNat i))
      (t.flushIn md.fzi (half (l.f.reg b.toNat).toNat i))
    floatOut l d.toNat 1 (pack2 (e 0) (e 1)))

/-- The packed `fma` (03 R84 R86). -/
def packed3 (t : Fmt) (d a b : BitVec 7) : Act := fun p =>
  let c := p.now.fourth d.toNat
  laneWord { src := [one a, one b, one c], dst := [one d] } (fun s l =>
    let md := s.mode l.f
    let at_ := fun (r : BitVec 7) i => t.flushIn md.fzi (half (l.f.reg r.toNat).toNat i)
    let e := fun i => onVals3 t md (at_ a i) (at_ b i) (at_ c i)
    floatOut l d.toNat 1 (pack2 (e 0) (e 1))) p

/-- min and max of a format (03 R85). -/
def minMax (t : Fmt) (larger strict : Bool) : FMode → Nat → Nat → FRes :=
  fun md x y => fMinMaxM t md larger strict x y

/-- floor, ceil, trunc, and rint under the lane's mode (03 R85). -/
def integral (t : Fmt) (mode : Option RMode) : FMode → Nat → FRes :=
  fun md x => fIntegral t (mode.getD md.mode) x

/-! ### f32, major 0x10 (03 R85) -/

/-- `add.f32` (03 R85). -/
def execAddF32 (d a b : BitVec 7) (s : State) : Host.Outcome State Fault Refusal :=
  commit s (float2 .f32 d a b (onVals2 .f32 fAdd))

/-- `sub.f32` (03 R85). -/
def execSubF32 (d a b : BitVec 7) (s : State) : Host.Outcome State Fault Refusal :=
  commit s (float2 .f32 d a b (onVals2 .f32 fSub))

/-- `mul.f32` (03 R85). -/
def execMulF32 (d a b : BitVec 7) (s : State) : Host.Outcome State Fault Refusal :=
  commit s (float2 .f32 d a b (onVals2 .f32 fMul))

/-- `fma.f32` (03 R85). -/
def execFmaF32 (d a b : BitVec 7) (s : State) : Host.Outcome State Fault Refusal :=
  commit s (float3 .f32 d a b (onVals3 .f32))

/-- `min.f32` (03 R85). -/
def execMinF32 (d a b : BitVec 7) (s : State) : Host.Outcome State Fault Refusal :=
  commit s (float2 .f32 d a b (minMax .f32 false false))

/-- `max.f32` (03 R85). -/
def execMaxF32 (d a b : BitVec 7) (s : State) : Host.Outcome State Fault Refusal :=
  commit s (float2 .f32 d a b (minMax .f32 true false))

/-- `minm.f32` (03 R85). -/
def execMinmF32 (d a b : BitVec 7) (s : State) : Host.Outcome State Fault Refusal :=
  commit s (float2 .f32 d a b (minMax .f32 false true))

/-- `maxm.f32` (03 R85). -/
def execMaxmF32 (d a b : BitVec 7) (s : State) : Host.Outcome State Fault Refusal :=
  commit s (float2 .f32 d a b (minMax .f32 true true))

/-- `abs.f32` (03 R85). -/
def execAbsF32 (d a : BitVec 7) (s : State) : Host.Outcome State Fault Refusal :=
  commit s (word2 d a (fun x => x &&& 0x7FFFFFFF))

/-- `neg.f32` (03 R85). -/
def execNegF32 (d a : BitVec 7) (s : State) : Host.Outcome State Fault Refusal :=
  commit s (word2 d a (fun x => x ^^^ 0x80000000))

/-- `copysign.f32` (03 R85). -/
def execCopysignF32 (d a b : BitVec 7) (s : State) : Host.Outcome State Fault Refusal :=
  commit s (word3 d a b (fun x y => (x &&& 0x7FFFFFFF) ||| (y &&& 0x80000000)))

/-- `div.f32` (03 R85). -/
def execDivF32 (d a b : BitVec 7) (s : State) : Host.Outcome State Fault Refusal :=
  commit s (float2 .f32 d a b (onVals2 .f32 fDiv))

/-- `sqrt.f32` (03 R85). -/
def execSqrtF32 (d a : BitVec 7) (s : State) : Host.Outcome State Fault Refusal :=
  commit s (float1 .f32 d a (onVals1 .f32 fSqrt))

/-- `rcp.f32` (03 R85). -/
def execRcpF32 (d a : BitVec 7) (s : State) : Host.Outcome State Fault Refusal :=
  commit s (float1 .f32 d a (onVals1 .f32 fRcp))

/-- `rsqrt.f32` (03 R85). -/
def execRsqrtF32 (d a : BitVec 7) (s : State) : Host.Outcome State Fault Refusal :=
  commit s (float1 .f32 d a (onVals1 .f32 fRsqrt))

/-- `exp2.f32` (03 R85). -/
def execExp2F32 (d a : BitVec 7) (s : State) : Host.Outcome State Fault Refusal :=
  commit s (float1 .f32 d a (onVals1 .f32 fExp2))

/-- `log2.f32` (03 R85). -/
def execLog2F32 (d a : BitVec 7) (s : State) : Host.Outcome State Fault Refusal :=
  commit s (float1 .f32 d a (onVals1 .f32 fLog2))

/-- `tanh.f32` (03 R85). -/
def execTanhF32 (d a : BitVec 7) (s : State) : Host.Outcome State Fault Refusal :=
  commit s (float1 .f32 d a (onVals1 .f32 fTanh))

/-- `floor.f32` (03 R85). -/
def execFloorF32 (d a : BitVec 7) (s : State) : Host.Outcome State Fault Refusal :=
  commit s (float1 .f32 d a (integral .f32 (some .rdn)))

/-- `ceil.f32` (03 R85). -/
def execCeilF32 (d a : BitVec 7) (s : State) : Host.Outcome State Fault Refusal :=
  commit s (float1 .f32 d a (integral .f32 (some .rup)))

/-- `trunc.f32` (03 R85). -/
def execTruncF32 (d a : BitVec 7) (s : State) : Host.Outcome State Fault Refusal :=
  commit s (float1 .f32 d a (integral .f32 (some .rtz)))

/-- `rint.f32` (03 R85). -/
def execRintF32 (d a : BitVec 7) (s : State) : Host.Outcome State Fault Refusal :=
  commit s (float1 .f32 d a (integral .f32 none))

/-- `class.f32`: the mask of the pattern after the flush of inputs; it raises nothing (03 R87). -/
def execClassF32 (d a : BitVec 7) (s : State) : Host.Outcome State Fault Refusal :=
  commit s (laneWord { src := [one a], dst := [one d] } (fun s l =>
    .ok (l.f.set d.toNat (BitVec.ofNat 32
      (fClass .f32 (Fmt.f32.flushIn (s.mode l.f).fzi (l.f.reg a.toNat).toNat))))))

/-- `ldexp.f32`: the exponent is an integer register (03 R85). -/
def execLdexpF32 (d a b : BitVec 7) (s : State) : Host.Outcome State Fault Refusal :=
  commit s (laneWord { src := [one a, one b], dst := [one d] } (fun s l =>
    let md := s.mode l.f
    floatOut l d.toNat 1
      (fLdexp .f32 md (inVal .f32 md (l.f.reg a.toNat).toNat) (l.f.reg b.toNat).toInt)))

/-! ### f64, major 0x11 (03 R86) -/

/-- `add.f64` (03 R86). -/
def execAddF64 (d a b : BitVec 7) (s : State) : Host.Outcome State Fault Refusal :=
  commit s (float2 .f64 d a b (onVals2 .f64 fAdd))

/-- `sub.f64` (03 R86). -/
def execSubF64 (d a b : BitVec 7) (s : State) : Host.Outcome State Fault Refusal :=
  commit s (float2 .f64 d a b (onVals2 .f64 fSub))

/-- `mul.f64` (03 R86). -/
def execMulF64 (d a b : BitVec 7) (s : State) : Host.Outcome State Fault Refusal :=
  commit s (float2 .f64 d a b (onVals2 .f64 fMul))

/-- `fma.f64` (03 R86). -/
def execFmaF64 (d a b : BitVec 7) (s : State) : Host.Outcome State Fault Refusal :=
  commit s (float3 .f64 d a b (onVals3 .f64))

/-- `min.f64` (03 R86). -/
def execMinF64 (d a b : BitVec 7) (s : State) : Host.Outcome State Fault Refusal :=
  commit s (float2 .f64 d a b (minMax .f64 false false))

/-- `max.f64` (03 R86). -/
def execMaxF64 (d a b : BitVec 7) (s : State) : Host.Outcome State Fault Refusal :=
  commit s (float2 .f64 d a b (minMax .f64 true false))

/-- `abs.f64` (03 R86). -/
def execAbsF64 (d a : BitVec 7) (s : State) : Host.Outcome State Fault Refusal :=
  commit s (pair2 d a (fun x => x &&& 0x7FFFFFFFFFFFFFFF))

/-- `neg.f64` (03 R86). -/
def execNegF64 (d a : BitVec 7) (s : State) : Host.Outcome State Fault Refusal :=
  commit s (pair2 d a (fun x => x ^^^ 0x8000000000000000))

/-- `div.f64` (03 R86). -/
def execDivF64 (d a b : BitVec 7) (s : State) : Host.Outcome State Fault Refusal :=
  commit s (float2 .f64 d a b (onVals2 .f64 fDiv))

/-- `sqrt.f64` (03 R86). -/
def execSqrtF64 (d a : BitVec 7) (s : State) : Host.Outcome State Fault Refusal :=
  commit s (float1 .f64 d a (onVals1 .f64 fSqrt))

/-- `floor.f64` (03 R86). -/
def execFloorF64 (d a : BitVec 7) (s : State) : Host.Outcome State Fault Refusal :=
  commit s (float1 .f64 d a (integral .f64 (some .rdn)))

/-- `ceil.f64` (03 R86). -/
def execCeilF64 (d a : BitVec 7) (s : State) : Host.Outcome State Fault Refusal :=
  commit s (float1 .f64 d a (integral .f64 (some .rup)))

/-- `trunc.f64` (03 R86). -/
def execTruncF64 (d a : BitVec 7) (s : State) : Host.Outcome State Fault Refusal :=
  commit s (float1 .f64 d a (integral .f64 (some .rtz)))

/-- `rint.f64` (03 R86). -/
def execRintF64 (d a : BitVec 7) (s : State) : Host.Outcome State Fault Refusal :=
  commit s (float1 .f64 d a (integral .f64 none))

/-! ### f16x2 and bf16x2, majors 0x12 and 0x13 (03 R86) -/

/-- `add.f16x2` (03 R86). -/
def execAddF16x2 (d a b : BitVec 7) (s : State) : Host.Outcome State Fault Refusal :=
  commit s (packed2 .f16 d a b (onVals2 .f16 fAdd))

/-- `sub.f16x2` (03 R86). -/
def execSubF16x2 (d a b : BitVec 7) (s : State) : Host.Outcome State Fault Refusal :=
  commit s (packed2 .f16 d a b (onVals2 .f16 fSub))

/-- `mul.f16x2` (03 R86). -/
def execMulF16x2 (d a b : BitVec 7) (s : State) : Host.Outcome State Fault Refusal :=
  commit s (packed2 .f16 d a b (onVals2 .f16 fMul))

/-- `fma.f16x2` (03 R86). -/
def execFmaF16x2 (d a b : BitVec 7) (s : State) : Host.Outcome State Fault Refusal :=
  commit s (packed3 .f16 d a b)

/-- `min.f16x2` (03 R86). -/
def execMinF16x2 (d a b : BitVec 7) (s : State) : Host.Outcome State Fault Refusal :=
  commit s (packed2 .f16 d a b (minMax .f16 false false))

/-- `max.f16x2` (03 R86). -/
def execMaxF16x2 (d a b : BitVec 7) (s : State) : Host.Outcome State Fault Refusal :=
  commit s (packed2 .f16 d a b (minMax .f16 true false))

/-- `add.bf16x2` (03 R86). -/
def execAddBf16x2 (d a b : BitVec 7) (s : State) : Host.Outcome State Fault Refusal :=
  commit s (packed2 .bf16 d a b (onVals2 .bf16 fAdd))

/-- `sub.bf16x2` (03 R86). -/
def execSubBf16x2 (d a b : BitVec 7) (s : State) : Host.Outcome State Fault Refusal :=
  commit s (packed2 .bf16 d a b (onVals2 .bf16 fSub))

/-- `mul.bf16x2` (03 R86). -/
def execMulBf16x2 (d a b : BitVec 7) (s : State) : Host.Outcome State Fault Refusal :=
  commit s (packed2 .bf16 d a b (onVals2 .bf16 fMul))

/-- `fma.bf16x2` (03 R86). -/
def execFmaBf16x2 (d a b : BitVec 7) (s : State) : Host.Outcome State Fault Refusal :=
  commit s (packed3 .bf16 d a b)

/-- `min.bf16x2` (03 R86). -/
def execMinBf16x2 (d a b : BitVec 7) (s : State) : Host.Outcome State Fault Refusal :=
  commit s (packed2 .bf16 d a b (minMax .bf16 false false))

/-- `max.bf16x2` (03 R86). -/
def execMaxBf16x2 (d a b : BitVec 7) (s : State) : Host.Outcome State Fault Refusal :=
  commit s (packed2 .bf16 d a b (minMax .bf16 true false))

/-! ### Conversions, major 0x14 (03 R88 R89) -/

/-- The scalar element type and the elements in a register for a type code: packed types repeat a scalar
type (01 R23). -/
def cvtElem (c : Nat) : Nat × Nat :=
  match c with
  | 14 => (8, 2)
  | 15 => (9, 2)
  | 16 => (12, 4)
  | 17 => (13, 4)
  | _ => (c, 1)

/-- The bits that an element takes in its registers: packed elements stand side by side, a scalar fills
a register or, for i64, n64 and f64, a pair (03 R88, 01 R12 R23). -/
def cvtBits (c : Nat) : Nat :=
  match c with
  | 6 => 64
  | 7 => 64
  | 11 => 64
  | 14 => 16
  | 15 => 16
  | 16 => 8
  | 17 => 8
  | _ => 32

/-- The number of elements that a conversion moves: that of its packed type with the most elements. -/
def cvtCount (src dst : Nat) : Nat := max (cvtElem src).2 (cvtElem dst).2

/-- The register operand of a side of a conversion (03 R88). -/
def cvtOpd (c n : Nat) (r : BitVec 7) : Opd :=
  let k := cvtBits c * n / 32
  { r := r.toNat, n := max k 1, al := max k 1 }

/-- The results of the elements of a conversion from element `i` on, with the conditions merged. -/
def cvtElems (ovt : BitVec 16) (md : FMode) (src dst w : Nat) : Nat → Nat → FRes
  | 0, _ => { bits := 0 }
  | n + 1, i =>
    let e := convert ovt md (.ofCode (cvtElem src).1) (.ofCode (cvtElem dst).1)
      (w / 2 ^ (cvtBits src * i) % 2 ^ cvtBits src)
    let r := cvtElems ovt md src dst w n (i + 1)
    { bits := e.bits * 2 ^ (cvtBits dst * i) + r.bits, cond := e.cond.merge r.cond }

/-- `cvt`; `s` is the source type and `t` the destination type (03 R88 R89). -/
def execCvt (d a : BitVec 7) (s : BitVec 5) (t : BitVec 5) (st : State) :
    Host.Outcome State Fault Refusal :=
  let n := cvtCount s.toNat t.toNat
  let rd := cvtOpd t.toNat n d
  let ra := cvtOpd s.toNat n a
  commit st (laneWord { src := [ra], dst := [rd] } (fun q l =>
    floatOut l d.toNat rd.n
      (cvtElems (ctlOvt l.x.ctl) (q.mode l.f) s.toNat t.toNat (l.f.val a.toNat ra.n) n 0)))

/-! ### Dot products, major 0x15 (03 R90) -/

/-- The exact sum of an accumulator and products, rounded once to f32; a product 0 x infinity is
invalid (03 R90, 00 R8). -/
def dotSum (md : FMode) (acc : FV) (l : List (FV × FV)) : FRes :=
  let ps := l.map (fun e => fvMul e.1 e.2)
  let s := exactSum md.mode (acc :: ps.map (fun e => e.val))
  withInputs (acc :: (l.map (fun e => e.1) ++ l.map (fun e => e.2)))
    (finishSum .f32 md { s with invalid := s.invalid || ps.any (fun e => e.invalid) })

/-- A floating dot product of `n` elements of `w` bits; the accumulator is vd (03 R90). -/
def dotWord (t : Fmt) (n : Nat) (d a b : BitVec 7) : Act :=
  laneWord { src := [one a, one b, one d], dst := [one d] } (fun s l =>
    let md := s.mode l.f
    let fz := md.fzi && t.flushes
    let el := fun (r : BitVec 7) i =>
      FV.of t (t.flushIn fz ((l.f.reg r.toNat).toNat / 2 ^ (32 / n * i) % 2 ^ t.width))
    floatOut l d.toNat 1 (dotSum md (inVal .f32 md (l.f.reg d.toNat).toNat)
      ((List.range n).map (fun i => (el a i, el b i)))))

/-- An integer dot product: the bytes are read by `g`; the sum is taken modulo 2^32 (03 R90). -/
def dotInt (g : Nat → Int) (d a b : BitVec 7) : Act :=
  laneWord { src := [one a, one b, one d], dst := [one d] } (fun _ l =>
    let by_ := fun (r : BitVec 7) i => g ((l.f.reg r.toNat).toNat / 2 ^ (8 * i) % 2 ^ 8)
    .ok (l.f.set d.toNat (l.f.reg d.toNat + BitVec.ofInt 32
      ((List.range 4).foldl (fun z i => z + by_ a i * by_ b i) 0))))

/-- `dot2.f16x2` (03 R90). -/
def execDot2F16x2 (d a b : BitVec 7) (s : State) : Host.Outcome State Fault Refusal :=
  commit s (dotWord .f16 2 d a b)

/-- `dot2.bf16x2` (03 R90). -/
def execDot2Bf16x2 (d a b : BitVec 7) (s : State) : Host.Outcome State Fault Refusal :=
  commit s (dotWord .bf16 2 d a b)

/-- `dot4.e4m3x4` (03 R90). -/
def execDot4E4m3x4 (d a b : BitVec 7) (s : State) : Host.Outcome State Fault Refusal :=
  commit s (dotWord .fp8 4 d a b)

/-- `dot4.i8x4` (03 R90). -/
def execDot4I8x4 (d a b : BitVec 7) (s : State) : Host.Outcome State Fault Refusal :=
  commit s (dotInt (fun x => sextN x 8) d a b)

/-- `dot4.n8x4` (03 R90). -/
def execDot4N8x4 (d a b : BitVec 7) (s : State) : Host.Outcome State Fault Refusal :=
  commit s (dotInt (fun x => (x : Int)) d a b)

end Sys2Proof.Machine
end

