-- ==== Sys2Proof/Machine/Control.lean ====
section
/-! DEFINITION. Control flow of a fibre: branches, calls and indirect jumps, `card`, the decision
queue, `wait`, hints and `brk` (03 R83, 04 R97-R105, R111, R112, 06 R163). -/

namespace Sys2Proof.Machine

open Sys2Proof

/-! ### Transfers -/

/-- The fall-through address of the issuing strand's clause (04 R99). -/
def Strand.fall (x : Strand) (bytes : Nat) : VAddr :=
  match x.clause with
  | some c => c.fall
  | none => x.pos.pc + BitVec.ofNat 51 bytes

/-- A direct target: the clause header plus four times the offset (02 R49). -/
def Strand.target {w : Nat} (x : Strand) (off : BitVec w) : VAddr :=
  x.pos.hdr + BitVec.ofInt 51 (4 * off.toInt)

/-- The issuing strand with its key. -/
def State.issuing (s : State) : Option (Nat × Strand) :=
  match s.cur.who with
  | some (.strand n) => (tget s.strands n).map (fun x => (n, x))
  | _ => none

/-- The fibres of a strand are filed at their places: a reform point (06 R158). -/
def refile (n : Nat) (ds : List (Nat × Pos)) : Act := fun p =>
  forEach ds (fun e q => fileFibre e.1 (modFibre e.1 (fun f => { f with pos := e.2 }) q))
    (leaveStrand n (ds.map (fun e => e.1)) p)

/-- The watchdogs of the strand's skeins return to 0 when a word retires (16 R395). -/
def kickStrand (n : Nat) : Act := fun p =>
  match tget p.now.strands n with
  | some x => forEach (skeinsOf (p.now.strandFibres x)) kickDog p
  | none => p

/-- A control transfer retires: each fibre of the strand with its next address. Lanes that agree stay
together; a divergent transfer is a reform point (04 R98). -/
def transfer (n : Nat) (ds : List (Nat × Pos)) : Act := fun p =>
  let p := kickStrand n p
  match ds with
  | [] => p
  | (_, a) :: r =>
    if r.all (fun e => e.2.pc == a.pc) then
      forEach ds (fun e => modFibre e.1 (fun f => { f with pos := e.2 }))
        (modStrand n (fun x => { x with
          pos := posAt a.pc, clause := none, since := p.now.time, missed := false, waits := false
          yields := x.asksYield }) p)
    else refile n ds p

/-- Where a lane goes on: at the target of a transfer that it takes, or behind the clause. -/
def Strand.goesTo (x : Strand) (bytes : Nat) (take : Bool) (t : VAddr) : Pos :=
  if take then posTo t else posAt (x.fall bytes)

/-- The truth of a guard in a lane (04 R101). -/
def guardOf {w : Nat} (f : Fibre) (p : BitVec 3) (neg : BitVec w) : Bool :=
  f.pred p.toNat != (neg != 0)

/-- A branch word of a fibre: it has no register operands. -/
def branchWord (body : Nat → Strand → List Lane → Act) : Act :=
  fibreWord {} anyone (fun n lanes p =>
    match tget p.now.strands n with
    | some x => body n x lanes p
    | none => p)

/-- Each lane goes to the target or falls through (04 R101). -/
def branchBy (n : Nat) (x : Strand) (lanes : List Lane) (t : VAddr) (take : Lane → Bool) : Act := fun p =>
  transfer n (lanes.map (fun l => (l.k, x.goesTo (wordBytes p.now) (take l) t))) p

/-- `bra` (04 R101). -/
def execBra (p : BitVec 3) (n : BitVec 1) (o : BitVec 22) (s : State) :
    Host.Outcome State Fault Refusal :=
  commit s (branchWord (fun k x lanes => branchBy k x lanes (x.target o) (fun l => guardOf l.f p n)))

/-- sr.ctl.DEMOTE in every skein of the strand (01 R20). -/
def demotes (lanes : List Lane) : Bool := lanes.all (fun l => bitOf l.x.ctl.toNat 22)

/-- A demoted asserted-uniform branch counts in sr.slip of every fibre of the strand (01 R17). -/
def countSlip (lanes : List Lane) : Act :=
  forEach lanes (fun l => modFibre l.k (fun f => { f with slip := f.slip + 1 }))

/-- An asserted-uniform transfer: uniform lanes go on together; otherwise it is demoted or every fibre
of the strand takes UNIFORMITY (04 R101 R104). -/
def asserted (n : Nat) (ds : List (Nat × Pos)) (lanes : List Lane) (uniform : Bool) (detail : Nat) :
    Act :=
  if uniform then transfer n ds
  else if demotes lanes then fun p => transfer n ds (countSlip lanes p)
  else trapWord { cause := .uniformity, detail := detail, mask := maskOf lanes }

/-- All elements of a list are equal. -/
def allEqual {α : Type} [BEq α] : List α → Bool
  | [] => true
  | a :: r => r.all (fun b => b == a)

/-- `bru.p` (04 R101). -/
def execBruP (p : BitVec 3) (n : BitVec 1) (o : BitVec 14) (s : State) :
    Host.Outcome State Fault Refusal :=
  commit s (branchWord (fun k x lanes q =>
    let take := fun (l : Lane) => guardOf l.f p n
    asserted k (lanes.map (fun l => (l.k, x.goesTo (wordBytes q.now) (take l) (x.target o))))
      lanes (allEqual (lanes.map take)) 2 q))

/-- `call`: the lanes that take it write the fall-through address to v0:v1 (04 R103). -/
def execCall (p : BitVec 3) (n : BitVec 1) (o : BitVec 22) (s : State) :
    Host.Outcome State Fault Refusal :=
  commit s (branchWord (fun k x lanes q =>
    let ft := x.fall (wordBytes q.now)
    branchBy k x lanes (x.target o) (fun l => guardOf l.f p n)
      (forEach (lanes.filter (fun l => guardOf l.f p n))
        (fun l => modFibre l.k (fun f => f.setPair 0 (ft.zeroExtend 64))) q)))

/-- The trap of an indirect target: misaligned, or beyond 51 bits (04 R97). -/
def targetTrap (t : DWord) : Option Trap :=
  if t.toNat % 4 != 0 then some { cause := .misaligned, addr := t.toNat }
  else if 2 ^ 51 ≤ t.toNat then some { cause := .bounds, addr := t.toNat }
  else none

/-- An indirect transfer through a pair: its targets are checked in every lane before it goes. -/
def indirect (a : BitVec 7) (dst : List Opd)
    (body : Nat → Strand → List Lane → List (Nat × Pos) → Act) : Act :=
  fibreWord { src := [two a], dst := dst } anyone (fun n lanes p =>
    match tget p.now.strands n with
    | none => p
    | some x =>
      match worstTrap (lanes.filterMap (fun l =>
        (targetTrap (l.f.pair a.toNat)).map (fun t => { t with mask := l.bit }))) with
      | some t => trapWord t p
      | none => body n x lanes (lanes.map (fun l => (l.k, posTo ((l.f.pair a.toNat).setWidth 51)))) p)

/-- `jmp` (04 R104). -/
def execJmp (a : BitVec 7) (s : State) : Host.Outcome State Fault Refusal :=
  commit s (indirect a [] (fun n _ _ ds => transfer n ds))

/-- `ret`: as `jmp` (04 R104). -/
def execRet (a : BitVec 7) (s : State) : Host.Outcome State Fault Refusal :=
  commit s (indirect a [] (fun n _ _ ds => transfer n ds))

/-- `callr`: the target is read before the link is written (04 R104). -/
def execCallr (d a : BitVec 7) (s : State) : Host.Outcome State Fault Refusal :=
  commit s (indirect a [two d] (fun n x lanes ds p =>
    let ft := x.fall (wordBytes p.now)
    transfer n ds (forEach lanes
      (fun l => modFibre l.k (fun f => f.setPair d.toNat (ft.zeroExtend 64))) p)))

/-- `jmp.u` (04 R104). -/
def execJmpU (a : BitVec 7) (s : State) : Host.Outcome State Fault Refusal :=
  commit s (indirect a [] (fun n _ lanes ds =>
    asserted n ds lanes (allEqual (ds.map (fun e => e.2.pc))) 3))

/-- `card`: every fibre is filed at the fall-through address (04 R105). -/
def execCard (s : State) : Host.Outcome State Fault Refusal :=
  commit s (branchWord (fun n x lanes p =>
    refile n (lanes.map (fun l => (l.k, posAt (x.fall (wordBytes p.now))))) (kickStrand n p)))

/-! ### Waiting -/

/-- A context stops for `halt` where it stands (04 R118). -/
def haltFibre (k : Nat) (w : Option (Wait × Pos)) : Act :=
  modFibre k (fun f => { f with run := .halted w, clause := none })

/-- The word waits, as `wait` says. Fibres and a front context of a halted skein stop at it (04 R118). -/
def waitHere (wait : Act) : Act := fun p =>
  match p.now.cur.who with
  | some (.strand n) =>
    match tget p.now.strands n with
    | none => p
    | some x =>
      let hs := (p.now.lanes x).filter (fun l => l.x.halted)
      if hs.isEmpty then wait p
      else forEach hs (fun l => haltFibre l.k none) (leaveStrand n (hs.map (fun l => l.k)) p)
  | some (.front k) =>
    match tget p.now.skeins k with
    | some x => if x.halted then modFront k (fun f => { f with run := .halted, clause := none }) p else p
    | none => p
  | none => p

/-- The word waits for one of the things for which a slot exchanges its strand (06 R160). -/
def stallAt : Act := waitHere stall

/-- The word waits for something else. -/
def holdAt : Act := waitHere hold

/-- The fibre waits for LD to fall to a bound that its poisoned loads alone exceed (05 R149). -/
def Fibre.poisonBlocks (f : Fibre) (bound : Nat) : Option Load :=
  if bound < (f.loads.filter (fun y => y.poisoned)).length then f.loads.find? (fun y => y.poisoned)
  else none

/-- The counters of a fibre and its skein lie within the bounds; 15 and 7 mean no bound
(02 R42, 04 R111). -/
def withinBounds (f : Fibre) (x : Skein) (ld st cp tl : Nat) : Bool :=
  f.ld ≤ ld && f.st ≤ st && x.cp ≤ cp && x.tl ≤ tl

/-- `wait` (04 R111). In a front context LD and ST have to be 15. -/
def execWait (l st : BitVec 4) (c t : BitVec 3) (s : State) : Host.Outcome State Fault Refusal :=
  commit s (bothWord
    (fibreWord {} anyone (fun n lanes p =>
      match lanes.filterMap (fun y => (y.f.poisonBlocks l.toNat).map (fun e => (y, e))) with
      | [] =>
        if lanes.all (fun y => withinBounds y.f y.x l.toNat st.toNat c.toNat t.toNat) then retire p
        else stallAt p
      | ps => trapPoison n ps p))
    (frontWord [] anyone (fun _ x p =>
      if l != 15 || st != 15 then trapWord { cause := .illegalField } p
      else if x.cp ≤ c.toNat && x.tl ≤ t.toNat then retire p
      else stallAt p)))

/-! ### Hints and `brk` -/

/-- A word without effect in either context. -/
def idleWord : Act := bothWord (fibreWord {} anyone (fun _ _ => retire)) (frontWord [] anyone (fun _ _ => retire))

/-- `nop` (04 R112). -/
def execNop (s : State) : Host.Outcome State Fault Refusal := commit s idleWord

/-- `yield`: the slot may exchange the strand before its next word (04 R112, 06 R160). -/
def execYield (s : State) : Host.Outcome State Fault Refusal :=
  commit s (bothWord
    (fibreWord {} anyone (fun n _ p => modStrand n (fun x => { x with yields := true }) (retire p)))
    (frontWord [] anyone (fun _ _ => retire)))

/-- A trap that the word itself asks for, in either context (04 R112 R114). -/
def askedTrap (c : Cause) (detail : Nat) : Act :=
  bothWord
    (fibreWord {} anyone (fun _ lanes => trapWord { cause := c, detail := detail, mask := maskOf lanes }))
    (frontWord [] anyone (fun _ _ => trapWord { cause := c, detail := detail }))

/-- `brk` (04 R112). -/
def execBrk (c : BitVec 16) (s : State) : Host.Outcome State Fault Refusal :=
  commit s (askedTrap .breakpoint (c.toNat % 256))

/-- `trap` (04 R114). -/
def execTrap (c : BitVec 8) (s : State) : Host.Outcome State Fault Refusal :=
  commit s (askedTrap .userTrap c.toNat)

/-! ### The decision queue (06 R163) -/

/-- The entry at a fibre's cursor, once it has been pushed. -/
def Skein.decision (x : Skein) (f : Fibre) : Option Decision :=
  if f.cursor < x.dqBase then none else x.dq[f.cursor - x.dqBase]?

/-- The lowest cursor among the live fibres of a skein. -/
def State.lowCursor (s : State) (sk : Nat) : Option Nat :=
  (s.fibresOf sk).foldl (fun m k =>
    match tget s.fibres k, m with
    | some f, some c => some (min f.cursor c)
    | some f, none => some f.cursor
    | none, _ => m) none

/-- Entries that every live fibre's cursor has passed are freed (06 R163). -/
def freeDecisions (sk : Nat) : Act := fun p =>
  modSkein sk (fun x =>
    let n := match p.now.lowCursor sk with
      | some c => min (c - x.dqBase) x.dq.length
      | none => x.dq.length
    { x with
      dq := x.dq.drop n
      dqBase := x.dqBase + n }) p

/-- The active lanes with the entries that they read; none while one has not been pushed. -/
def decisionsOf (lanes : List Lane) : Option (List (Lane × Decision)) :=
  (lanes.filter (fun l => l.on)).foldr (fun l acc =>
    match acc, l.x.decision l.f with
    | some r, some e => some ((l, e) :: r)
    | _, _ => none) (some [])

/-- The trap of a tag that differs from the entry's (03 R83, 04 R101). -/
def decisionTrap (tag : BitVec 7) (l : List (Lane × Decision)) : Option Trap :=
  worstTrap ((l.filter (fun e => e.2.tag != tag)).map (fun e =>
    { cause := .decisionMismatch, mask := e.1.bit,
      detail := e.2.tag.toNat + (if e.2.taken then 128 else 0) }))

/-- The cursors of some fibres advance, and entries all have passed are freed. -/
def advance (l : List (Lane × Decision)) : Act := fun p =>
  let p := forEach l (fun e => modFibre e.1.k (fun f => { f with cursor := f.cursor + 1 })) p
  forEach (l.foldl (fun m e => sadd m e.1.f.sk) []) freeDecisions p

/-- `dqpop` (03 R83). -/
def execDqpop (d t : BitVec 7) (s : State) : Host.Outcome State Fault Refusal :=
  let rg : Regs := { dst := [one d] }
  commit s (fibreWord rg anyone (fun _ lanes p =>
    match decisionsOf lanes with
    | none => stallAt p
    | some es =>
      match decisionTrap t es with
      | some u => trapWord u p
      | none =>
        let p := forEach es (fun e => modFibre e.1.k (fun f => f.set d.toNat e.2.value)) p
        let p := forEach (lanes.filter (fun l => l.act == .zero))
          (fun l => modFibre l.k rg.zeroed) p
        retire (advance es p)))

/-- `bru.d` (04 R101). -/
def execBruD (t : BitVec 7) (o : BitVec 14) (s : State) : Host.Outcome State Fault Refusal :=
  commit s (branchWord (fun n x lanes p =>
    match decisionsOf lanes with
    | none => stallAt p
    | some es =>
      match decisionTrap t es with
      | some u => trapWord u p
      | none =>
        transfer n (es.map (fun e =>
          (e.1.k, x.goesTo (wordBytes p.now) e.2.taken (x.target o)))) (advance es p)))

end Sys2Proof.Machine
end

