-- ==== Sys2Proof/Machine/CrossLane.lean ====
section
/-! DEFINITION. Cross-lane words, majors 0x18-0x1A: gathering, shuffles, reductions and votes
(03 R91-R96). -/

namespace Sys2Proof.Machine

open Sys2Proof

/-! ### Members (03 R91) -/

/-- Member mask `i` of a fibre; m0 is the lane block (01 R10). -/
def Fibre.mask (f : Fibre) (block : DWord) (i : Nat) : DWord := if i = 0 then block else tgetD f.m i 0

/-- M(f): the mask AND m0, with the fibre's own lane (03 R91). -/
def memberSet (f : Fibre) (x : Skein) (i : Nat) : DWord :=
  let block := laneBlock x.lane0 x.lr.span
  (f.mask block i &&& block) ||| laneBit f.lane.toNat

/-- The row of a fibre (03 R91). -/
def rowOf (f : Fibre) (x : Skein) : Nat := f.idx.toNat / x.lr.span

/-- The members of a fibre: the live fibres of its skein and row in the lanes of a set (03 R91). -/
def State.members (s : State) (f : Fibre) (x : Skein) (m : DWord) : List (Nat × Fibre) :=
  s.fibres.filter (fun e => e.2.sk == f.sk && rowOf e.2 x == rowOf f x && m.getLsbD e.2.lane.toNat)

/-- The gathering at which a fibre waits. -/
def Fibre.gathering (f : Fibre) : Option Gather :=
  match f.run with
  | .gather g => some g
  | _ => none

/-! ### The operations -/

/-- The registers of a cross-lane word (02 R50). -/
def XOp.regs : XOp → Regs
  | .shfl _ d a b =>
    { src := [{ r := a, n := 1, al := 1 }, { r := b, n := 1, al := 1 }],
      dst := [{ r := d, n := 1, al := 1 }] }
  | .red _ d a => { src := [{ r := a, n := 1, al := 1 }], dst := [{ r := d, n := 1, al := 1 }] }
  | .ballot d _ => { dst := [{ r := d, n := 2, al := 2 }] }
  | .any d _ => { pdst := [d] }
  | .all d _ => { pdst := [d] }
  | .uni d a => { src := [{ r := a, n := 1, al := 1 }], pdst := [d] }

/-- The lane whose value a shuffle takes, if it lies in the lane block (03 R94). -/
def shuffleSource (kind lane lane0 span d : Nat) : Option Nat :=
  match kind with
  | 0 => some (lane0 + d % span)
  | 1 => if lane0 + d ≤ lane then some (lane - d) else none
  | 2 => if lane + d < lane0 + span then some (lane + d) else none
  | _ => some (lane0 + ((lane - lane0) ^^^ (d % span)))

/-- A reduction of two 32-bit values (03 R95). -/
def reduce2 (op : Nat) (x y : Word) : Word :=
  match op with
  | 0 => x + y
  | 1 => if y.slt x then y else x
  | 2 => if x.slt y then y else x
  | 3 => if y.ult x then y else x
  | 4 => if x.ult y then y else x
  | 5 => x &&& y
  | 6 => x ||| y
  | _ => x ^^^ y

/-- min.f32 or max.f32 over all members; a NaN result is the canonical one (03 R95). -/
def reduceExtreme (larger : Bool) : List Nat → Nat
  | [] => 0
  | w :: r =>
    let v := r.foldl (fun m x => (fMinMax .f32 larger false m x).bits) w
    if FV.of .f32 v == .nan then Fmt.f32.nanPat else v

/-- The result of a reduction in a lane (03 R95). -/
def reduceLane (op : Nat) (vals : List Word) (rs d : Nat) (l : Lane) : LaneOut :=
  let fv := vals.map f32v
  if op < 8 then
    match vals with
    | [] => .ok l.f
    | w :: r => .ok (l.f.set d (r.foldl (reduce2 op) w))
  else if op = 8 then
    let md : FMode := { mode := (laneMode rs l.f.fpc).mode }
    floatOut l d 1 (withInputs fv (finishSum .f32 md (exactSum md.mode fv)))
  else
    floatOut l d 1 (withInputs fv { bits := reduceExtreme (op == 10) (vals.map (fun w => w.toNat)) })

/-- The word in one active lane, given the active lanes of the gathering (03 R93-R96). -/
def XOp.lane (op : XOp) (active : List Lane) (rs : Nat) (l : Lane) : LaneOut :=
  match op with
  | .shfl kind d a b =>
    let src := shuffleSource kind l.f.lane.toNat l.x.lane0 l.x.lr.span (bitsOf (l.f.reg b).toNat 5 0)
    let from_ := src.bind (fun n => active.find? (fun y => y.f.lane.toNat == n))
    .ok (l.f.set d ((from_.getD l).f.reg a))
  | .red o d a => reduceLane o (active.map (fun y => y.f.reg a)) rs d l
  | .ballot d p => .ok (l.f.setPair d (maskOf (active.filter (fun y => y.f.pred p))))
  | .any d p => .ok (l.f.setPred d (active.any (fun y => y.f.pred p)))
  | .all d p => .ok (l.f.setPred d (active.all (fun y => y.f.pred p)))
  | .uni d a => .ok (l.f.setPred d (allEqual (active.map (fun y => y.f.reg a))))

/-! ### Gathering (03 R92) -/

/-- The rs field of a prefix word. -/
def rsOf (w : Option Word) : Nat := ((w.map (fun x => Prefix.ofWord x.toNat)).map (fun p => p.rs.toNat)).getD 0

/-- A gathered member as a lane. -/
def gatherLane (x : Skein) (e : Nat × Fibre) (g : Gather) : Lane :=
  { k := e.1, f := e.2, x := x, act := laneAct (g.pfx.map (fun w => Prefix.ofWord w.toNat)) e.2 }

/-- Fibres that go on at one place in one clause form a strand again. -/
def regroup (core : Nat) (ls : List (Nat × Gather)) : Nat → Act
  | 0, p => p
  | n + 1, p =>
    match ls with
    | [] => p
    | (_, g) :: _ =>
      let same := fun (e : Nat × Gather) => e.2.next == g.next && e.2.clause == g.clause
      regroup core (ls.filter (fun e => !same e)) n
        (formStrand core ((ls.filter same).map (fun e => e.1)) g.next g.clause p)

/-- The gathered members issue the word once, as one strand, or trap as one (03 R92 R93). -/
def issueGathered (x : Skein) (ms : List (Nat × Fibre × Gather)) (op : XOp) : Act := fun p =>
  let ls := ms.map (fun e => (gatherLane x (e.1, e.2.1) e.2.2, e.2.2))
  let active := (ls.map (fun e => e.1)).filter (fun l => l.on)
  let outs := ls.map (fun e => (e.1, e.2, e.1.result op.regs (op.lane active (rsOf e.2.pfx))))
  match worstTrap (outs.filterMap (fun o => o.2.2.trap.map (fun t => { t with mask := o.1.bit }))) with
  | some t => forEach outs (fun o => trapFibre o.1.k t o.1.f.pos o.2.1.word o.2.1.pfx) p
  | none =>
    let p := forEach outs (fun o q => q.emit (.fibre o.1.k o.2.2.f)) p
    let p := match ms with
      | (_, f, _) :: _ => kickDog f.sk p
      | [] => p
    regroup x.core (ms.map (fun e => (e.1, e.2.2))) ms.length p

/-- Decide the gathering of a fibre: when every member waits, the members issue the word if they wait at
one PC with one member set, and otherwise all waiting members take UNIFORMITY (03 R92). -/
def decideGather (k : Nat) : Act := fun p =>
  match tget p.now.fibres k with
  | none => p
  | some f =>
    match f.gathering, tget p.now.skeins f.sk with
    | some g, some x =>
      let ms := p.now.members f x g.members
      let ws := ms.filterMap (fun e => e.2.gathering.map (fun h => (e.1, e.2, h)))
      if ws.length < ms.length then p
      else if ws.all (fun e => e.2.1.pos.pc == f.pos.pc && e.2.2.members == g.members) then
        issueGathered x ws g.op p
      else
        let t : Trap := { cause := .uniformity, detail := 1, mask := lanesOf ms }
        forEach ws (fun e => trapFibre e.1 t e.2.1.pos e.2.2.word e.2.2.pfx) p
    | _, _ => p

/-- Decide every gathering of a skein again (03 R92: when a member exits). -/
def regather (sk : Nat) : Act := fun p => forEach (p.now.fibresOf sk) decideGather p

/-- A fibre of a halted skein that waits at a cross-lane word stops there (04 R118). -/
def haltGather (k : Nat) : Act := fun p =>
  match tget p.now.fibres k with
  | none => p
  | some f =>
    match f.gathering, tget p.now.skeins f.sk with
    | some _, some x => actIf x.halted (haltFibre k none) p
    | _, _ => p

/-- A cross-lane word: the fibres leave their strand and wait at the word, each with its member set. The
gatherings of the arriving fibres are decided first, in ascending home lane, and then those of the fibres that
already waited (03 R92; log 44). -/
def crossWord (op : XOp) (m : BitVec 3) : Act :=
  fibreWord op.regs anyone (fun n lanes p =>
    match tget p.now.strands n with
    | none => p
    | some x =>
      let np := nextPos x.pos x.clause (wordBytes p.now)
      let cl := if np.pc == np.hdr then none else x.clause
      let p := leaveStrand n x.fibs p
      let p := forEach lanes (fun l => modFibre l.k (fun f => { f with run := .gather {
        op := op
        members := memberSet f l.x m.toNat
        next := np
        clause := cl
        word := p.now.cur.word
        pfx := p.now.cur.pfx } })) p
      let p := forEach lanes (fun l => decideGather l.k) p
      let p := forEach (lanes.foldl (fun m l => sadd m l.f.sk) []) regather p
      forEach lanes (fun l => haltGather l.k) p)

/-! ### Shuffles, major 0x18 (03 R94) -/

/-- `xshfl.idx` (03 R94). -/
def execXshflIdx (d a b : BitVec 7) (m : BitVec 3) (s : State) : Host.Outcome State Fault Refusal :=
  commit s (crossWord (.shfl 0 d.toNat a.toNat b.toNat) m)

/-- `xshfl.up` (03 R94). -/
def execXshflUp (d a b : BitVec 7) (m : BitVec 3) (s : State) : Host.Outcome State Fault Refusal :=
  commit s (crossWord (.shfl 1 d.toNat a.toNat b.toNat) m)

/-- `xshfl.down` (03 R94). -/
def execXshflDown (d a b : BitVec 7) (m : BitVec 3) (s : State) : Host.Outcome State Fault Refusal :=
  commit s (crossWord (.shfl 2 d.toNat a.toNat b.toNat) m)

/-- `xshfl.xor` (03 R94). -/
def execXshflXor (d a b : BitVec 7) (m : BitVec 3) (s : State) : Host.Outcome State Fault Refusal :=
  commit s (crossWord (.shfl 3 d.toNat a.toNat b.toNat) m)

/-! ### Reductions, major 0x19 (03 R95) -/

/-- `xred` with operation 0 (03 R95). -/
def execXredAddI32 (d a : BitVec 7) (m : BitVec 3) (s : State) : Host.Outcome State Fault Refusal :=
  commit s (crossWord (.red 0 d.toNat a.toNat) m)

/-- `xred` with operation 1 (03 R95). -/
def execXredMinI32 (d a : BitVec 7) (m : BitVec 3) (s : State) : Host.Outcome State Fault Refusal :=
  commit s (crossWord (.red 1 d.toNat a.toNat) m)

/-- `xred` with operation 2 (03 R95). -/
def execXredMaxI32 (d a : BitVec 7) (m : BitVec 3) (s : State) : Host.Outcome State Fault Refusal :=
  commit s (crossWord (.red 2 d.toNat a.toNat) m)

/-- `xred` with operation 3 (03 R95). -/
def execXredMinN32 (d a : BitVec 7) (m : BitVec 3) (s : State) : Host.Outcome State Fault Refusal :=
  commit s (crossWord (.red 3 d.toNat a.toNat) m)

/-- `xred` with operation 4 (03 R95). -/
def execXredMaxN32 (d a : BitVec 7) (m : BitVec 3) (s : State) : Host.Outcome State Fault Refusal :=
  commit s (crossWord (.red 4 d.toNat a.toNat) m)

/-- `xred` with operation 5 (03 R95). -/
def execXredAnd (d a : BitVec 7) (m : BitVec 3) (s : State) : Host.Outcome State Fault Refusal :=
  commit s (crossWord (.red 5 d.toNat a.toNat) m)

/-- `xred` with operation 6 (03 R95). -/
def execXredOr (d a : BitVec 7) (m : BitVec 3) (s : State) : Host.Outcome State Fault Refusal :=
  commit s (crossWord (.red 6 d.toNat a.toNat) m)

/-- `xred` with operation 7 (03 R95). -/
def execXredXor (d a : BitVec 7) (m : BitVec 3) (s : State) : Host.Outcome State Fault Refusal :=
  commit s (crossWord (.red 7 d.toNat a.toNat) m)

/-- `xred` with operation 8 (03 R95). -/
def execXredAddF32 (d a : BitVec 7) (m : BitVec 3) (s : State) : Host.Outcome State Fault Refusal :=
  commit s (crossWord (.red 8 d.toNat a.toNat) m)

/-- `xred` with operation 9 (03 R95). -/
def execXredMinF32 (d a : BitVec 7) (m : BitVec 3) (s : State) : Host.Outcome State Fault Refusal :=
  commit s (crossWord (.red 9 d.toNat a.toNat) m)

/-- `xred` with operation 10 (03 R95). -/
def execXredMaxF32 (d a : BitVec 7) (m : BitVec 3) (s : State) : Host.Outcome State Fault Refusal :=
  commit s (crossWord (.red 10 d.toNat a.toNat) m)

/-! ### Votes, major 0x1A (03 R96) -/

/-- `ballot`; `q` is the source predicate (03 R96). -/
def execBallot (d : BitVec 7) (q m : BitVec 3) (s : State) : Host.Outcome State Fault Refusal :=
  commit s (crossWord (.ballot d.toNat q.toNat) m)

/-- `any` (03 R96). -/
def execAny (p q m : BitVec 3) (s : State) : Host.Outcome State Fault Refusal :=
  commit s (crossWord (.any p.toNat q.toNat) m)

/-- `all` (03 R96). -/
def execAll (p q m : BitVec 3) (s : State) : Host.Outcome State Fault Refusal :=
  commit s (crossWord (.all p.toNat q.toNat) m)

/-- `uni` (03 R96). -/
def execUni (p : BitVec 3) (a : BitVec 7) (m : BitVec 3) (s : State) :
    Host.Outcome State Fault Refusal :=
  commit s (crossWord (.uni p.toNat a.toNat) m)

end Sys2Proof.Machine
end

