-- ==== Sys2Proof/Machine/Physical.lean ====
section
/-! DEFINITION. The physical address map (14 R335, 16 R378), and the bytes of package memory as their points of
coherence show them: registered bytes and poison (12 R299 R304 R305, 14 R350 R351, 15 R368). -/

namespace Sys2Proof.Machine

open Sys2Proof

/-! ### Physical addresses -/

/-- A physical address of package memory (16 R378). -/
def isPackage (pa : Nat) : Bool := pa < 0x8000000000

/-- A physical address of the device-register range (16 R378). -/
def isRegister (pa : Nat) : Bool := 0xF000000000 ≤ pa && pa < 0xF100000000

/-- A physical address of host memory (16 R378). -/
def isHost (pa : Nat) : Bool := 2 ^ 51 ≤ pa && pa < 2 ^ 52

/-- The interleave domain that IDTAB gives the slice of an address (14 R335). -/
def State.domainOf (s : State) (pa : Nat) : Nat :=
  bitsOf s.idtab.toNat (2 * bitsOf pa 35 30 + 1) (2 * bitsOf pa 35 30)

/-- Bit `i` of hash3: the xor of PA[16 + 3k + i] (14 R335). -/
def hashBit (pa i : Nat) : Bool :=
  (List.range 7).foldl (fun b k => b ^^ (16 + 3 * k + i ≤ 35 && bitOf pa (16 + 3 * k + i))) false

/-- hash3 (14 R335). -/
def hash3 (pa : Nat) : Nat :=
  (hashBit pa 0).toNat + 2 * (hashBit pa 1).toNat + 4 * (hashBit pa 2).toNat

/-- The stack that holds an address of package memory (14 R335). -/
def State.stackOf (s : State) (pa : Nat) : Nat :=
  match s.domainOf pa with
  | 0 => 2 * bitsOf pa 38 37 + (bitOf pa 36 ^^ hashBit pa 0).toNat
  | 1 => bitsOf pa 38 36 ^^^ hash3 pa
  | _ => bitsOf pa 38 36

/-- The home die of an address of package memory (12 R301, 14 R335). -/
def State.homeDie (s : State) (pa : Nat) : Nat := s.stackOf pa / 2

/-- The holder die of an address: its home unless its region has moved (12 R301 R302). -/
def State.holderDie (s : State) (pa : Nat) : Nat :=
  match s.regions.find? (fun r => r.base ≤ pa && pa < r.base + r.size) with
  | some r => r.holder
  | none => s.homeDie pa

/-- The bank of an address, as a number over the package: stack, channel, pseudo-channel, bank
(14 R334 R335). -/
def State.bankOf (s : State) (pa : Nat) : Nat :=
  ((s.stackOf pa * 32 + bitsOf pa 11 7) * 2 + bitsOf pa 12 12) * 16 +
    (bitsOf pa 19 16 ^^^ bitsOf pa 23 20)

/-- The channel of an address is out of service (14 R350). -/
def State.channelDown (s : State) (pa : Nat) : Bool :=
  (s.stack (s.stackOf pa)).chdown.getLsbD (bitsOf pa 11 7)

/-- The logical row of an address in its bank (14 R335). -/
def rowOfPa (pa : Nat) : Nat := bitsOf pa 35 20

/-- The 128-byte line of an address. -/
def lineOf (pa : Nat) : Nat := pa / 128

/-! ### Registered bytes (12 R304 R305) -/

/-- A byte of a mapping's window; one that nothing has defined is a free value (07 R183; log 6). -/
def Mapping.byte (m : Mapping) (o : Nat) : Byte :=
  match tget m.bytes o with
  | some b => b
  | none => Config.freeStash m.serial o

/-- A byte of global memory at its point of coherence: the registered stash copy, or memory. -/
def State.cohByte (s : State) (pa : Nat) : Byte :=
  match tget s.regs (lineOf pa) with
  | none => s.byte pa
  | some r =>
    match tget r.offs (pa % 128), tget s.maps r.map with
    | some o, some m => m.byte o
    | _, _ => s.byte pa

/-- `n` bytes at the point of coherence. -/
def State.cohBytes (s : State) (pa : Nat) : Nat → List Byte
  | 0 => []
  | n + 1 => s.cohByte pa :: s.cohBytes (pa + 1) n

/-- How an access meets the registration of its line (12 R305). -/
inductive Reach where
  | stash (r : Reg)
  | recall
  | memory
  deriving DecidableEq, Repr

/-- Whether an access of `n` bytes is forwarded to the stash, recalls it, or goes to the L2
(12 R305, 07 R184). -/
def State.reach (s : State) (pa n : Nat) : Reach :=
  match tget s.regs (lineOf pa) with
  | none => .memory
  | some r =>
    let held := fun i => (tget r.offs ((pa + i) % 128)).isSome
    if (List.range n).all held then .stash r
    else if (List.range n).any held then .recall
    else .memory

/-! ### Poison (14 R351, 12 R300) -/

/-- The home die of an address of package memory is out of service (15 R368). -/
def State.homeGone (s : State) (pa : Nat) : Bool := isPackage pa && !s.insvc.getLsbD (s.homeDie pa)

/-- A byte of package memory is poisoned in memory: its sector is marked, or its channel or its home die is
out of service (14 R350 R351, 15 R368). -/
def State.memPoisoned (s : State) (pa : Nat) : Bool :=
  isPackage pa && ((tget s.poison (pa / 32)).isSome || s.channelDown pa || s.homeGone pa)

/-- A byte is poisoned: its sector in memory, or its stash line. -/
def State.poisonedAt (s : State) (pa : Nat) : Bool :=
  match tget s.regs (lineOf pa) with
  | none => s.memPoisoned pa
  | some r =>
    match tget r.offs (pa % 128), tget s.maps r.map with
    | some o, some m => m.poisoned.contains (o / 128)
    | _, _ => s.memPoisoned pa

/-- Some of `n` bytes are poisoned. -/
def State.poisonedIn (s : State) (pa n : Nat) : Bool := (List.range n).any (fun i => s.poisonedAt (pa + i))

/-- A byte as a unit of the package reads it at a physical address; a poisoned one is a free value (log 22). -/
def State.unitByte (s : State) (pa : Nat) : Byte :=
  if !isPackage pa then s.byte pa
  else if s.poisonedAt pa then Config.poisonByte (s.fresh + pa)
  else s.cohByte pa

/-- Bytes that a unit of the package reads at a physical address. -/
def State.physBytes (s : State) (pa n : Nat) : List Byte := (List.range n).map (fun i => s.unitByte (pa + i))

/-- The number that a unit reads there, little-endian. -/
def State.physNat (s : State) (pa n : Nat) : Nat := ofBytes (s.physBytes pa n)

end Sys2Proof.Machine
end

