-- ==== Sys2Proof/Machine/Translate.lean ====
section
/-! DEFINITION. Contexts (13 R317), buffer-table entries (05 R129), the page-table walk and the caches of
translations (05 R134 R136, 12 R308 R309). -/

namespace Sys2Proof.Machine

open Sys2Proof

/-! ### Contexts (13 R317) -/

/-- A context descriptor. -/
structure CtxDesc where
  ptroot : Nat
  btbase : Nat
  ovt : BitVec 16
  route : Nat
  demote : Bool
  mtc : Bool
  binfull : Nat
  binage : Nat
  quantum : Nat
  save : Nat
  deriving DecidableEq, Repr

/-- The descriptor of a context; none when the context is invalid (13 R317). -/
def State.descriptor (s : State) (c : Nat) : Option CtxDesc :=
  let base := s.ctxbase.toNat * 65536 + 64 * c
  let w := fun i => s.physNat (base + 8 * i) 8
  let clean := bitsOf (w 0) 14 1 == 0 && bitsOf (w 0) 63 52 == 0 &&
    bitsOf (w 1) 11 0 == 0 && bitsOf (w 1) 63 52 == 0 &&
    bitsOf (w 2) 31 30 == 0 && bitsOf (w 2) 63 40 == 0 && bitsOf (w 3) 63 32 == 0 &&
    bitsOf (w 4) 11 0 == 0 && bitsOf (w 4) 63 52 == 0 && w 5 == 0 && w 6 == 0 && w 7 == 0
  let d : CtxDesc :=
    { ptroot := bitsOf (w 0) 51 15 * 2 ^ 15, btbase := bitsOf (w 1) 51 12 * 2 ^ 12,
      ovt := BitVec.ofNat 16 (bitsOf (w 2) 15 0), route := bitsOf (w 2) 21 16,
      demote := bitOf (w 2) 22, mtc := bitOf (w 2) 23, binfull := bitsOf (w 2) 29 24,
      binage := bitsOf (w 2) 39 32, quantum := bitsOf (w 3) 31 0,
      save := bitsOf (w 4) 51 12 * 2 ^ 12 }
  if c < s.ctxcnt.toNat && bitOf (w 0) 0 && clean && ovtLegal d.ovt && d.binfull != 0 && d.binage != 0
  then some d else none

/-- sr.ctl as admission sets it (01 R20, 13 R317). -/
def ctlOf (d : CtxDesc) (sup : Bool) : DWord :=
  BitVec.ofNat 64 (d.ovt.toNat + d.route * 2 ^ 16 + d.demote.toNat * 2 ^ 22 + d.mtc.toNat * 2 ^ 23 +
    d.binfull * 2 ^ 24 + d.binage * 2 ^ 32 + sup.toNat * 2 ^ 40)

/-! ### Buffer-table entries (05 R129) -/

/-- A buffer-table entry. -/
structure Buf where
  base : Nat
  len : Nat
  rd : Bool
  wr : Bool
  at_ : Bool
  rl : Bool
  ex : Bool
  owner : Nat
  ilv : Nat
  lcls : Nat
  ceil : Nat
  trk : Bool
  rwatch : Bool
  rdev : Nat
  kslot : Nat
  ascope : Nat
  deriving DecidableEq, Repr

/-- The entry in 64 bytes; none when it is invalid (05 R129). -/
def Buf.ofBits (e : Nat) : Option Buf :=
  let b : Buf :=
    { base := bitsOf e 63 0, len := bitsOf e 127 64, rd := bitOf e 128, wr := bitOf e 129,
      at_ := bitOf e 130, rl := bitOf e 131, ex := bitOf e 132, owner := bitsOf e 151 136,
      ilv := bitsOf e 153 152, lcls := bitsOf e 155 154, ceil := bitsOf e 157 156,
      trk := bitOf e 158, rwatch := bitOf e 159, rdev := bitsOf e 173 160,
      kslot := bitsOf e 181 176, ascope := bitsOf e 184 182 }
  if bitOf e 185 && bitsOf e 135 133 == 0 && bitsOf e 175 174 == 0 && bitsOf e 511 186 == 0 &&
    b.lcls != 3 && b.ascope ≤ 5 && b.base % 128 == 0 && b.base + b.len ≤ 2 ^ 51 then some b else none

/-- The base of a context's buffer table, as a die holds it (13 R317). -/
def State.bufTable (s : State) (die ctx : Nat) : Option Nat :=
  match tget (s.die die).tables ctx with
  | some b => some b
  | none => (s.descriptor ctx).map (fun d => d.btbase)

/-- The bits of a buffer-table entry as a core reads them: the cached ones, else those in memory
(12 R308). -/
def State.bufBits (s : State) (core ctx index : Nat) : Nat :=
  match (s.core core).bufs.find? (fun c => c.ctx == ctx && c.index == index) with
  | some c => c.entry.toNat
  | none =>
    match s.bufTable (core / 64) ctx with
    | some b => s.physNat (b + 64 * index) 64
    | none => 0

/-- The buffer-table entry of a context as a core reads it. -/
def State.buf (s : State) (core ctx index : Nat) : Option Buf := Buf.ofBits (s.bufBits core ctx index)

/-- Binding `b` of a skein: its buffer-table index when it is bound (05 R128). -/
def LaunchRec.binding (r : LaunchRec) (b : Nat) : Option Nat :=
  let w := (r.binds.getD b 0).toNat
  if bitOf w 31 then some (bitsOf w 11 0) else none

/-! ### Page tables (05 R134) -/

/-- A leaf that a walk reached: its PTE, where the PTE lies, the first page that it maps, the number of pages, and
the frame of the first. -/
structure Leaf where
  pte : Nat
  at_ : Nat
  page : Nat
  size : Nat
  frame : Nat
  deriving DecidableEq, Repr

/-- The frame of a page that a leaf maps. -/
def Leaf.frameOf (l : Leaf) (page : Nat) : Nat := l.frame + (page - l.page) * 2 ^ 15

/-- A PTE has V set and its reserved bits clear. -/
def pteOk (e : Nat) : Bool := bitOf e 0 && !bitOf e 14 && bitsOf e 63 52 == 0

/-- PA[51:15] of a PTE, as an address. -/
def ptePa (e : Nat) : Nat := bitsOf e 51 15 * 2 ^ 15

/-- A frame that a leaf may name (16 R378). -/
def frameOk (pa : Nat) : Bool := isPackage pa || isRegister pa || isHost pa

/-- The PTEs of the contiguous group of an index map one run: each has V and C64 set, the attributes are equal
but for A and D, and the frames step by a page from an aligned base (05 R136). -/
def State.runAgrees (s : State) (node idx : Nat) : Bool :=
  let pte := fun i => s.physNat (node + 8 * (idx / 64 * 64 + i)) 8
  let att := fun e => (bitsOf e 11 0, bitsOf e 63 52)
  ptePa (pte 0) % 2 ^ 21 == 0 && (List.range 64).all (fun i => pteOk (pte i) && bitOf (pte i) 2 &&
    att (pte i) == att (pte 0) && ptePa (pte i) == ptePa (pte 0) + i * 2 ^ 15)

/-- The PTE that a translation of a level-3 index uses, with its index: its own, or of a disagreeing group any
other with C64 set, as the part chooses (05 R136; log 5). -/
def State.usedPte (s : State) (node idx : Nat) : Nat :=
  let first := idx / 64 * 64
  let cands := (List.range 64).filter (fun i =>
    bitOf (s.physNat (node + 8 * (first + i)) 8) 2 && first + i != idx)
  if s.runAgrees node idx || cands.isEmpty || !Config.flip s.fresh then idx
  else first + cands.getD (Config.choose s.fresh % cands.length) 0

/-- The frame that PTE `i` of a group gives the page of an index of the group: at the same distance from its own
frame as the pages have; one below address 0 is none. -/
def groupFrame (e i idx : Nat) : Nat :=
  if ptePa e + idx * 2 ^ 15 < i * 2 ^ 15 then 2 ^ 52 else ptePa e + idx * 2 ^ 15 - i * 2 ^ 15

/-- The leaf in a level-3 node. A run that agrees may be held as one translation, as the part chooses
(05 R136, 12 R308; log 5). -/
def State.leafAt (s : State) (node va : Nat) : Except WalkCause Leaf :=
  let idx := bitsOf va 26 15
  let page := va / 2 ^ 15
  let i := s.usedPte node idx
  let e := s.physNat (node + 8 * i) 8
  let f := groupFrame e i idx
  if !pteOk e || bitOf e 1 || !frameOk f then .error (.translation 3)
  else if s.runAgrees node idx && Config.flip s.fresh then
    .ok { pte := e, at_ := node + 8 * i, page := page / 64 * 64, size := 64, frame := f - page % 64 * 2 ^ 15 }
  else .ok { pte := e, at_ := node + 8 * i, page := page, size := 1, frame := f }

/-- The node that a cached next-node entry names (12 R308). -/
def State.cachedNode (s : State) (die ctx level path : Nat) : Option Nat :=
  ((s.die die).nodes.find? (fun n => n.1 == ctx && n.2.1 == level && n.2.2.1 == path)).map
    (fun n => n.2.2.2)

/-- The root of a context's page table, as a die holds it (13 R317). -/
def State.rootOf (s : State) (die ctx : Nat) : Option Nat :=
  match tget (s.die die).roots ctx with
  | some r => some r
  | none => (s.descriptor ctx).map (fun d => d.ptroot)

/-- The level-2 node of an address. -/
def State.node2 (s : State) (die ctx va : Nat) : Except WalkCause Nat :=
  match s.cachedNode die ctx 2 (bitsOf va 50 39) with
  | some n => .ok n
  | none =>
    match s.rootOf die ctx with
    | none => .error (.translation 1)
    | some root =>
      let e := s.physNat (root + 8 * bitsOf va 50 39) 8
      if !pteOk e || bitOf e 1 || bitOf e 2 then .error (.translation 1) else .ok (ptePa e)

/-- The level-3 node of an address, where its level-2 PTE names one. -/
def State.node3 (s : State) (die ctx va : Nat) : Option Nat :=
  match s.node2 die ctx va with
  | .error _ => none
  | .ok n2 =>
    let e := s.physNat (n2 + 8 * bitsOf va 38 27) 8
    if pteOk e && !bitOf e 1 && !bitOf e 2 then some (ptePa e) else none

/-- The walk of an address to its leaf (05 R134, 12 R309). -/
def State.walk (s : State) (die ctx va : Nat) : Except WalkCause Leaf :=
  match s.cachedNode die ctx 3 (bitsOf va 50 27) with
  | some n => s.leafAt n va
  | none =>
    match s.node2 die ctx va with
    | .error c => .error c
    | .ok n2 =>
      let e := s.physNat (n2 + 8 * bitsOf va 38 27) 8
      if !pteOk e || bitOf e 2 then .error (.translation 2)
      else if bitOf e 1 then
        if bitsOf e 26 15 != 0 then .error (.translation 2)
        else
          if frameOk (ptePa e) then
            .ok { pte := e, at_ := n2 + 8 * bitsOf va 38 27, page := va / 2 ^ 27 * 4096, size := 4096, frame := ptePa e }
          else .error (.translation 3)
      else s.leafAt (ptePa e) va

/-- The addresses of the PTEs that a walk reads (12 R309). -/
def State.walkReads (s : State) (die ctx va : Nat) : List Nat :=
  let l3 := fun (node : Nat) => [node + 8 * s.usedPte node (bitsOf va 26 15)]
  match s.cachedNode die ctx 3 (bitsOf va 50 27) with
  | some n => l3 n
  | none =>
    let l1 := match s.cachedNode die ctx 2 (bitsOf va 50 39), s.rootOf die ctx with
      | none, some root => [root + 8 * bitsOf va 50 39]
      | _, _ => []
    match s.node2 die ctx va with
    | .error _ => l1
    | .ok n2 => l1 ++ [n2 + 8 * bitsOf va 38 27] ++ ((s.node3 die ctx va).map l3).getD []

/-- A store or atomic to a page that is not writable or is a read duplicate (05 R134). -/
def writeProtected (pte : Nat) : Bool := !bitOf pte 4 || bitOf pte 3

/-- The interleave check of a PTE (05 R134): `ilv` is the buffer's mode, none where no buffer applies. -/
def State.interleaveFails (s : State) (pte frame : Nat) (ilv : Option Nat) : Bool :=
  let idom := bitsOf pte 9 8
  bitOf pte 10 &&
    match ilv with
    | some 3 => idom != 3
    | some i => idom != i || (isPackage frame && idom != s.domainOf frame)
    | none => isPackage frame && idom != s.domainOf frame

/-- The outcome of a walked leaf for an access to a page. -/
def State.leafCheck (s : State) (l : Leaf) (page : Nat) (write : Bool) (ilv : Option Nat) : Option WalkCause :=
  if write && writeProtected l.pte then some .writeProtect
  else if s.interleaveFails l.pte (l.frameOf page) ilv then some .interleave
  else none

/-! ### Caches of translations -/

/-- A cached translation is of a page of a context. -/
def Xlat.maps (x : Xlat) (ctx page : Nat) : Bool := x.ctx == ctx && x.page ≤ page && page < x.page + x.size

/-- The frame of a page that a cached translation maps. -/
def Xlat.frameOf (x : Xlat) (page : Nat) : Nat := x.frame + (page - x.page) * 2 ^ 15

/-- The slice of a die's cache for a page of a context (12 R308). -/
def sliceOf (ctx page : Nat) : Nat := Config.xlatSlice ctx (page / 64) % 8

/-- The cached translation of a page, in the core's cache or the die's (12 R308). -/
def State.cached (s : State) (core ctx page : Nat) : Option Xlat :=
  match (s.core core).xlats.find? (fun x => x.maps ctx page) with
  | some x => some x
  | none => (s.die (core / 64)).xlats.find? (fun x => x.maps ctx page && x.slice == sliceOf ctx page)

/-- A cached translation serves an access to a page: a write needs its D bit set and a page that may be written,
and the interleave check passes (12 R299 R308, 05 R134). -/
def State.serves (s : State) (x : Xlat) (page : Nat) (write : Bool) (ilv : Option Nat) : Bool :=
  (!write || (x.dirty && !writeProtected x.pte.toNat)) && !s.interleaveFails x.pte.toNat (x.frameOf page) ilv

/-- A list of cached entries with one more, the oldest of its slice dropped beyond a size. -/
def keepXlat (l : List Xlat) (x : Xlat) (size : Nat) : List Xlat :=
  let r := l.filter (fun y => !(y.ctx == x.ctx && y.page == x.page && y.size == x.size && y.slice == x.slice)) ++ [x]
  if size < (r.filter (fun y => y.slice == x.slice)).length then
    match r.findIdx? (fun y => y.slice == x.slice) with
    | some i => r.eraseIdx i
    | none => r
  else r

/-- The translation that a walked leaf gives, as the caches hold it. -/
def Leaf.xlat (l : Leaf) (ctx : Nat) (write : Bool) : Xlat :=
  { ctx := ctx, page := l.page, size := l.size, pte := BitVec.ofNat 64 l.pte, frame := l.frame,
    dirty := write || bitOf l.pte 13 }

/-! ### Translation for the words of a context -/

/-- What a translation answers at once: a page, a fault, or that a walk is needed. -/
inductive XlatRes where
  | page (x : Xlat)
  | fault (c : WalkCause)
  | missing
  deriving DecidableEq, Repr

/-- The fault that a finished walk keeps for an agent. -/
def Die.kept (d : Die) (a : Agent) (ctx page : Nat) : Option WalkCause :=
  (d.walks.filter (fun w => w.done && w.ctx == ctx && w.page == page)).foldl (fun o w =>
    match o with
    | some c => some c
    | none => (w.waiters.find? (fun x => x.agent == a)).bind (fun x => x.fault)) none

/-- Translate a page for an agent of a core. -/
def State.translate (s : State) (a : Agent) (core ctx va : Nat) (write : Bool) (ilv : Option Nat) :
    XlatRes :=
  match (s.die (core / 64)).kept a ctx (va / 2 ^ 15) with
  | some c => .fault c
  | none =>
    match s.cached core ctx (va / 2 ^ 15) with
    | some x => if s.serves x (va / 2 ^ 15) write ilv then .page x else .missing
    | none => .missing

/-- A walk that an access needs. -/
structure Need where
  ctx : Nat
  va : Nat
  write : Bool
  ilv : Option Nat
  deriving DecidableEq, Repr

/-! ### Translation for the units of a die -/

/-- A translation that a unit of the die makes within its step: through the caches, or by a walk of its
own (12 R309; log 12). -/
def State.xlateNow (s : State) (core ctx va : Nat) (write : Bool) (ilv : Option Nat) :
    Except WalkCause Xlat :=
  match s.cached core ctx (va / 2 ^ 15) with
  | some x => if s.serves x (va / 2 ^ 15) write ilv then .ok x else fresh
  | none => fresh
where
  /-- The walk, with its checks. -/
  fresh : Except WalkCause Xlat :=
    match s.walk (core / 64) ctx va with
    | .error c => .error c
    | .ok l =>
      match s.leafCheck l (va / 2 ^ 15) write ilv with
      | some c => .error c
      | none => .ok (l.xlat ctx write)

/-- The byte address that a translation gives. -/
def Xlat.pa (x : Xlat) (va : Nat) : Nat := x.frame + (va - x.page * 2 ^ 15)

end Sys2Proof.Machine
end

