-- ==== Sys2Proof/Machine/Coherence.lean ====
section
/-! DEFINITION. What an access does at the points of coherence: the L2 and its banks, regions, causal stamps and
write packets, registrations and their recall, and the reads and writes that reach memory (12 R298-R307,
14 R337 R351, 15 R359-R366 R372 R373). -/

namespace Sys2Proof.Machine

open Sys2Proof

/-! ### Bytes of memory (14 R351) -/

/-- A byte of a poisoned sector is overwritten. The mark goes with the whole sector: at once when one
write covers it, and as the part chooses when several writes have (14 R351; log 5). -/
def overwrite (pa : Nat) : Act := fun p =>
  match tget p.now.poison (pa / 32) with
  | none => p
  | some m =>
    let m := m ||| BitVec.ofNat 32 (2 ^ (pa % 32))
    p.emit (.poison (pa / 32) (some m))

/-- The marks of the sectors that a write of `n` bytes has touched, once it is performed. -/
def settlePoison (pa n : Nat) : Act := fun p =>
  forEach ((List.range n).foldl (fun l i => sadd l ((pa + i) / 32)) []) (fun k q =>
    match tget q.now.poison k with
    | none => q
    | some m =>
      let whole := pa ≤ 32 * k && 32 * k + 32 ≤ pa + n
      if whole || (m == 0xFFFFFFFF && Config.flip q.now.fresh) then q.emit (.poison k none) else q) p

/-- A sector is marked poisoned, in memory too (14 R351). -/
def poisonSector (k : Nat) : Act := fun p =>
  let p := if p.now.flown.contains k then modRest (fun s => { s with flown := sdel s.flown k }) p else p
  p.emit (.poison k (some 0))

/-- The marks that read bursts brought to a line go with the copy that they returned to, but for the sectors whose
bytes it has written since (14 R349). -/
def dropFlown (line : Nat) (dirty : BitVec 128) : Act := fun p =>
  let l := p.now.flown.filter (fun k => k / 4 == line)
  if l.isEmpty then p
  else
    let p := forEach (l.filter (fun k => dirty >>> (32 * (k % 4)) &&& 0xFFFFFFFF == 0)) (fun k q =>
      q.emit (.poison k none)) p
    modRest (fun s => { s with flown := s.flown.filter (fun k => k / 4 != line) }) p

/-- Bytes written to memory itself, with the marks of their sectors. A store to a line whose home die is out
of service is discarded (15 R368). -/
def writeMem (pa : Nat) (data : List Byte) : Act := fun p =>
  if p.now.homeGone pa then p else
  let p := writeBytes pa data p
  if isPackage pa && !p.now.poison.isEmpty then
    settlePoison pa data.length (forEach (List.range data.length) (fun i => overwrite (pa + i)) p)
  else p

/-! ### The banks and the L2: what an access leaves behind -/

/-- The bank access that an L2 miss, a bypass or a writeback makes waits in bank order (14 R337). -/
def bankPush (pa op : Nat) (cls : LClass) : Act := fun p =>
  if isPackage pa then
    modBank (p.now.bankOf pa) (fun b =>
      { b with queue := b.queue ++ [{ row := rowOfPa pa, op := op, cls := cls }] }) p
  else p

/-- A line is no longer in the L2 that kept it, and the shadows of its sectors are reset (14 R349, 15 R374). -/
def leaveL2 (line : Nat) (dirty : BitVec 128) : Act := fun p =>
  modRest (fun s => { s with
    l2 := tdel s.l2 line
    shadows := s.shadows.filter (fun e => e.1 / 4 != line) }) (dropFlown line dirty p)

/-- A line leaves the L2: it is written back when dirty, under class C (12 R298, 14 R337 R340). -/
def evictLine (line : Nat) : Act := fun p =>
  match tget p.now.l2 line with
  | none => p
  | some x => leaveL2 line x.dirty (if x.dirty != 0 then bankPush (line * 128) 0 .c p else p)

/-- A die gives up its copy of a line of a read-duplicate page (12 R299). -/
def dropDup (die line : Nat) : Act := modRest (fun s =>
  let l := sdel ((tget s.dups line).getD []) die
  { s with dups := if l.isEmpty then tdel s.dups line else tput s.dups line l })

/-- The lines that the L2 of a die keeps in the set of a line, each with whether it is a duplicate
(12 R298 R299). -/
def State.l2Set (s : State) (die line : Nat) : List (Nat × Bool) :=
  let here := fun (l : Nat) => Config.l2Set l % 32768 == Config.l2Set line % 32768
  (s.l2.filter (fun e => e.2.die == die && here e.1)).map (fun e => (e.1, false)) ++
    (s.dups.filter (fun e => e.2.contains die && here e.1)).map (fun e => (e.1, true))

/-- A set of 24 lines that is full gives one up before another comes in: one that is marked first, where there is
one (05 R138, 12 R298; log 5). -/
def roomInL2 (die line : Nat) : Act := fun p =>
  let l := p.now.l2Set die line
  if l.length < 24 then p
  else
    let marked := l.filter (fun e => !e.2 && ((tget p.now.l2 e.1).map (fun x => x.first)).getD false)
    let cand := if marked.isEmpty then l else marked
    match cand[Config.choose p.now.fresh % cand.length]? with
    | none => p
    | some (k, dup) => bumpFresh (if dup then dropDup die k p else evictLine k p)

/-- A line is brought into the L2 of a die, with the marks of the bytes that its access writes (12 R298). -/
def fillLine (line die : Nat) (dirty : BitVec 128) : Act := fun p =>
  modRest (fun s => { s with l2 := tput s.l2 line { die := die, dirty := dirty } }) (roomInL2 die line p)

/-! ### Registrations (12 R304 R305) -/

/-- An access of a compute die to a region is noted for the tracking window (12 R302). -/
def trackAccess (die pa : Nat) : Act := modRest (fun s =>
  if s.regions.any (fun r => r.base ≤ pa && pa < r.base + r.size) then
    { s with regions := s.regions.map (fun r =>
        if r.base ≤ pa && pa < r.base + r.size then { r with now := sadd r.now die } else r) }
  else
    { s with regions := s.regions ++
        [{ base := pa / 65536 * 65536, size := 65536, holder := s.homeDie pa, now := [die] }] })

/-- A die that reads a line of a read-duplicate page may hold a copy of it, in its own L2; a write ends the copies
(12 R299). Agent 4 holds none. -/
def noteDup (agent : Nat) (a : Access) (write : Bool) : Act := fun p =>
  let line := lineOf a.pa
  let l := (tget p.now.dups line).getD []
  if write then (if l.isEmpty then p else modRest (fun s => { s with dups := tdel s.dups line }) p)
  else if a.rdup && a.tracked && agent < 4 && p.now.holderDie a.pa != agent && !l.contains agent then
    modRest (fun s => { s with dups := tput s.dups line (sadd l agent) }) (roomInL2 agent line p)
  else p

/-- The die that performs an access to package memory: the holder, or the home of an untracked page
(12 R299 R301). -/
def State.server (s : State) (a : Access) : Nat :=
  if a.tracked then s.holderDie a.pa else s.homeDie a.pa

/-- An access is forwarded to the stash that holds all its bytes (12 R305). -/
def State.forwards (s : State) (a : Access) : Bool :=
  a.tracked && match s.reach a.pa a.n with
    | .stash _ => true
    | _ => false

/-- The bytes of its line that an access covers. -/
def byteMask (pa n : Nat) : BitVec 128 := BitVec.ofNat 128 ((2 ^ n - 1) * 2 ^ (pa % 128))

/-- An access leaves its traces: in the tracking record of its region, where it comes from a compute die; and, unless
it is forwarded to a stash, in the L2, where the line comes in on a miss unless the policy keeps it out, is marked
first for eviction by an access at level 3, and keeps the marks of the bytes that a write changes. `agent` is
the accessing die, or 4 for the front-end die, the host and remote devices (12 R298 R302, 05 R138). -/
def noteAccess (agent : Nat) (a : Access) (write : Bool) : Act := fun p =>
  if !isPackage a.pa then p
  else
    let line := lineOf a.pa
    let cls := if a.policy = 3 then .s else a.cls
    let p := if a.tracked && agent < 4 then trackAccess agent a.pa p else p
    if p.now.forwards a then p
    else
      let p := noteDup agent a write p
      let mask := if write then byteMask a.pa a.n else 0
      match tget p.now.l2 line with
      | some x =>
        let y := { x with dirty := x.dirty ||| mask, first := x.first || a.policy == 3 }
        if y = x then p else modRest (fun s => { s with l2 := tput s.l2 line y }) p
      | none =>
        let p := bankPush a.pa 0 cls p
        if a.policy ≤ 1 then fillLine line (p.now.server a) mask p
        else actIf (!write) (dropFlown line 0) p

/-- The mode of a frame (15 R373). -/
def setMode (pa : Nat) (tracked : Bool) : Act := fun p =>
  if isPackage pa && tget p.now.modes (pa / 32768) != some tracked then
    modRest (fun s => { s with modes := tput s.modes (pa / 32768) tracked }) p
  else p

/-- An access of a unit of the package to bytes of one line, tracked and of class C (12 R309, 14 R337). -/
def unitAccess (pa n : Nat) : Access :=
  { ctx := 0, va := 0, pa := pa, n := n, tracked := true, policy := 1, cls := .c, remote := none,
    scope := 5, ascope := 0, watch := false, rdup := false }

/-- The global virtual address of a byte of a window (07 R180). -/
def Mapping.va (m : Mapping) (o : Nat) : Nat :=
  m.base + m.desc.offset + o / m.desc.flen * m.desc.stride + m.desc.foff + o % m.desc.flen

/-- The physical address of a registered byte of a window. -/
def State.regPa (s : State) (map o : Nat) : Option Nat :=
  s.regs.foldl (fun r e =>
    match r with
    | some a => some a
    | none =>
      if e.2.map = map then (e.2.offs.find? (fun x => x.2 == o)).map (fun x => e.1 * 128 + x.1)
      else none) none

/-- Where a translation for a writeback leads: not to the registers (16 R378; log 36). -/
def Xlat.backPa (x : Xlat) (va : Nat) : Except WalkCause Nat :=
  if isRegister (x.pa va) then .error .writeProtect else .ok (x.pa va)

/-- The physical address that a dirty byte is written back to. A writeback by a word, a reclaim or a
context switch translates its page for a write; a recall, which the directory makes, goes to the address that
the byte is registered for (07 R187; log 36). -/
def State.backPa (s : State) (recalled : Bool) (map : Nat) (m : Mapping) (o : Nat) :
    Except WalkCause Nat :=
  match (if recalled then s.regPa map o else none) with
  | some a => .ok a
  | none =>
    match s.xlateNow m.core m.ctx (m.va o) true (some m.ilv) with
    | .ok x => x.backPa (m.va o)
    | .error c => .error c

/-- A dirty byte that is written back: its offset in the window, its address, and whether it is registered, so that
its page is tracked. -/
structure BackByte where
  o : Nat
  pa : Nat
  tracked : Bool

/-- A dirty byte of a window goes to its address in this package's memory, with the poison of its line. -/
def putBack (m : Mapping) (b : BackByte) : Act := fun p =>
  let p := setMode b.pa b.tracked (writeMem b.pa [m.byte b.o] p)
  actIf (m.poisoned.contains (b.o / 128) && isPackage b.pa) (poisonSector (b.pa / 32)) p

/-- What the writeback of a dirty byte leaves at the L2 and in the tracking record (12 R302, 14 R337). -/
def notePutBack (m : Mapping) (b : BackByte) : Act :=
  noteAccess (m.core / 64) { unitAccess b.pa 1 with ctx := m.ctx, tracked := b.tracked } true

/-- The dirty bytes of a line of a window. -/
def Mapping.dirtyIn (m : Mapping) (line : Nat) : List Nat := m.dirty.filter (fun o => o / 128 == line)

/-- All registrations of a stash line are released. -/
def releaseLine (map line : Nat) : Act := fun p =>
  forEach (p.now.regs.filter (fun e => e.2.map == map && e.2.sline == line))
    (fun e q => q.emit (.regEnd e.1)) p

/-- A stash line is recalled: its dirty bytes are written back, its registrations released, and it is
unfilled (07 R184). Bytes whose page does not translate stay dirty. -/
def recallStash (map line : Nat) : Act := fun p =>
  match tget p.now.maps map with
  | none => p
  | some m =>
    let back := (m.dirtyIn line).filterMap (fun o => match p.now.backPa true map m o with
      | .ok pa => some ({ o := o, pa := pa, tracked := (p.now.regPa map o).isSome } : BackByte)
      | .error _ => none)
    let p := forEach back (putBack m) p
    let p := if m.poisoned.contains line then
        forEach (p.now.regs.filter (fun e => e.2.map == map && e.2.sline == line)) (fun e q =>
          forEach e.2.offs (fun o => poisonSector (4 * e.1 + o.1 / 32)) q) p
      else p
    let p := modMap map (fun y =>
      { y with
        dirty := y.dirty.filter (fun o => !back.any (fun e => e.o == o))
        filled := y.filled.filter (fun l => l != line)
        poisoned := y.poisoned.filter (fun l => l != line)
        loose := y.loose.filter (fun o => o / 128 != line) })
      (releaseLine map line p)
    forEach back (notePutBack m) p

/-- The registration of a global line is recalled (07 R184). -/
def recallLine (line : Nat) : Act := fun p =>
  match tget p.now.regs line with
  | none => p
  | some r => recallStash r.map r.sline p

/-! ### Causal stamps (15 R363 R364) -/

/-- covers(x, y) modulo 4,096. -/
def covers (x y : BitVec 12) : Bool := (x - y).toNat < 2048

/-- The merge of two counters. -/
def mergeCount (x y : BitVec 12) : BitVec 12 := if covers x y then x else y

/-- C_a[d][s]. -/
def State.count (s : State) (a d k : Nat) : BitVec 12 := tgetD (s.die a).c (5 * d + k) 0

/-- D_d[s]. -/
def State.applied (s : State) (d k : Nat) : BitVec 12 := tgetD (s.die d).d k 0

/-- Agent `k` is in service (15 R370). -/
def State.inService (s : State) (k : Nat) : Bool := s.insvc.getLsbD k

/-- Every write to die `d` that agent `a` knows of has been applied there. -/
def State.caughtUp (s : State) (a d : Nat) : Bool :=
  (List.range 5).all (fun k => !s.inService k || k == d || covers (s.applied d k) (s.count a d k))

/-- The matrix of one agent merged into another's (15 R363). -/
def learn (a from_ : Nat) : Act := fun p =>
  if a = from_ then p
  else
    let src := (p.now.die from_).c
    modDie a (fun d => { d with c := src.foldl (fun t e =>
      tputD t e.1 0 (mergeCount (tgetD t e.1 0) e.2)) d.c }) p

/-- A packet whose acceptance its sender does not yet know (15 R361). -/
def Packet.unaccepted (k : Packet) : Bool := !k.acked

/-- A core or front context has merged a write that is not yet accepted at another die. -/
def State.unaccepted (s : State) (origin : Nat) : Bool :=
  s.packets.any (fun k => k.origin == origin && k.unaccepted)

/-- It has one for a destination other than `e`, which holds up its next write (15 R361). -/
def State.heldUp (s : State) (origin e : Nat) : Bool :=
  s.packets.any (fun k => k.origin == origin && k.unaccepted && k.dst != e)

/-- The window lets another packet be sent (15 R365). -/
def State.windowOpen (s : State) (a d : Nat) : Bool :=
  (s.count a d a + 1 - tgetD (s.die a).a d 0).toNat ≤ 2048

/-- A packet that writes a byte of a line. -/
def Packet.onLine (k : Packet) (line : Nat) : Bool :=
  lineOf k.access.pa ≤ line && line ≤ lineOf (k.access.pa + k.data.length - 1)

/-- A line lies in a region whose holdership is moving: its home holds new accesses (12 R303). -/
def State.lineMoving (s : State) (line : Nat) : Bool :=
  s.regions.any (fun r => r.moving.isSome && r.base < line * 128 + 128 && line * 128 < r.base + r.size)

/-- A core has merged a write to a line that is still on its way (15 R359). -/
def State.ownHeld (s : State) (origin line : Nat) : Bool :=
  s.packets.any (fun k => k.onLine line && k.at_ != .applied && k.origin == origin)

/-- An access to a line has to wait: an accepted packet that writes it is not applied (15 R362), its holdership is
moving (12 R303), or the reader's own core has merged a write to it that is still on its way (15 R359). -/
def State.lineHeld (s : State) (origin : Option Nat) (line : Nat) : Bool :=
  s.lineMoving line || s.packets.any (fun k => k.onLine line &&
    (k.at_ == .early || (k.at_ != .applied && some k.origin == origin)))

/-- The parts of a range that lie in one line each, in ascending order, as addresses and sizes. -/
def linePieces (pa n : Nat) : List (Nat × Nat) :=
  (List.range (n / 128 + 2)).filterMap (fun i =>
    let lo := max pa ((lineOf pa + i) * 128)
    let hi := min (pa + n) ((lineOf pa + i + 1) * 128)
    if lo < hi then some (lo, hi - lo) else none)

/-- Some line of a range is held for a reader. -/
def State.rangeHeld (s : State) (origin : Option Nat) (pa n : Nat) : Bool :=
  (linePieces pa n).any (fun e => s.lineHeld origin (lineOf e.1))

/-- A read of package memory by a core has to wait: a tracked one for its line, an untracked one for the core's own
writes to the line (15 R359 R362 R372). -/
def State.readHeld (s : State) (core : Nat) (a : Access) : Bool :=
  isPackage a.pa &&
    if a.tracked then s.lineHeld (some core) (lineOf a.pa) else s.ownHeld core (lineOf a.pa)

/-- No accepted packet waits to be applied and no holdership moves: a unit of the package reads and writes memory
only then, so that no line that it meets is held (15 R362, 12 R303; log 61). -/
def State.settled (s : State) : Bool :=
  s.packets.all (fun k => k.at_ != .early) && s.regions.all (fun r => r.moving.isNone)

/-- An agent's write to a line that a die holds may be performed at once: every write to that die that the agent
knows of is applied, and the window is open (15 R364 R365; log 61). -/
def State.crossOpen (s : State) (agent d : Nat) : Bool :=
  s.caughtUp agent d && (agent = d || s.windowOpen agent d)

/-- The write packet of an agent that is sent, accepted and applied within one step: the counts of the sender and of
the holder take its stamp (15 R361 R364; log 61). -/
def crossWrite (agent d : Nat) : Act := fun p =>
  if agent = d then p
  else
    let n := p.now.count agent d agent + 1
    let stamp := (List.range 5).map (fun k => if k = agent then n else p.now.count agent d k)
    let p := modDie agent (fun x =>
      { x with
        c := tputD x.c (5 * d + agent) 0 n
        a := tputD x.a d 0 n }) p
    modDie d (fun x =>
      { x with
        d := tputD x.d agent 0 n
        c := stamp.zipIdx.foldl (fun t e =>
          tputD t (5 * d + e.2) 0 (mergeCount (tgetD t (5 * d + e.2) 0) e.1)) x.c }) p

/-! ### Reads and writes at the point of coherence -/

/-- A race-watched write leaves its shadow (15 R374). -/
def leaveShadow (a : Access) (mark : Option (Ident × DWord)) : Act := fun p =>
  match mark with
  | none => p
  | some (i, n) =>
    modRest (fun s => { s with shadows := tput s.shadows (a.pa / 32) { ctx := a.ctx, ident := i, n := n } }) p

/-- Bytes written to a registered stash line: they are dirty there (12 R305, 07 R187). -/
def writeStashCopy (r : Reg) (pa : Nat) (data : List Byte) : Act :=
  modMap r.map (fun m => (data.zipIdx).foldl (fun m e =>
    match tget r.offs ((pa + e.2) % 128) with
    | some o =>
      { m with
        bytes := tput m.bytes o e.1
        dirty := sadd m.dirty o }
    | none => m) m)

/-- A tracked write of bytes of one line at the holder: forwarded to the stash that holds all its bytes, or performed
in the L2 after a recall (12 R305). -/
def writeCoherent (pa : Nat) (data : List Byte) : Act := fun p =>
  match p.now.reach pa data.length with
  | .stash r => writeStashCopy r pa data p
  | .recall => writeMem pa data (recallLine (lineOf pa) p)
  | .memory => writeMem pa data p

/-- Bytes that a unit of the package writes at a physical address, a line at a time (12 R305, 15 R373). -/
def physWrite (pa : Nat) (data : List Byte) : Act :=
  forEach (linePieces pa data.length) (fun e p =>
    let b := (data.drop (e.1 - pa)).take e.2
    if isPackage e.1 then
      noteAccess 4 (unitAccess e.1 e.2) true (setMode e.1 true (writeCoherent e.1 b p))
    else writeMem e.1 b p)

/-- An event record (16 R391). -/
def eventBytes (typ ctx dev pa count : Nat) : List Byte :=
  bytesOf (typ + ctx * 2 ^ 16 + dev % 2 ^ 14 * 2 ^ 32) 8 ++ bytesOf (pa / 128 * 128) 8 ++ bytesOf count 8 ++
    bytesOf 0 8

/-- An event is posted to the Krytist event queue, or counted as lost when the queue is full
(16 R391 R392). -/
def postEvent (typ ctx dev pa count : Nat) : Act := fun p =>
  if p.now.eq.full then modRest (fun s => { s with eqlost := s.eqlost + 1 }) p
  else
    let p := physWrite (p.now.eq.slotAddr 32) (eventBytes typ ctx dev pa count) p
    raiseVec 0 9 (modRest (fun s => { s with eq := s.eq.push }) p)

/-- A write of an access is performed where its page says: at the holder, at the home die's L2 for an
untracked page, or in host memory. One to a line whose home die is out of service is discarded and reported
as outcome unknown (15 R368). -/
def performWrite (agent : Nat) (a : Access) (data : List Byte) (mark : Option (Ident × DWord)) :
    Act := fun p =>
  if p.now.homeGone a.pa then postEvent 1 a.ctx p.now.devnum.toNat a.pa 1 p else
  let p := if a.tracked && isPackage a.pa then writeCoherent a.pa data p else writeMem a.pa data p
  leaveShadow a mark (setMode a.pa a.tracked (noteAccess agent a true p))

/-- A write of a unit that does not send packets of its own: one to a line of another die counts as a packet that is
applied at once (15 R361 R364; log 61). -/
def performUnit (agent : Nat) (a : Access) (data : List Byte) : Act := fun p =>
  let d := p.now.server a
  let p := actIf (a.tracked && isPackage a.pa && !p.now.homeGone a.pa) (crossWrite agent d) p
  performWrite agent a data none p

/-- An access to host memory whose PCIe completion returns an error status (16 R383; log 40). -/
def State.hostError (s : State) (a : Access) : Bool := isHost a.pa && Config.hostFails s.fresh

/-- A write that goes out to memory. One whose completion from the host returns an error status is reported as
outcome unknown, and is performed or not (16 R383 R391; log 40). -/
def sendOut (a : Access) (act : Act) : Act := fun p =>
  if p.now.hostError a then
    let q := postEvent 1 a.ctx p.now.devnum.toNat a.pa 1 p
    if Config.flip p.now.fresh then act q else q
  else act p

/-- A store of a context goes out to memory. -/
def performOut (agent : Nat) (a : Access) (data : List Byte) (mark : Option (Ident × DWord)) : Act :=
  sendOut a (performWrite agent a data mark)

/-- The bytes that an access reads at its point of coherence. -/
def State.readAt (s : State) (a : Access) : List Byte :=
  if a.tracked && isPackage a.pa then s.cohBytes a.pa a.n else s.bytes a.pa a.n

/-- The bytes of an access are poisoned where it reads them. -/
def State.readsPoison (s : State) (a : Access) : Bool :=
  isPackage a.pa &&
    (if a.tracked then s.poisonedIn a.pa a.n
     else (List.range a.n).any (fun i => s.memPoisoned (a.pa + i)))

/-- What a read does at the point of coherence beside giving its bytes: a recall where it meets a
registration in part, the L2, and the matrix of the holder that the response carries to the reader's agent
(15 R363). -/
def performRead (agent : Nat) (a : Access) : Act := fun p =>
  let p := if a.tracked && isPackage a.pa && p.now.reach a.pa a.n == .recall then
      recallLine (lineOf a.pa) p else p
  let p := noteAccess agent a false p
  if isPackage a.pa && a.tracked then learn agent (p.now.server a) p else p

/-- What a read of a unit at a physical address does beside giving its bytes, a line at a time. -/
def noteUnitRead (agent pa n : Nat) : Act := fun p =>
  if n != 0 && isPackage pa then forEach (linePieces pa n) (fun e => performRead agent (unitAccess e.1 e.2)) p else p

end Sys2Proof.Machine
end

