-- ==== Sys2Proof/Machine/Walks.lean ====
section
/-! DEFINITION. The batch translation unit: page walks and their waiters, the A and D bits of a PTE, and what
the caches of translations hold (05 R134, 12 R308 R309). -/

namespace Sys2Proof.Machine

open Sys2Proof

/-- Set the A bit of a PTE, and its D bit for a write, before the access is performed: an indivisible update at the
holder (05 R134, 12 R309). Poisoned bytes stay as they are (14 R351). -/
def markPte (die at_ pte : Nat) (write : Bool) : Act := fun p =>
  let a := unitAccess at_ 8
  let e := p.now.physNat at_ 8 ||| (2 ^ 12 + if write then 2 ^ 13 else 0)
  if e == pte || p.now.readsPoison a then p else performWrite die a (bytesOf e 8) none p

/-- A die holds the page-table root of a context as it first reads it (13 R317). -/
def holdRoot (die ctx : Nat) : Act := fun p =>
  match tget (p.now.die die).roots ctx, p.now.rootOf die ctx with
  | none, some r => modDie die (fun d => { d with roots := tput d.roots ctx r }) p
  | _, _ => p

/-- A die holds the buffer-table base of a context as it first reads it (13 R317). -/
def holdTable (die ctx : Nat) : Act := fun p =>
  match tget (p.now.die die).tables ctx, p.now.bufTable die ctx with
  | none, some b => modDie die (fun d => { d with tables := tput d.tables ctx b }) p
  | _, _ => p

/-- A core holds the entry it used, at most 256 of them (12 R308). -/
def cacheBuf (core ctx index : Nat) : Act := fun p =>
  if (p.now.core core).bufs.any (fun c => c.ctx == ctx && c.index == index) then p
  else
    let e := BitVec.ofNat 512 (p.now.bufBits core ctx index)
    let p := match p.now.bufTable (core / 64) ctx with
      | some b => noteUnitRead (core / 64) (b + 64 * index) 64 (holdTable (core / 64) ctx p)
      | none => p
    modCore core (fun c =>
      let l := c.bufs ++ [{ ctx := ctx, index := index, entry := e }]
      { c with bufs := l.drop (l.length - 256) }) p

/-- The walk cache holds the next node that a PTE names, at most 1,024 of them (12 R308). -/
def holdNode (die : Nat) (n : Nat × Nat × Nat × Nat) : Act :=
  modDie die (fun d =>
    let l := d.nodes ++ [n]
    { d with nodes := l.drop (l.length - 1024) })

/-- The translation of a page held after a walk: in the die's cache and the core's, with the root and
the next nodes (12 R308). -/
def holdXlat (core ctx va : Nat) (l : Leaf) (write : Bool) : Act := fun p =>
  let die := core / 64
  let x := l.xlat ctx write
  let p := holdRoot die ctx p
  let p := match p.now.cachedNode die ctx 2 (bitsOf va 50 39), p.now.node2 die ctx va with
    | none, .ok n => holdNode die (ctx, 2, bitsOf va 50 39, n) p
    | _, _ => p
  let p := match p.now.cachedNode die ctx 3 (bitsOf va 50 27), p.now.node3 die ctx va with
    | none, some n => holdNode die (ctx, 3, bitsOf va 50 27, n) p
    | _, _ => p
  let p := modDie die (fun d =>
    { d with xlats := keepXlat d.xlats { x with slice := sliceOf ctx (va / 2 ^ 15) } 8192 }) p
  modCore core (fun c => { c with xlats := keepXlat c.xlats x 512 }) p

/-! ### Walks -/

/-- Post a walk for an agent: it joins the walk under way for its page, or starts one (12 R309). -/
def postWalk (die : Nat) (a : Agent) (n : Need) : Act :=
  modDie die (fun d =>
    let page := n.va / 2 ^ 15
    let w : WalkWaiter := { agent := a, write := n.write, ilv := n.ilv }
    let under := fun (x : Walk) => !x.done && x.ctx == n.ctx && x.page == page
    if d.walks.any under then
      { d with walks := d.walks.map (fun x =>
          if under x && !x.waiters.any (fun y => y.agent == a) then
            { x with waiters := x.waiters ++ [w] } else x) }
    else { d with walks := d.walks ++ [{ ctx := n.ctx, page := page, waiters := [w] }] })

/-- A walk that is done, with the waiters that still have a fault to take. -/
def Walk.ended (w : Walk) (l : List WalkWaiter) : Walk :=
  { w with
    done := true
    waiters := l }

/-- The walks that are under way or still have a fault to tell. -/
def keepWalks (l : List Walk) : List Walk := l.filter (fun w => !(w.done && w.waiters.isEmpty))

/-- An agent has taken what its walks found. -/
def dropWalks (die : Nat) (a : Agent) : Act := fun p =>
  if (p.now.die die).walks.any (fun w => w.done && w.waiters.any (fun x => x.agent == a)) then
    modDie die (fun d =>
      { d with walks := keepWalks (d.walks.map (fun w =>
          if w.done then w.ended (w.waiters.filter (fun x => x.agent != a)) else w)) }) p
  else p

/-- The core whose translation cache an agent uses. -/
def State.agentCore (s : State) (die : Nat) (a : Agent) : Nat :=
  match a with
  | .who (.strand n) => ((tget s.strands n).map (fun x => x.core)).getD (64 * die)
  | .who (.front k) => ((tget s.skeins k).map (fun x => x.core)).getD (64 * die)
  | .ctx (.fibre k) =>
    (((tget s.fibres k).bind (fun f => tget s.skeins f.sk)).map (fun x => x.core)).getD (64 * die)
  | .ctx (.front k) => ((tget s.skeins k).map (fun x => x.core)).getD (64 * die)
  | .chan k _ => ((tget s.skeins k).map (fun x => x.core)).getD (64 * die)
  | .tileOp k => ((tget s.skeins k).map (fun x => x.core)).getD (64 * die)
  | .admission k => ((tget s.skeins k).map (fun x => x.core)).getD (64 * die)
  | .writeback m => ((tget s.maps m).map (fun x => x.core)).getD (64 * die)

/-- The walks of a die that run: the first 256 of those that are not done, in the order of their arrival
(12 R309). -/
def Die.running (d : Die) : List Walk := (d.walks.filter (fun w => !w.done)).take 256

/-- Some PTE that a walk reads lies in a line that is held (12 R309, 15 R362). -/
def State.walkHeld (s : State) (die ctx va : Nat) : Bool :=
  (s.walkReads die ctx va).any (fun a => s.lineHeld none (lineOf a))

/-- A unit's own translation has to read PTEs, and some of them lie in a line that is held. -/
def State.xlateHeld (s : State) (core ctx va : Nat) (write : Bool) : Bool :=
  match s.cached core ctx (va / 2 ^ 15) with
  | some x => write && !x.dirty && s.walkHeld (core / 64) ctx va
  | none => s.walkHeld (core / 64) ctx va

/-- PAGE_WALK_COMPLETE: a walk under way ends, once it can read its PTEs. Waiters whose access the leaf serves find
its cached translation; the others keep their fault (12 R309). -/
def endWalk (die ctx page : Nat) : Act := fun p =>
  let under := fun (x : Walk) => !x.done && x.ctx == ctx && x.page == page
  match (p.now.die die).running.find? under with
  | none => p
  | some w =>
    let va := page * 2 ^ 15
    if p.now.walkHeld die ctx va then p
    else
    let leaf := p.now.walk die ctx va
    let p := bumpFresh (forEach (p.now.walkReads die ctx va) (fun a => noteUnitRead die a 8) (holdRoot die ctx p))
    match leaf with
    | .error c =>
      modDie die (fun d =>
        { d with walks := d.walks.map (fun x => if under x then x.ended (x.waiters.map (fun y =>
            { y with fault := some c })) else x) }) p
    | .ok l =>
      let ok := w.waiters.filter (fun y => (p.now.leafCheck l page y.write y.ilv).isNone)
      let write := ok.any (fun y => y.write)
      let bad := w.waiters.filterMap (fun y => (p.now.leafCheck l page y.write y.ilv).map (fun c =>
        { y with fault := some c }))
      let p := if ok.isEmpty then p
        else markPte die l.at_ l.pte write
          (forEach ok (fun y q => holdXlat (q.now.agentCore die y.agent) ctx va l write q) p)
      modDie die (fun d =>
        { d with walks := keepWalks (d.walks.map (fun x =>
            if under x then x.ended bad else x)) }) p

/-- PAGE_WALK_COMPLETE (12 R309). -/
def execPageWalkComplete (die ctx page : Nat) (s : State) : Host.Outcome State Fault Refusal :=
  commit s (endWalk die ctx page)

/-! ### A unit's own translation -/

/-- The PTE reads, the A and D bits and the caches after a unit's own translation (05 R134, 12 R309). -/
def usedXlat (core ctx va : Nat) (write : Bool) : Act := fun p =>
  match p.now.cached core ctx (va / 2 ^ 15) with
  | some x => if !write || x.dirty then p else again p
  | none => again p
where
  /-- Mark and hold the leaf. -/
  again : Act := fun p =>
    let reads := p.now.walkReads (core / 64) ctx va
    match p.now.walk (core / 64) ctx va with
    | .ok l =>
      forEach reads (fun a => noteUnitRead (core / 64) a 8)
        (markPte (core / 64) l.at_ l.pte write (holdXlat core ctx va l write p))
    | .error _ => p

end Sys2Proof.Machine
end

