-- ==== Sys2Proof/Machine/GlobalMem.lean ====
section
/-! DEFINITION. Writebacks of stash lines, requests to remote devices, and the loads and stores of a context
with their order (05 R137-R146, 07 R187, 15 R359, 16 R390). -/

namespace Sys2Proof.Machine

open Sys2Proof

/-! ### Requests to remote devices (16 R390) -/

/-- A request is a store of a context from a core, or an atomic that returns nothing. -/
def RemoteUse.isStore (u : RemoteUse) (ctx core : Nat) : Bool :=
  match u with
  | .store c k _ => c == ctx && k == core
  | _ => false

/-- A request goes out to a remote device and awaits its response. -/
def sendRemote (dev pa : Nat) (op : RemoteOp) (use : RemoteUse) : Act := fun p =>
  let id := p.now.nextKey
  send (.request id dev (Config.deviceInc p.now.linkups dev) pa op)
    (modRest (fun s => { s with
      nextKey := s.nextKey + 1
      remotes := tput s.remotes id { dev := dev, pa := pa, use := use, sent := s.time } }) p)

/-! ### Writeback of a stash line (07 R187) -/

/-- One dirty byte is written back; one whose page does not translate stays dirty. -/
def writeBackByte (map o : Nat) : Act := fun p =>
  match tget p.now.maps map with
  | none => p
  | some m =>
    match p.now.backPa false map m o with
    | .error _ => p
    | .ok pa =>
      let b : BackByte := { o := o, pa := pa, tracked := (p.now.regPa map o).isSome }
      let p := usedXlat m.core m.ctx (m.va o) true p
      let p := if m.ilv = 3 then sendRemote m.rdev pa (.write [m.byte o]) (.store m.ctx m.core none) p
        else notePutBack m b (putBack m b p)
      modMap map (fun y => { y with dirty := y.dirty.filter (fun i => i != o) }) p

/-! ### The loads and stores of a context -/

/-- The core of a context. -/
def State.coreOf (s : State) (c : Ctx) : Option Nat :=
  match c with
  | .fibre k => ((tget s.fibres k).bind (fun f => tget s.skeins f.sk)).map (fun x => x.core)
  | .front k => (tget s.skeins k).map (fun x => x.core)

/-- The skein of a context. -/
def State.skeinOf (s : State) (c : Ctx) : Option Nat :=
  match c with
  | .fibre k => (tget s.fibres k).map (fun f => f.sk)
  | .front k => (tget s.skeins k).map (fun _ => k)

/-- The outstanding loads of a context. -/
def State.loadsOf (s : State) (c : Ctx) : List Load :=
  match c with
  | .fibre k => ((tget s.fibres k).map (fun f => f.loads)).getD []
  | .front k => ((tget s.skeins k).map (fun x => x.front.loads)).getD []

/-- The store queue of a context. -/
def State.storesOf (s : State) (c : Ctx) : List Store :=
  match c with
  | .fibre k => ((tget s.fibres k).map (fun f => f.stores)).getD []
  | .front k => ((tget s.skeins k).map (fun x => x.front.stores)).getD []

/-- Change the loads of a context. -/
def modLoads (c : Ctx) (g : List Load → List Load) : Act :=
  match c with
  | .fibre k => modFibre k (fun f => { f with loads := g f.loads })
  | .front k => modFront k (fun f => { f with loads := g f.loads })

/-- Change the store queue of a context. -/
def modStores (c : Ctx) (g : List Store → List Store) : Act :=
  match c with
  | .fibre k => modFibre k (fun f => { f with stores := g f.stores })
  | .front k => modFront k (fun f => { f with stores := g f.stores })

/-- A load reads memory that other agents may write: it takes part in the order of its context
(05 R145, 07 R178). -/
def Load.ordered (l : Load) : Bool :=
  !l.abandoned && !l.poisoned &&
    match l.src with
    | .mem _ _ => true
    | .stash _ => true
    | .pool _ => true
    | _ => false

/-- A load of acquire semantics (05 R140). -/
def Load.acquires (l : Load) : Bool :=
  match l.src with
  | .mem _ q => q && !l.abandoned && !l.poisoned
  | _ => false

/-- Two byte ranges overlap. -/
def overlaps (a n b m : Nat) : Bool := a < b + m && b < a + n

/-- Where a load or store acts: the address space (0 global, 1 stash, 2 pool), the address and size. -/
abbrev Place := Nat × Nat × Nat

/-- The bytes of an access of an image (05 R137). -/
def Img.bytes (i : Img) : Nat :=
  match i with
  | .n8 => 1
  | .i8 => 1
  | .n16 => 2
  | .i16 => 2
  | .b32 => 4
  | .b64 => 8
  | .b128 => 16

/-- The bytes that a load reads. -/
def Load.place (l : Load) : Option Place :=
  let n := l.img.bytes
  match l.src with
  | .mem a _ => some (0, a.pa, a.n)
  | .stash o => some (1, o, n)
  | .pool o => some (2, o, n)
  | _ => none

/-- The bytes that a queued store writes. -/
def Store.place (x : Store) : Place :=
  match x.kind with
  | .mem a _ => (0, a.pa, x.data.length)
  | .atom a _ _ _ _ => (0, a.pa, a.n)
  | .stash o => (1, o, x.data.length)
  | .pool o => (2, o, x.data.length)

/-- Two places overlap. -/
def Place.meets (p q : Place) : Bool := p.1 == q.1 && overlaps p.2.1 p.2.2 q.2.1 q.2.2

/-- A store is an atomic. -/
def Store.isAtomic (x : Store) : Bool :=
  match x.kind with
  | .atom _ _ _ _ _ => true
  | _ => false

/-- The bytes of a range, with those of a store put over them. -/
def overlay (place : Place) (bytes : List Byte) (x : Store) : List Byte :=
  let q := x.place
  if !place.meets q || x.isAtomic then bytes
  else bytes.zipIdx.map (fun e =>
    let a := place.2.1 + e.2
    if q.2.1 ≤ a && a < q.2.1 + q.2.2 then x.data.getD (a - q.2.1) e.1 else e.1)

/-- A store that a core has performed takes effect on its own L1 copies (05 R138), and the loads of the
core that were performed early read those bytes again (15 R359). -/
def seenByCore (core : Nat) (place : Place) (data : List Byte) : Act := fun p =>
  let p := if place.1 = 0 then
      modCore core (fun c => { c with l1 := c.l1.map (fun e =>
        (e.1, overlay (0, e.1 * 128, 128) e.2
          { id := 0, group := 0, data := data, kind := .mem { ctx := 0, va := 0, pa := place.2.1, n := data.length, tracked := true, policy := 0, cls := .c, remote := none, scope := 0, ascope := 0, watch := false, rdup := false } none })) }) p
    else p
  let hit := fun (l : Load) => l.early.isSome && (l.place.map (fun q => q.meets place)).getD false
  let ks := p.now.fibres.filter (fun e => e.2.loads.any hit &&
    ((tget p.now.skeins e.2.sk).map (fun x => x.core == core)).getD false)
  forEach ks (fun e => modFibre e.1 (fun f => { f with loads := f.loads.map (fun l =>
    if hit l then { l with early := none } else l) })) p

/-- The L1 copy of a line is dropped from a core (05 R138 R145). -/
def dropL1 (core line : Nat) : Act := fun p =>
  if (tget (p.now.core core).l1 line).isSome then modCore core (fun c => { c with l1 := tdel c.l1 line }) p
  else p

/-- Every L1 copy of a core is dropped (05 R140 R144). -/
def dropAllL1 (core : Nat) : Act := fun p =>
  if (p.now.core core).l1.isEmpty then p else modCore core (fun c => { c with l1 := [] }) p

end Sys2Proof.Machine
end

