-- ==== Sys2Proof/Machine/StashMem.lean ====
section
/-! DEFINITION. The stash of a skein and the mapping windows in it: bytes, bounds and modes, the fill of
a line, the registration of bytes, and the passes of a stash word (07 R174-R186, 12 R304-R307). -/

namespace Sys2Proof.Machine

open Sys2Proof

/-! ### Windows (07 R180) -/

/-- COUNT × FLEN, the bytes of a window that are mapped. -/
def MapDesc.size (d : MapDesc) : Nat := d.count * d.flen

/-- The end of a window, rounded up to whole lines. -/
def MapDesc.top (d : MapDesc) : Nat := d.sbase + (d.size + 127) / 128 * 128

/-- The mappings of a skein, with their keys. -/
def Skein.mappings (x : Skein) (s : State) : List (Nat × Mapping) :=
  x.slots.filterMap (fun e => (tget s.maps e.2).map (fun m => (e.2, m)))

/-- The window that a stash offset of a skein lies in. -/
def State.windowAt (s : State) (sk off : Nat) : Option (Nat × Mapping) :=
  match tget s.skeins sk with
  | none => none
  | some x => (x.mappings s).find? (fun e => e.2.desc.sbase ≤ off && off < e.2.desc.top)

/-- The byte at a stash offset of a skein: a window's, or a private one; one that nothing has defined is
a free value (07 R174 R183; log 6). -/
def State.stashByte (s : State) (sk off : Nat) : Byte :=
  match s.windowAt sk off with
  | some (_, m) => m.byte (off - m.desc.sbase)
  | none =>
    match tget s.skeins sk with
    | none => 0
    | some x => (tget x.stash off).getD (Config.freeStash x.stashSerial off)

/-- `n` bytes of the stash of a skein. -/
def State.stashBytes (s : State) (sk off : Nat) : Nat → List Byte
  | 0 => []
  | n + 1 => s.stashByte sk off :: s.stashBytes sk (off + 1) n

/-- Some of `n` stash bytes lie in a poisoned line of a window (12 R300). -/
def State.stashPoisoned (s : State) (sk off n : Nat) : Bool :=
  (List.range n).any (fun i => match s.windowAt sk (off + i) with
    | some (_, m) => m.poisoned.contains ((off + i - m.desc.sbase) / 128)
    | none => false)

/-- The detail of STASH_MAP for an access of `n` bytes, 0 when its windows allow it (07 R185). -/
def State.mapDetail (s : State) (sk off n : Nat) (write : Bool) : Nat :=
  (List.range n).foldl (fun d i =>
    if d != 0 then d
    else
      match s.windowAt sk (off + i) with
      | none => 0
      | some (_, m) =>
        if write && m.desc.mode == 0 then 1
        else if !write && m.desc.mode == 2 then 2
        else if m.desc.sbase + m.desc.size ≤ off + i then 3
        else 0) 0

/-! ### Filling a line (07 R183 R184 R186) -/

/-- A line of a window that an access needs: a fill, or the registration of bytes that it writes to a
write-only window. -/
structure FillNeed where
  map : Nat
  line : Nat
  writes : Option (List Nat)
  deriving DecidableEq, Repr

/-- A byte of a write-only window needs no registration any more. -/
def State.isLoose (s : State) (map : Nat) (m : Mapping) (o : Nat) : Bool :=
  m.loose.contains o ||
    s.regs.any (fun e => e.2.map == map && e.2.offs.any (fun x => x.2 == o))

/-- The bytes that two needs of one line register together. -/
def joinWrites (a b : Option (List Nat)) : Option (List Nat) :=
  match a, b with
  | some x, some y => some (y.foldl sadd x)
  | _, _ => none

/-- What an access of `n` bytes at a stash offset needs first. -/
def State.fillNeeds (s : State) (sk off n : Nat) (write : Bool) : List FillNeed :=
  let add := fun (l : List FillNeed) (x : FillNeed) =>
    match l.find? (fun y => y.map == x.map && y.line == x.line) with
    | none => l ++ [x]
    | some _ => l.map (fun y =>
        if y.map == x.map && y.line == x.line then
          { y with writes := joinWrites y.writes x.writes }
        else y)
  (List.range n).foldl (fun l i =>
    match s.windowAt sk (off + i) with
    | none => l
    | some (k, m) =>
      let o := off + i - m.desc.sbase
      if m.desc.size ≤ o then l
      else if m.desc.mode != 2 then
        if m.filled.contains (o / 128) then l else add l { map := k, line := o / 128, writes := none }
      else if write && !s.isLoose k m o then
        add l { map := k, line := o / 128, writes := some [o] }
      else l) []

/-- A byte of a line with its address, where its page translates. -/
structure FillByte where
  o : Nat
  va : Nat
  pa : Nat
  tracked : Bool
  cls : LClass
  deriving DecidableEq, Repr

/-- The latency class of an access: the page's, or the buffer's where the page says 3 (05 R135). -/
def classOf (pte lcls : Nat) : LClass :=
  let c := if bitsOf pte 7 6 = 3 then lcls else bitsOf pte 7 6
  if c = 0 then .f else if c = 1 then .s else .c

/-- The bytes of a window at some offsets, translated; the first that faults gives the fault. -/
def State.fillBytes (s : State) (m : Mapping) : List Nat → Except FillFault (List FillByte)
  | [] => .ok []
  | o :: r =>
    match s.xlateNow m.core m.ctx (m.va o) false (some m.ilv) with
    | .error c => .error (.walk c (m.va o))
    | .ok x =>
      match s.fillBytes m r with
      | .error e => .error e
      | .ok l =>
        let pa := x.pa (m.va o)
        if isRegister pa then .error (.rights (m.va o))
        else
          .ok ({ o := o, va := m.va o, pa := pa,
                 tracked := m.trk && bitOf x.pte.toNat 5 && isPackage pa && m.ilv != 3,
                 cls := classOf x.pte.toNat m.lcls } :: l)

/-- A byte is poisoned where a fill reads it, or the PCIe completion of its read returns an error (12 R300,
16 R383; log 40). -/
def State.fillPoisoned (s : State) (b : FillByte) : Bool :=
  if b.tracked then s.poisonedAt b.pa
  else s.memPoisoned b.pa || (isHost b.pa && Config.hostFails s.fresh)

/-- The value that a fill reads: the point of coherence for a tracked byte, memory for another; a free value for
one that is poisoned. -/
def State.fillRead (s : State) (bad : Bool) (b : FillByte) : Byte :=
  if bad then Config.poisonByte (s.fresh + b.o)
  else if b.tracked then s.cohByte b.pa
  else s.byte b.pa

/-- The value that a fill would read now. -/
def State.fillValue (s : State) (b : FillByte) : Byte := s.fillRead (s.fillPoisoned b) b

/-- The entries of the directory that would hold a line, in its set (12 R304). -/
def State.dirSet (s : State) (g : Nat) : List (Nat × Reg) :=
  s.regs.filter (fun e => s.holderDie (e.1 * 128) == s.holderDie (g * 128) &&
    Config.dirSet e.1 % 65536 == Config.dirSet g % 65536)

/-- A set of 16 entries that is full has one recalled before a new line is registered (12 R306; log 5). -/
def roomInDir (g : Nat) : Act := fun p =>
  let l := p.now.dirSet g
  if (tget p.now.regs g).isSome || l.length < 16 then p
  else
    match l[Config.choose p.now.fresh % l.length]? with
    | some e => recallLine e.1 (bumpFresh p)
    | none => p

/-- A set that has come to hold more than its 16 entries has one recalled: the directory entries of a region that has
moved join those of its new holder (12 R303 R304 R306; log 5). -/
def trimDir (g : Nat) : Act := fun p =>
  let l := p.now.dirSet g
  if l.length ≤ 16 then p
  else
    match l[Config.choose p.now.fresh % l.length]? with
    | some e => recallLine e.1 (bumpFresh p)
    | none => p

/-- A byte joins the registration of its global line for a stash line (12 R304). -/
def registerByte (map : Nat) (b : FillByte) : Act := fun p =>
  let p := roomInDir (lineOf b.pa) p
  let g := lineOf b.pa
  let r : Reg := (tget p.now.regs g).getD { map := map, sline := b.o / 128, offs := [] }
  p.emit (.reg g { r with offs := tput r.offs (b.pa % 128) b.o })

/-- The registration that another stash line holds is recalled first (12 R304). -/
def recallOther (map line g : Nat) : Act := fun p =>
  match tget p.now.regs g with
  | some r => if r.map = map && r.sline = line then p else recallLine g p
  | none => p

/-- The global lines of some bytes. -/
def linesOf (l : List FillByte) : List Nat := l.foldl (fun m b => sadd m (lineOf b.pa)) []

/-- The translations that a fill or registration used are held in the caches. -/
def noteXlats (m : Mapping) (l : List FillByte) : Act :=
  forEach (l.foldl (fun t b => tput t (b.va / 32768) b.va) []) (fun e => usedXlat m.core m.ctx e.2 false)

/-- The read of each global line that a fill makes at its point of coherence (12 R302, 15 R363). -/
def noteFill (m : Mapping) (l : List FillByte) : Act :=
  forEach (l.foldl (fun t b => tput t (lineOf b.pa) b) ([] : Table FillByte)) (fun e =>
    performRead (m.core / 64)
      { ctx := m.ctx, va := e.2.va, pa := e.2.pa, n := 1, tracked := e.2.tracked, policy := 1,
        cls := e.2.cls, remote := none, scope := 0, ascope := 0, watch := false, rdup := false })

/-- The window offsets that a fill or registration is about: the mapped bytes of the line, or those of the
bytes to be written that still need their registration. -/
def State.fillOffs (s : State) (d : FillNeed) (m : Mapping) : List Nat :=
  match d.writes with
  | none => (List.range 128).filterMap (fun i =>
      if d.line * 128 + i < m.desc.size then some (d.line * 128 + i) else none)
  | some l => l.filter (fun o => !s.isLoose d.map m o)

/-- Every tracked byte of some stands registered for a mapping. -/
def State.allRegistered (s : State) (map : Nat) (l : List FillByte) : Bool :=
  l.all (fun b => match tget s.regs (lineOf b.pa) with
    | some r => r.map == map && (tget r.offs (b.pa % 128)) == some b.o
    | none => false)

/-- The bytes of a fill stand in the line, and it is filled. -/
def setLine (d : FillNeed) (bad : Bool) (l : List (Nat × Byte)) : Act := modMap d.map (fun y =>
  { y with
    bytes := l.foldl (fun t b => tput t b.1 b.2) y.bytes
    filled := sadd y.filled d.line
    poisoned := (if bad then sadd y.poisoned d.line else y.poisoned.filter (fun k => k != d.line)) })

/-- The bytes of a line are registered; a line that loses an entry while it takes the others is unfilled
again (12 R306). -/
def registerAll (d : FillNeed) (tr : List FillByte) : Act := fun p =>
  let p := forEach tr (registerByte d.map) p
  if p.now.allRegistered d.map tr then p else recallStash d.map d.line p

/-- A line is filled from this package or the host, or bytes of a write-only window are registered
(07 R183 R184). A `forced` fill takes poisoned bytes as free values and marks its line poisoned (log 18). -/
def fillStash (forced : Bool) (d : FillNeed) (p : Plan) : Option FillFault × Plan :=
  match tget p.now.maps d.map with
  | none => (none, p)
  | some m =>
    if d.writes.isNone && m.filled.contains d.line then (none, p)
    else
      match p.now.fillBytes m (p.now.fillOffs d m) with
      | .error e => (some e, p)
      | .ok l =>
        let hurt := p.now.fillPoisoned
        let bad := d.writes.isNone && l.any hurt
        match (if bad && !forced then l.find? hurt else none) with
        | some b => (some (.poison b.va), p)
        | none =>
          let tr := l.filter (fun b => b.tracked)
          let p := noteXlats m l p
          match d.writes with
          | none =>
            let p := noteFill m l (forEach (linesOf tr) (recallOther d.map d.line) p)
            (none, registerAll d tr (setLine d bad (l.map (fun b => (b.o, p.now.fillRead (hurt b) b))) (bumpFresh p)))
          | some _ =>
            let p := forEach (linesOf tr) (recallOther d.map d.line) p
            (none, registerAll d tr (modMap d.map (fun y =>
              { y with loose := (l.filter (fun b => !b.tracked)).foldl (fun t b => sadd t b.o) y.loose }) p))

/-! ### A fill from a remote device (16 R390) -/

/-- A fill of a window whose buffer lies in a remote device: its bytes come over the fabric. -/
def State.isRemoteFill (s : State) (d : FillNeed) : Bool :=
  d.writes.isNone && ((tget s.maps d.map).map (fun m => m.ilv == 3 && !m.filled.contains d.line)).getD false

/-- The bytes of a fill as runs that lie in one global line each: the first byte and the length. -/
def runsOf (l : List FillByte) : List (FillByte × Nat) :=
  l.foldl (fun r b => match r.getLast? with
    | some (f, n) =>
      if f.o + n = b.o && f.pa + n = b.pa && lineOf f.pa == lineOf b.pa then r.dropLast ++ [(f, n + 1)]
      else r ++ [(b, 1)]
    | none => [(b, 1)]) []

/-- The requests of a fill go out. -/
def askFill (d : FillNeed) (m : Mapping) (l : List FillByte) : Act := fun p =>
  forEach (runsOf l) (fun e =>
    sendRemote m.rdev e.1.pa (.read e.2) (.fill d.map e.1.o e.1.va)) (noteXlats m l p)

/-- A fill under way. -/
def Fill.under (f : Fill) (map line : Nat) : Bool := !f.done && f.map == map && f.line == line

/-- Bytes that a fill asked for have come, or it has failed. -/
def answerFill (map off va : Nat) (resp : Option RemoteResp) : Act := modRest (fun s =>
  { s with fills := s.fills.map (fun f =>
      if f.under map (off / 128) && f.asked then
        let fail := fun (e : FillFault) => { f with bad := some (f.bad.getD e) }
        match resp with
        | some (.data b) => { f with got := b.zipIdx.foldl (fun t e => tput t (off + e.2) e.1) f.got }
        | some .poisoned => fail (.poison va)
        | some .dropped => fail (.refused va)
        | none => fail (.lost va)
      else f) })

/-- A fill from a remote device goes on: its requests go out, and once every byte has come the line is filled. The
answer says whether it has ended, and how. A `forced` fill takes poisoned bytes as free values (log 18). -/
def fillRemote (forced : Bool) (f : Fill) (p : Plan) : Option (Option FillFault) × Plan :=
  let d : FillNeed := { map := f.map, line := f.line, writes := none }
  match tget p.now.maps f.map with
  | none => (some none, p)
  | some m =>
    let offs := p.now.fillOffs d m
    if !f.asked then
      match p.now.fillBytes m offs with
      | .error e => (some (some e), p)
      | .ok l => (none, modRest (fun s =>
          { s with fills := s.fills.map (fun y => if y.under f.map f.line then { y with asked := true } else y) })
          (askFill d m l p))
    else if !(offs.all (fun o => (tget f.got o).isSome)) && f.bad.isNone then (none, p)
    else
      let poison : Bool := match f.bad with
        | some (.poison _) => true
        | _ => false
      if f.bad.isSome && !(poison && forced) then (some f.bad, p)
      else (some none, setLine d poison
        (offs.map (fun o => (o, (tget f.got o).getD (Config.poisonByte (p.now.fresh + o))))) (bumpFresh p))

/-! ### Waiting for a fill -/

/-- An agent joins the fill that it needs, or starts it (12 R307). -/
def postFill (a : Agent) (d : FillNeed) : Act := modRest (fun s =>
  if s.fills.any (fun f => f.under d.map d.line) then
    { s with fills := s.fills.map (fun f =>
        if f.under d.map d.line then
          { f with
            waiters := if f.waiters.contains a then f.waiters else f.waiters ++ [a]
            writes := joinWrites f.writes d.writes }
        else f) }
  else { s with fills := s.fills ++ [{ map := d.map, line := d.line, writes := d.writes, waiters := [a] }] })

/-- The fault that a fill keeps for an agent. -/
def State.keptFill (s : State) (a : Agent) (d : FillNeed) : Option FillFault :=
  (s.fills.find? (fun f => f.done && f.map == d.map && f.line == d.line && f.waiters.contains a)).bind
    (fun f => f.fault)

/-- A fill cannot read now: a PTE that it needs or a tracked line that it reads is held (12 R303 R309,
15 R359 R362). -/
def State.fillHeld (s : State) (d : FillNeed) : Bool :=
  match tget s.maps d.map with
  | none => false
  | some m =>
    let offs := s.fillOffs d m
    offs.any (fun o => s.xlateHeld m.core m.ctx (m.va o) false) ||
      (match s.fillBytes m offs with
       | .ok l => l.any (fun b => b.tracked && s.lineHeld (some m.core) (lineOf b.pa))
       | .error _ => false)

/-- A line that was filled for a word and has been recalled since can be touched anew within the step that uses it:
its bytes translate, and none is held or poisoned (12 R305). -/
def State.refillable (s : State) (d : FillNeed) : Bool :=
  !s.fillHeld d && match tget s.maps d.map with
    | none => true
    | some m =>
      match s.fillBytes m (s.fillOffs d m) with
      | .ok l => d.writes.isSome || !l.any (fun b => s.fillPoisoned b)
      | .error _ => false

/-- A fill that an agent waited for has been made. Its line may have been recalled since, and the access
touches it anew when it is performed (12 R305 R307). -/
def State.filledFor (s : State) (a : Agent) (d : FillNeed) : Bool :=
  s.refillable d && s.fills.any (fun f => f.done && f.fault.isNone && f.map == d.map && f.line == d.line &&
    f.waiters.contains a && (match d.writes, f.writes with
      | some x, some y => x.all y.contains
      | _, _ => true))

/-- The agents that issue words among some. -/
def issuersIn (l : List Agent) : List Agent := l.filter (fun a =>
  match a with
  | .who _ => true
  | _ => false)

/-- The fills without an agent that has taken what they found. -/
def withoutWaiter (a : Agent) (l : List Fill) : List Fill :=
  (l.map (fun f => if f.done then { f with waiters := f.waiters.filter (fun y => y != a) } else f)).filter
    (fun f => !(f.done && f.waiters.isEmpty))

/-- An agent has taken what its fills found. -/
def dropFills (a : Agent) : Act := fun p =>
  if p.now.fills.any (fun f => f.done && f.waiters.contains a) then
    modRest (fun s => { s with fills := withoutWaiter a s.fills }) p
  else p

/-- A fill under way has ended, with a fault or none: its waiters find the line filled, or the fault. -/
def closeFill (f : Fill) (e : Option FillFault) : Act :=
  let ws := if e.isNone then issuersIn f.waiters else f.waiters
  modRest (fun s => { s with fills :=
    (s.fills.filter (fun y => !(y.under f.map f.line && ws.isEmpty))).map (fun y =>
        if y.under f.map f.line then
          { y with
            done := true
            fault := e
            waiters := ws }
        else y) })

/-- A fill under way ends, or goes on with its requests (07 R177 R183, 16 R390). -/
def endFill (map line : Nat) : Act := fun p =>
  match p.now.fills.find? (fun f => f.under map line) with
  | none => p
  | some f =>
    let d : FillNeed := { map := map, line := line, writes := f.writes }
    if p.now.fillHeld d then p
    else if p.now.isRemoteFill d then
      match fillRemote false f p with
      | (none, q) => q
      | (some e, q) => closeFill f e q
    else
      let o := fillStash false d p
      closeFill f o.1 o.2

/-- STASH_FILL_COMPLETE (07 R177 R183). -/
def execStashFillComplete (map line : Nat) (s : State) : Host.Outcome State Fault Refusal :=
  commit s (endFill map line)

/-- The level at which a walk stopped, for the detail of TRANSLATION (05 R133). -/
def WalkCause.level : WalkCause → Nat
  | .translation l => l
  | _ => 0

/-- The trap of a walk at an address (05 R133 R134). -/
def walkTrap (c : WalkCause) (va detail : Nat) (mask : DWord) : Trap :=
  { cause := match c with
      | .translation _ => .translation
      | .writeProtect => .writeProtect
      | .interleave => .interleave
    detail := detail + 4 * c.level, mask := mask, addr := va, walk := some c }

/-- The trap of a fill's fault (07 R177). -/
def fillTrap (e : FillFault) (mask : DWord) : Trap :=
  match e with
  | .walk c va => walkTrap c va 0 mask
  | .poison va => { cause := .poison, mask := mask, addr := va }
  | .rights va => { cause := .rights, mask := mask, addr := va }
  | .refused va => { cause := .rights, mask := mask, addr := va }
  | .lost va => { cause := .remotePartial, mask := mask, addr := va }

/-! ### Bytes written to a stash -/

/-- One byte written at a stash offset of a skein: it is dirty in a window (07 R178 R187), and the
core's L1 copy of its global line is no longer used (12 R305). -/
def stashPut (sk off : Nat) (b : Byte) : Act := fun p =>
  match p.now.windowAt sk off with
  | none => modSkein sk (fun x => { x with stash := tput x.stash off b }) p
  | some (k, m) =>
    let o := off - m.desc.sbase
    let p := modMap k (fun y =>
      { y with
        bytes := tput y.bytes o b
        dirty := sadd y.dirty o }) p
    match p.now.regPa k o with
    | some pa => dropL1 m.core (lineOf pa) p
    | none => p

/-- Bytes written from a stash offset upward. -/
def stashWrite (sk off : Nat) : List Byte → Act
  | [], p => p
  | b :: r, p => stashWrite sk (off + 1) r (stashPut sk off b p)

/-! ### Touching lines within a step (07 R183 R184, 09 R263) -/

/-- Lines are filled one after another until one faults. -/
def fillAll (forced : Bool) : List FillNeed → Plan → Option FillFault × Plan
  | [], p => (none, p)
  | d :: r, p =>
    match fillStash forced d p with
    | (some e, q) => (some e, q)
    | (none, q) => fillAll forced r q

/-- A byte of the stash as a touch of its line shows it: what a fill would read, where the line is unfilled. -/
def State.touchByte (s : State) (sk off : Nat) : Byte :=
  match s.windowAt sk off with
  | none => s.stashByte sk off
  | some (_, m) =>
    let o := off - m.desc.sbase
    if m.desc.mode == 2 || m.ilv == 3 || m.desc.size ≤ o || m.filled.contains (o / 128) then m.byte o
    else
      match s.fillBytes m [o] with
      | .ok [b] => s.fillValue b
      | _ => m.byte o

/-- `n` bytes of the stash as a touch of their lines shows them. -/
def State.touchBytes (s : State) (sk off n : Nat) : List Byte :=
  if (s.fillNeeds sk off n false).isEmpty then s.stashBytes sk off n
  else (List.range n).map (fun i => s.touchByte sk (off + i))

/-- Bytes written to the stash of a skein a line at a time, each line touched as its bytes are written, so that a
line that another of the same access recalls is filled and registered again first (07 R184). -/
def touchWrite (forced : Bool) (sk off : Nat) (data : List Byte) : Act :=
  forEach (linePieces off data.length) (fun e p =>
    stashWrite sk e.1 ((data.drop (e.1 - off)).take e.2)
      (fillAll forced (p.now.fillNeeds sk e.1 e.2 true) p).2)

/-! ### Passes (07 R179) -/

/-- The lanes of a group of one access size. -/
def passGroup (n : Nat) : Nat := if n ≤ 4 then 32 else if n = 8 then 16 else 8

/-- The passes that a stash word takes: for each group of lanes the largest number of distinct words in
one bank. An access is a lane, the skein whose stash it is and an offset. -/
def passesOf (n : Nat) (acc : List (Nat × Nat × Nat)) : Nat :=
  let words := fun (g : Nat) => (acc.filter (fun e => e.1 / passGroup n == g)).foldl (fun l e =>
    (List.range ((e.2.2 + n - 1) / 4 + 1 - e.2.2 / 4)).foldl (fun l i =>
      let w := (e.2.1, e.2.2 / 4 + i)
      if l.contains w then l else w :: l) l) ([] : List (Nat × Nat))
  let busiest := fun (l : List (Nat × Nat)) =>
    (List.range 32).foldl (fun m b => max m (l.filter (fun w => w.2 % 32 == b)).length) 0
  (List.range (64 / passGroup n)).foldl (fun t g => t + busiest (words g)) 0

/-- sr.spass of each fibre of the strand (07 R179). -/
def addPasses (lanes : List Lane) (n : Nat) : Act :=
  forEach lanes (fun l => modFibre l.k (fun f => { f with spass := f.spass + BitVec.ofNat 32 n }))

end Sys2Proof.Machine
end

