-- ==== Sys2Proof/Machine/Loads.lean ====
section
/-! DEFINITION. The completion of loads: when a load may read, what it reads, and the registers it
writes (05 R137 R140 R145 R146 R149, 15 R359 R362). -/

namespace Sys2Proof.Machine

open Sys2Proof

/-! ### LOAD_COMPLETE -/

/-- The registers that a load image fills, from its bytes (05 R137, 01 R12). -/
def imageWords (img : Img) (x : Nat) : List Word :=
  match img with
  | .n8 => [BitVec.ofNat 32 (x % 2 ^ 8)]
  | .i8 => [(BitVec.ofNat 8 x).signExtend 32]
  | .n16 => [BitVec.ofNat 32 (x % 2 ^ 16)]
  | .i16 => [(BitVec.ofNat 16 x).signExtend 32]
  | .b32 => [BitVec.ofNat 32 x]
  | .b64 => [BitVec.ofNat 32 x, BitVec.ofNat 32 (x / 2 ^ 32)]
  | .b128 =>
    [BitVec.ofNat 32 x, BitVec.ofNat 32 (x / 2 ^ 32), BitVec.ofNat 32 (x / 2 ^ 64),
      BitVec.ofNat 32 (x / 2 ^ 96)]

/-- The destinations of a load written, but for those that a later word has written (03 R73). -/
def Load.deliver (l : Load) (x : Nat) (f : Fibre) : Fibre :=
  if l.abandoned then f
  else
    { f with v := (imageWords l.img x).zipIdx.foldl (fun v e =>
        if l.covers (l.dst + e.2) then tputD v (l.dst + e.2) 0 e.1 else v) f.v }

/-- The destination of a load of a front context written: 64 bits, or 32 bits zero-extended. -/
def Load.deliverFront (l : Load) (x : Nat) (f : Front) : Front :=
  if l.covers l.dst then { f with s := tputD f.s l.dst 0 (BitVec.ofNat 64 x) } else f

/-- A load of a context ends and its value is written. -/
def finishLoad (c : Ctx) (l : Load) (x : Nat) : Act :=
  match c with
  | .fibre k => modFibre k (fun f =>
      l.deliver x { f with loads := f.loads.filter (fun y => y.id != l.id) })
  | .front k => modFront k (fun f =>
      l.deliverFront x { f with loads := f.loads.filter (fun y => y.id != l.id) })

/-- A load may read now: no older acquire of the context is outstanding, no older load or atomic of the
same bytes is, and no packet holds its line (05 R140 R145, 15 R362). -/
def State.loadReady (s : State) (c : Ctx) (l : Load) : Bool :=
  !l.poisoned &&
    (match l.place with
     | none => true
     | some q =>
       (s.loadsOf c).all (fun y => l.id ≤ y.id ||
         !(y.acquires || (y.ordered && (y.place.map (fun z => z.meets q)).getD false))) &&
       (s.storesOf c).all (fun y => l.id ≤ y.id || !(y.isAtomic && y.place.meets q))) &&
    (match l.src with
     | .mem a _ => !s.readHeld ((s.coreOf c).getD 0) a
     | .stash _ => true
     | .pool _ => true
     | .const _ => true
     | .value _ => true
     | _ => false)

/-- The load is the oldest of its context that reads memory: its registers may be written (15 R359). -/
def State.loadOldest (s : State) (c : Ctx) (l : Load) : Bool :=
  !l.ordered || (s.loadsOf c).all (fun y => l.id ≤ y.id || !y.ordered)

/-- The L1 copy that serves a plain load at policy 0, where the part uses it (05 R138; log 5). -/
def State.l1Serves (s : State) (core : Nat) (a : Access) (acquire : Bool) : Option (List Byte) :=
  if a.policy = 0 && !acquire && Config.flip s.fresh then
    (tget (s.core core).l1 (lineOf a.pa)).map (fun b => (b.drop (a.pa % 128)).take a.n)
  else none

/-- The line as the point of coherence shows it, for an L1 copy. -/
def State.lineBytes (s : State) (a : Access) : List Byte :=
  let base := lineOf a.pa * 128
  if a.tracked && isPackage a.pa then s.cohBytes base 128 else s.bytes base 128

/-- A byte of the constant store of a core (07 R197). -/
def State.constBytes (s : State) (core off n : Nat) : List Byte :=
  match (s.core core).const with
  | none => List.replicate n 0
  | some c => (List.range n).map (fun i => tgetD c.bytes (off + i) 0)

/-- The pool allocation of a skein: its key in the table of pools (11 R276). -/
def State.poolOf (s : State) (sk : Nat) : Option (Nat × Pool) :=
  match tget s.skeins sk with
  | none => none
  | some x => s.pools.find? (fun e => e.2.launch == x.launch && e.2.cgrp == x.cgrp)

/-- `n` bytes of the pool of a skein; one that nothing has written is a free value (11 R276; log 6). -/
def State.poolBytes (s : State) (sk off n : Nat) : List Byte :=
  match s.poolOf sk with
  | none => List.replicate n 0
  | some (_, q) => (List.range n).map (fun i =>
      (tget q.bytes (off + i)).getD (Config.freePool q.serial (off + i)))

/-- An L1 copy of a line is held, at most 1,024 of them, 128 KiB (00 R2; log 5). -/
def keepL1 (core line : Nat) (bytes : List Byte) : Act := fun p =>
  let l := tdel (p.now.core core).l1 line
  let l := if l.length < 1024 then l else l.eraseIdx (Config.choose p.now.fresh % l.length)
  modCore core (fun y => { y with l1 := tput l line bytes }) p

/-- An error that the pool's code does not correct poisons the bytes that a read meets (11 R292; log 62). -/
def meetPoolError (sk off : Nat) : Act := fun p =>
  if Config.softError p.now.fresh then
    match p.now.poolOf sk with
    | some (k, _) => modPool k (fun q => { q with poisoned := sadd q.poisoned (off / 32) }) (bumpFresh p)
    | none => bumpFresh p
  else bumpFresh p

/-- The load reads: its bytes, whether they are poisoned, and what the read does. -/
def readLoad (c : Ctx) (l : Load) (p : Plan) : List Byte × Bool × Plan :=
  let core := (p.now.coreOf c).getD 0
  let sk := (p.now.skeinOf c).getD 0
  let n := l.img.bytes
  match l.src with
  | .mem a q =>
    match p.now.l1Serves core a q with
    | some b => (b, false, bumpFresh p)
    | none =>
      let failed := p.now.hostError a
      let p := bumpFresh (performRead (core / 64) a p)
      let bad := p.now.readsPoison a || failed
      let b := p.now.readAt a
      let p := if a.policy = 0 && !q then
          (if bad then dropL1 core (lineOf a.pa) p
           else keepL1 core (lineOf a.pa) (p.now.lineBytes a) p)
        else dropL1 core (lineOf a.pa) p
      (b, bad, p)
  | .stash o => (p.now.stashBytes sk o n, p.now.stashPoisoned sk o n, p)
  | .pool o =>
    let p := meetPoolError sk o p
    (p.now.poolBytes sk o n,
      ((p.now.poolOf sk).map (fun e => e.2.poisoned.contains (o / 32))).getD false, p)
  | .const o => (p.now.constBytes core o n, false, p)
  | .value v => (bytesOf v 16, false, p)
  | _ => ([], false, p)

/-- What a load of the stash needs first: a line recalled since the load retired is touched anew
(12 R305). -/
def State.loadNeeds (s : State) (c : Ctx) (l : Load) : List FillNeed :=
  match l.src, l.early with
  | .stash o, none => s.fillNeeds ((s.skeinOf c).getD 0) o ((l.place.map (fun q => q.2.2)).getD 4) false
  | _, _ => []

/-- LOAD_COMPLETE: a load that may read does so. It writes its registers when it is the oldest of its
context; a younger one keeps what it read until then (05 R145 R146, 15 R359). -/
def completeLoad (c : Ctx) (id : Nat) : Act := fun p =>
  match (p.now.loadsOf c).find? (fun y => y.id == id) with
  | none => p
  | some l =>
    if !p.now.loadReady c l then p
    else if !(p.now.loadNeeds c l).isEmpty then
      forEach (p.now.loadNeeds c l) (postFill (.ctx c)) (dropFills (.ctx c) p)
    else
      let oldest := p.now.loadOldest c l
      let r := match l.early with
        | some b => (b, false, p)
        | none => readLoad c l p
      let p := r.2.2
      if r.2.1 && !l.abandoned then
        modLoads c (fun ls => ls.map (fun y => if y.id = id then { y with poisoned := true } else y)) p
      else if !oldest then
        modLoads c (fun ls => ls.map (fun y =>
          if y.id = id then { y with early := some r.1 } else y)) p
      else
        let older := (p.now.storesOf c).filter (fun y => y.id < id)
        let bytes := match l.place with
          | some q => older.foldl (overlay q) r.1
          | none => r.1
        let acq : Bool := match l.src with
          | .mem a q => q && decide (1 ≤ a.scope)
          | _ => false
        let p := if acq then dropAllL1 ((p.now.coreOf c).getD 0) p else p
        finishLoad c l (ofBytes bytes) p

/-- LOAD_COMPLETE (05 R146). -/
def execLoadComplete (c : Ctx) (id : Nat) (s : State) : Host.Outcome State Fault Refusal :=
  commit s (completeLoad c id)

end Sys2Proof.Machine
end

