-- ==== Sys2Proof/Machine/MemWord.lean ====
section
/-! DEFINITION. The checks that a memory word makes in every lane before it retires, the walks and fills
that it waits for, and the issue of its loads and stores (05 R131-R135 R146 R147, 04 R119 R120). -/

namespace Sys2Proof.Machine

open Sys2Proof

/-! ### Checks -/

/-- What a lane waits for before its checks can end. -/
inductive MemNeed where
  | walk (n : Need)
  | fill (d : FillNeed)
  /-- Accepted packets that write bytes which the check reads are to be applied first (15 R362). -/
  | settle
  deriving DecidableEq, Repr

/-- Why a lane does not pass its checks: a trap, or something that has to come first. -/
inductive LaneFail where
  | trap (t : Trap)
  | needs (l : List MemNeed)
  deriving DecidableEq, Repr

/-- What a memory word asks of an access. -/
structure Ask where
  agent : Agent
  core : Nat
  /-- The slot of its skein on the core. -/
  slot : Nat
  lr : LaunchRec
  /-- The identity of the accessor, for the race watch. -/
  ident : Ident
  mtc : Bool
  b : Nat
  off : Int
  n : Nat
  /-- The rights it needs (05 R132). -/
  rd : Bool
  wr : Bool
  at_ : Bool
  /-- The cache field; `lda` asks for 1 (05 R138). -/
  cache : Nat
  /-- The scope code; 7 takes the buffer's (05 R130). -/
  scope : Nat
  /-- The operation of an atomic (05 R141). -/
  aop : Option Nat := none

/-- The atomics that PCIe carries to host memory: FetchAdd, Swap and CAS (16 R383). -/
def hostAtomic (op : Nat) : Bool := op ≤ 1 || (9 ≤ op && op ≤ 13)

/-- The detail bits of an access (05 R133). -/
def Ask.detail (a : Ask) : Nat := (if a.wr then 1 else 0) + (if a.at_ then 2 else 0)

/-- The writer that a shadow names is live, and its counter at the scope is the shadow's (15 R374). -/
def State.racing (s : State) (h : Shadow) (scope : Nat) : Bool :=
  s.fibres.any (fun e => e.2.ident == h.ident && tgetD e.2.ivl scope 0 == h.n) ||
    s.skeins.any (fun e => e.2.front.ident == h.ident && tgetD e.2.front.ivl scope 0 == h.n)

/-- The race watch fails for an access (15 R374). -/
def State.raceFails (s : State) (a : Access) (ident : Ident) : Bool :=
  a.watch && a.tracked && a.remote.isNone &&
    match tget s.shadows (a.pa / 32) with
    | some h => h.ident != ident && s.racing h a.ascope
    | none => false

/-- The frame-mode check fails for an access (15 R373). -/
def State.modeFails (s : State) (a : Access) : Bool :=
  isPackage a.pa && a.remote.isNone &&
    match tget s.modes (a.pa / 32768) with
    | some m => m != a.tracked
    | none => false

/-- Races are logged, not trapped (15 R370). -/
def State.logsRaces (s : State) : Bool := s.rlog.en

/-- The buffer-table entry of an index has to be read from memory, and its line is held (12 R308, 15 R362). -/
def State.entryHeld (s : State) (core ctx index : Nat) : Bool :=
  !(s.core core).bufs.any (fun c => c.ctx == ctx && c.index == index) &&
    ((s.bufTable (core / 64) ctx).map (fun b => s.rangeHeld none (b + 64 * index) 64)).getD false

/-- The buffer-table entry of a binding, where it is bound, is held. -/
def State.bindingHeld (s : State) (core : Nat) (lr : LaunchRec) (b : Nat) : Bool :=
  ((lr.binding b).map (fun i => s.entryHeld core lr.ctx i)).getD false

/-- The checks of one access, in their order (05 R131): the access that passes them, or why not. -/
def State.checkAccess (s : State) (q : Ask) : Except LaneFail Access :=
  let fail := fun (c : Cause) (addr : Int) =>
    (.error (.trap { cause := c, detail := q.detail, addr := zextI addr 64 }) : Except LaneFail Access)
  match q.lr.binding q.b with
  | none => fail .binding q.off
  | some idx =>
    if s.entryHeld q.core q.lr.ctx idx then .error (.needs [.settle])
    else
    match s.buf q.core q.lr.ctx idx with
    | none => fail .binding q.off
    | some e =>
      let va : Int := (e.base : Int) + q.off
      if e.owner != q.lr.ctx then fail .owner va
      else if (q.rd && !e.rd) || (q.wr && !e.wr) || (q.at_ && !e.at_) then fail .rights va
      else if q.off % (q.n : Int) != 0 then fail .misaligned va
      else if q.off < 0 || (e.len : Int) < q.off + q.n then fail .bounds va
      else
        let v := va.toNat
        match s.translate q.agent q.core q.lr.ctx v q.wr (some e.ilv) with
        | .missing => .error (.needs [.walk { ctx := q.lr.ctx, va := v, write := q.wr, ilv := some e.ilv }])
        | .fault c => .error (.trap (walkTrap c v q.detail 0))
        | .page x =>
          let pa := x.pa v
          let pte := x.pte.toNat
          let a : Access :=
            { ctx := q.lr.ctx, va := v, pa := pa, n := q.n,
              tracked := e.trk && bitOf pte 5 && e.ilv != 3 && !isHost pa, policy := max e.ceil q.cache,
              cls := classOf pte e.lcls, remote := if e.ilv = 3 then some e.rdev else none,
              scope := if q.scope = 7 then e.ascope else q.scope, ascope := e.ascope,
              watch := e.rwatch, rdup := bitOf pte 3 }
          if isRegister pa || (bitOf pte 11 && e.kslot == 0) then fail .rights va
          else if isHost pa && a.remote.isNone && !((q.aop.map hostAtomic).getD true) then fail .rights va
          else if s.raceFails a q.ident && !s.logsRaces then fail .race va
          else if q.mtc && s.modeFails a then fail .mixedTracking va
          else .ok a

/-- The core holds the buffer-table entry that an access used (12 R308). -/
def useEntry (q : Ask) : Act :=
  match q.lr.binding q.b with
  | some idx => cacheBuf q.core q.lr.ctx idx
  | none => id

/-- What a race record holds: the accessor's context, die, core and slot, the writer's identity, the sector's
virtual address, and the accessor's PC (15 R374). -/
def State.raceContents (s : State) (q : Ask) (a : Access) : List Nat :=
  let w := ((tget s.shadows (a.pa / 32)).map (fun h => [h.ident.die, h.ident.core, h.ident.serial])).getD []
  [a.ctx, q.core / 64, q.core % 64, q.slot] ++ w ++
    [a.va / 32 * 32, ((s.issuing).map (fun e => e.2.pos.pc.toNat)).getD 0]

/-- A race that is logged: a record at RLTAIL. The spec gives its contents and not their places, so its bytes are
an opaque function of them (15 R374; log 15). -/
def logRace (q : Ask) (a : Access) : Act := fun p =>
  if !(p.now.raceFails a q.ident && p.now.logsRaces) then p
  else if p.now.rlog.full then modRest (fun s => { s with rllost := s.rllost + 1 }) p
  else
    raiseVec 0 11 (modRest (fun s => { s with rlog := s.rlog.push })
      (physWrite (p.now.rlog.slotAddr 32)
        ((List.range 32).map (Config.recordByte (p.now.raceContents q a))) p))

/-! ### Lanes -/

/-- Post what a lane waits for. -/
def postNeed (die : Nat) (a : Agent) : MemNeed → Act
  | .walk n => postWalk die a n
  | .fill d => postFill a d
  | .settle => id

/-- The trap of a lane that fails, naming it. -/
def failTrap (l : Lane) : LaneFail → Option Trap
  | .trap t => some { t with mask := l.bit }
  | .needs _ => none

/-- A lane with what its checks gave. -/
abbrev Checked (α : Type) := Lane × Except LaneFail α

/-- The lanes that passed. -/
def passed {α : Type} (rs : List (Checked α)) : List (Lane × α) :=
  rs.filterMap (fun e => match e.2 with
    | .ok a => some (e.1, a)
    | .error _ => none)

/-- What the lanes wait for. -/
def needsOf {α : Type} (rs : List (Checked α)) : List MemNeed :=
  rs.flatMap (fun e => match e.2 with
    | .ok _ => []
    | .error (.needs l) => l
    | .error (.trap _) => [])

/-- The lanes that trap. -/
def trapsOf {α : Type} (rs : List (Checked α)) : List (Lane × Trap) :=
  rs.filterMap (fun e => match e.2 with
    | .ok _ => none
    | .error x => (failTrap e.1 x).map (fun t => (e.1, t)))

/-- The checks of every active lane have given their results: the word waits for walks and fills, traps,
or goes on with the lanes that passed. A split gather traps only in its faulting lanes (05 R147). -/
def settle {α : Type} (n : Nat) (core : Nat) (split : Bool) (rs : List (Checked α))
    (go : List (Lane × α) → Act) : Act := fun p =>
  let die := core / 64
  let agent : Agent := .who (.strand n)
  match needsOf rs with
  | y :: l => hold (forEach (y :: l) (postNeed die agent) p)
  | [] =>
    let p := dropWalks die agent (dropFills agent p)
    let ts := trapsOf rs
    match worstTrap (ts.map (fun e => e.2)) with
    | none => go (passed rs) p
    | some t =>
      if split && ts.all (fun e => e.2.cause == .translation) && !(passed rs).isEmpty then
        go (passed rs) (trapSome n (ts.map (fun e => e.1.k)) t p)
      else trapWord t p

/-- The bounds of the counters: a word that would make one 16 waits (01 R13, 05 R146). -/
def countersFull (lanes : List Lane) (ld st : Bool) : Bool :=
  lanes.any (fun l => l.on && ((ld && 15 ≤ l.f.ld) || (st && 15 ≤ l.f.st)))

/-- The lanes that the word zeroes (02 R53). -/
def zeroLanes (rg : Regs) (lanes : List Lane) : Act :=
  forEach (lanes.filter (fun l => l.act == .zero)) (fun l => modFibre l.k rg.zeroed)

/-! ### Issue -/

/-- The loads of a fibre that still had to write a register of a new load no longer do (03 R73). -/
def killLoads (dst n : Nat) (l : List Load) : List Load :=
  (List.range n).foldl (fun m i => m.map (Load.kill (dst + i))) l

/-- A load issues in a fibre. -/
def issueLoad (k : Nat) (img : Img) (dst n : Nat) (src : LoadSrc) : Act := fun p =>
  let pc := ((p.now.issuing).map (fun e => e.2.pos.pc)).getD 0
  modFibre k (fun f =>
    { f with
      loads := killLoads dst n f.loads ++
        [{ id := f.nextId, img := img, dst := dst, n := n, src := src, pc := pc,
           word := p.now.cur.word, pfx := p.now.cur.pfx }]
      nextId := f.nextId + 1 }) p

/-- A store of the word with number `g` issues in a fibre. -/
def issueStore (g k : Nat) (kind : StoreKind) (data : List Byte) : Act :=
  modFibre k (fun f =>
    { f with
      stores := f.stores ++ [{ id := f.nextId, group := g, kind := kind, data := data }]
      nextId := f.nextId + 1 })

/-- The number of registers that an image fills (05 R137). -/
def Img.regs : Img → Nat
  | .b64 => 2
  | .b128 => 4
  | _ => 1

/-- The register operand of an image. -/
def Img.opd {w : Nat} (i : Img) (d : BitVec w) : Opd := { r := d.toNat, n := i.regs, al := i.regs }

/-- The low bytes of a register operand. -/
def storeData (f : Fibre) (d n : Nat) : List Byte := bytesOf (f.val d ((n + 3) / 4)) n

end Sys2Proof.Machine
end

