-- ==== Sys2Proof/Machine/LoadStore.lean ====
section
/-! DEFINITION. Loads and stores of fibres: global memory (`ld`, `st`, `lda`, `stl`), the stash (`sld`,
`sst`), the constant store (`cld`) and the pool (`pld`, `pst`) (05 R137-R140 R147 R148, 07 R176-R178
R197, 11 R277-R279). -/

namespace Sys2Proof.Machine

open Sys2Proof

/-! ### Global loads -/

/-- What an access of a lane asks (05 R131). -/
def laneAsk (n : Nat) (l : Lane) (a : BitVec 7) (b : Nat) (pfx : Int) (size : Nat)
    (rd wr at_ : Bool) (cache scope : Nat) : Ask :=
  { agent := .who (.strand n), core := l.x.core, slot := l.x.slot, lr := l.x.lr, ident := l.f.ident,
    mtc := bitOf l.x.ctl.toNat 23, b := b, off := ((l.f.reg a.toNat).toNat : Int) + pfx, n := size,
    rd := rd, wr := wr, at_ := at_, cache := cache, scope := scope }

/-- The core of the lanes of a strand. -/
def coreOfLanes (lanes : List Lane) : Nat := (lanes.head?.map (fun l => l.x.core)).getD 0

/-- The remote request of a load or returning atomic that the word of a fibre waits for (05 R148). -/
def Fibre.awaited (f : Fibre) : Option (Load × Access × RemoteState) :=
  f.loads.findSome? (fun l => match l.src with
    | .remote a r => some (l, a, r)
    | _ => none)

/-- A remote request may go out: no older acquire is outstanding, and the fibre's earlier stores have
left its queue and been answered (05 R140 R145). -/
def State.remoteReady (s : State) (l : Lane) (dev : Nat) : Bool :=
  l.f.stores.isEmpty && !l.f.loads.any (fun y => y.acquires) &&
    !s.remotes.any (fun e => e.2.dev == dev && e.2.use.isStore l.x.lr.ctx l.x.core)

/-- The load that stands for a remote request while its word waits. It writes no register yet. -/
def addAwaited (k : Nat) (img : Img) (dst : Nat) (a : Access) (op : RemoteOp) : Act := fun p =>
  match tget p.now.fibres k, a.remote with
  | some f, some dev =>
    issueLoad k img dst 0 (.remote a .waiting)
      (sendRemote dev a.pa op (.load (.fibre k) f.nextId) p)
  | _, _ => p

/-- The load of a lane that is waited for is gone. -/
def dropAwaited (k : Nat) : Act := modFibre k (fun f =>
  { f with loads := f.loads.filter (fun l => match l.src with
      | .remote _ _ => false
      | _ => true) })

/-- A trap of a remote word, at the address of a lane. -/
def remoteTrap (c : Cause) (detail : Nat) (ls : List (Lane × Load × Access × RemoteState)) : Trap :=
  { cause := c, detail := detail, mask := maskOf (ls.map (fun e => e.1)),
    addr := (ls.head?.map (fun e => e.2.2.1.va)).getD 0 }

/-- The data of a lane has come: its destinations are written. -/
def writeAwaited (e : Lane × Load × Access × RemoteState) : Act :=
  match e.2.2.2 with
  | .arrived bytes => modFibre e.1.k (fun f =>
      f.setVal e.2.1.dst e.2.1.img.regs (ofBytes
        ((imageWords e.2.1.img (ofBytes bytes)).flatMap (fun w => bytesOf w.toNat 4))))
  | _ => id

/-- A word that waits for remote data goes on once every lane has its data or has lost it: a dropped
request is RIGHTS for the word; lanes whose data came write it and retire, poisoned lanes take POISON,
lost ones REMOTE_PARTIAL (05 R148 R149, 16 R390 R391). -/
def endRemote (n : Nat) (rg : Regs) (detail : Nat) (all : List Lane) (acq : Bool) : Act := fun p =>
  -- fibres that joined the strand since have no request out: they are filed and issue the word later
  let late := all.filter (fun l => l.on && l.f.awaited.isNone)
  let p := refileHere n (late.map (fun l => l.k)) (leaveStrand n (late.map (fun l => l.k))) p
  let lanes := all.filter (fun l => !(l.on && l.f.awaited.isNone))
  let ws := lanes.filterMap (fun l => l.f.awaited.map (fun e => (l, e)))
  let are := fun (c : RemoteState → Bool) => ws.filter (fun e => c e.2.2.2)
  if !(are (fun r => r == .waiting)).isEmpty then stall p
  else
    let p := forEach ws (fun e => dropAwaited e.1.k) p
    match are (fun r => r == .dropped) with
    | d :: r => trapWord (remoteTrap .rights detail (d :: r)) p
    | [] =>
      let ok := are (fun r => match r with
        | .arrived _ => true
        | _ => false)
      let lost := are (fun r => r == .lost)
      let bad := are (fun r => r == .poisoned)
      let p := zeroLanes rg lanes (forEach ok writeAwaited p)
      let p := if acq then dropAllL1 (coreOfLanes lanes) p else p
      let part := if ok.isEmpty then 0 else 32
      let p := match bad, lost with
        | [], [] => p
        | [], l => trapSome n (l.map (fun e => e.1.k)) (remoteTrap .remotePartial (detail + part) l) p
        | b, [] => trapSome n (b.map (fun e => e.1.k)) (remoteTrap .poison detail b) p
        | b, l =>
          let ks := l.map (fun e => e.1.k)
          refileHere n ks (fun q =>
            leaveStrand n ks (trapSome n (b.map (fun e => e.1.k)) (remoteTrap .poison detail b) q)) p
      retire p

/-- A load of global memory. -/
def loadWord (img : Img) (d a : BitVec 7) (b : Nat) (cache scope : Nat) (acq split : Bool) : Act :=
  let rg : Regs := { src := [one a], dst := [img.opd d] }
  fibreWord rg anyone (fun n lanes p =>
    let ask := fun (l : Lane) =>
      laneAsk n l a b p.now.prefixOffset img.bytes true false false cache scope
    if lanes.any (fun l => l.f.awaited.isSome) then endRemote n rg 0 lanes acq p
    else if countersFull lanes true false then hold p
    else
      let act := lanes.filter (fun l => l.on)
      settle n (coreOfLanes lanes) split (act.map (fun l => (l, p.now.checkAccess (ask l))))
        (fun ok p =>
          let p := forEach ok (fun e => useEntry (ask e.1)) p
          if ok.any (fun e => e.2.remote.isSome) then
            if ok.all (fun e => p.now.remoteReady e.1 (e.2.remote.getD 0)) then
              stall (forEach ok (fun e =>
                addAwaited e.1.k img d.toNat e.2 (.read img.bytes)) p)
            else hold p
          else
            let p := forEach ok (fun e =>
              issueLoad e.1.k img d.toNat img.regs (.mem e.2 acq)) p
            let p := forEach ok (fun e => logRace (ask e.1) e.2) p
            retire (zeroLanes rg lanes p)) p)

/-- A store to global memory; `rel` for an `stl`. -/
def storeWord (n : Nat) (d a : BitVec 7) (b : Nat) (cache scope : Nat) (rel : Bool) : Act :=
  let r := (n + 3) / 4
  let rg : Regs := { src := [one a, { r := d.toNat, n := r, al := r }] }
  fibreWord rg anyone (fun k lanes p =>
    let ask := fun (l : Lane) =>
      laneAsk k l a b p.now.prefixOffset n false true false cache scope
    if countersFull lanes false true then hold p
    else
      let act := lanes.filter (fun l => l.on)
      settle k (coreOfLanes lanes) false (act.map (fun l => (l, p.now.checkAccess (ask l))))
        (fun ok p =>
          let g := p.now.nextKey
          let p := bumpKey (forEach ok (fun e => useEntry (ask e.1)) p)
          let p := forEach ok (fun e => issueStore g e.1.k
            (.mem e.2 (if rel then some e.2.scope else none)) (storeData e.1.f d.toNat n)) p
          retire (forEach ok (fun e => logRace (ask e.1) e.2) p)) p)

/-! ### The stash -/

/-- The checks of a stash access of a lane (07 R177 R185). -/
def State.checkStash (s : State) (agent : Agent) (sk : Nat) (lr : LaunchRec) (off : Int) (n : Nat)
    (write : Bool) : Except LaneFail Nat :=
  let fail := fun (c : Cause) (d : Nat) =>
    (.error (.trap { cause := c, detail := d, addr := zextI off 64 }) : Except LaneFail Nat)
  if off % (n : Int) != 0 then fail .misaligned 0
  else if off < 0 || (lr.stash : Int) < off + n then fail .stashBounds 0
  else
    let o := off.toNat
    match s.mapDetail sk o n write with
    | 0 =>
      match (s.fillNeeds sk o n write).filter (fun d => !s.filledFor agent d) with
      | [] => .ok o
      | d :: l =>
        match s.keptFill agent d with
        | some e => .error (.trap (fillTrap e 0))
        | none => .error (.needs ((d :: l).map .fill))
    | d => fail .stashMap d

/-- The offset of a word with an immediate that its size scales (07 R176, 11 R277). -/
def scaledOffset {w : Nat} (l : Lane) (a : BitVec 7) (i : BitVec w) (n : Nat) (pfx : Int) : Int :=
  ((l.f.reg a.toNat).toNat : Int) + i.toNat * n + pfx

/-- The passes of a stash word, added to sr.spass of each fibre of its strand (07 R179). -/
def countPasses (n : Nat) (lanes : List Lane) (ok : List (Lane × Nat)) : Act :=
  addPasses lanes
    (passesOf n (ok.map (fun e => (e.1.f.lane.toNat, e.1.f.sk, e.2))))

/-- `sld` (07 R176-R179). -/
def stashLoad (img : Img) (d a : BitVec 7) (i : BitVec 9) : Act :=
  let rg : Regs := { src := [one a], dst := [img.opd d] }
  fibreWord rg anyone (fun n lanes p =>
    if countersFull lanes true false then hold p
    else
      let act := lanes.filter (fun l => l.on)
      settle n (coreOfLanes lanes) false (act.map (fun l => (l,
          p.now.checkStash (.who (.strand n)) l.f.sk l.x.lr
            (scaledOffset l a i img.bytes p.now.prefixOffset) img.bytes false)))
        (fun ok p =>
          let p := forEach ok (fun e => issueLoad e.1.k img d.toNat img.regs (.stash e.2)) p
          retire (zeroLanes rg lanes (countPasses img.bytes lanes ok p))) p)

/-- `sst` (07 R176-R179). -/
def stashStore (n : Nat) (d a : BitVec 7) (i : BitVec 9) : Act :=
  let r := (n + 3) / 4
  let rg : Regs := { src := [one a, { r := d.toNat, n := r, al := r }] }
  fibreWord rg anyone (fun k lanes p =>
    if countersFull lanes false true then hold p
    else
      let act := lanes.filter (fun l => l.on)
      settle k (coreOfLanes lanes) false (act.map (fun l => (l,
          p.now.checkStash (.who (.strand k)) l.f.sk l.x.lr
            (scaledOffset l a i n p.now.prefixOffset) n true)))
        (fun ok p =>
          let g := p.now.nextKey
          let p := forEach ok (fun e => issueStore g e.1.k (.stash e.2) (storeData e.1.f d.toNat n))
            (bumpKey p)
          retire (countPasses n lanes ok p)) p)

/-! ### The constant store and the pool -/

/-- The checks of an access to the constant store or the pool (07 R197, 11 R278). -/
def checkPlain (off : Int) (n size : Nat) (c : Cause) : Except LaneFail Nat :=
  if off % (n : Int) != 0 then .error (.trap { cause := .misaligned, addr := zextI off 64 })
  else if off < 0 || (size : Int) < off + n then .error (.trap { cause := c, addr := zextI off 64 })
  else .ok off.toNat

/-- A load of the constant store or the pool. -/
def plainLoad (img : Img) (d a : BitVec 7) (off : Lane → Int → Int) (size : LaunchRec → Nat)
    (c : Cause) (src : Nat → LoadSrc) : Act :=
  let rg : Regs := { src := [one a], dst := [img.opd d] }
  fibreWord rg anyone (fun n lanes p =>
    if countersFull lanes true false then hold p
    else
      let act := lanes.filter (fun l => l.on)
      settle n (coreOfLanes lanes) false (act.map (fun l => (l,
          checkPlain (off l p.now.prefixOffset) img.bytes (size l.x.lr) c)))
        (fun ok p => retire (zeroLanes rg lanes
          (forEach ok (fun e => issueLoad e.1.k img d.toNat img.regs (src e.2)) p))) p)

/-- `cld` (07 R197). -/
def constLoad (img : Img) (d a : BitVec 7) (i : BitVec 9) : Act :=
  plainLoad img d a (fun l x => scaledOffset l a i img.bytes x) (fun r => r.clen) .constBounds .const

/-- `pld` (11 R277-R279). -/
def poolLoad (img : Img) (d a : BitVec 7) (i : BitVec 8) : Act :=
  plainLoad img d a (fun l x => scaledOffset l a i img.bytes x) (fun r => r.pool) .poolBounds .pool

/-- `pst` (11 R277-R279). -/
def poolStore (n : Nat) (d a : BitVec 7) (i : BitVec 8) : Act :=
  let r := (n + 3) / 4
  let rg : Regs := { src := [one a, { r := d.toNat, n := r, al := r }] }
  fibreWord rg anyone (fun k lanes p =>
    if countersFull lanes false true then hold p
    else
      let act := lanes.filter (fun l => l.on)
      settle k (coreOfLanes lanes) false (act.map (fun l => (l,
          checkPlain (scaledOffset l a i n p.now.prefixOffset) n l.x.lr.pool .poolBounds)))
        (fun ok p =>
          let g := p.now.nextKey
          retire (forEach ok (fun e => issueStore g e.1.k (.pool e.2) (storeData e.1.f d.toNat n))
            (bumpKey p))) p)

/-! ### The instructions -/

/-- `ld.n8` (05 R137 R138 R147). -/
def execLdN8 (d a : BitVec 7) (b : BitVec 6) (c : BitVec 2) (x : BitVec 1) (s : State) :
    Host.Outcome State Fault Refusal :=
  commit s (loadWord .n8 d a b.toNat c.toNat 7 false (x != 0))

/-- `ld.i8` (05 R137 R138 R147). -/
def execLdI8 (d a : BitVec 7) (b : BitVec 6) (c : BitVec 2) (x : BitVec 1) (s : State) :
    Host.Outcome State Fault Refusal :=
  commit s (loadWord .i8 d a b.toNat c.toNat 7 false (x != 0))

/-- `ld.n16` (05 R137 R138 R147). -/
def execLdN16 (d a : BitVec 7) (b : BitVec 6) (c : BitVec 2) (x : BitVec 1) (s : State) :
    Host.Outcome State Fault Refusal :=
  commit s (loadWord .n16 d a b.toNat c.toNat 7 false (x != 0))

/-- `ld.i16` (05 R137 R138 R147). -/
def execLdI16 (d a : BitVec 7) (b : BitVec 6) (c : BitVec 2) (x : BitVec 1) (s : State) :
    Host.Outcome State Fault Refusal :=
  commit s (loadWord .i16 d a b.toNat c.toNat 7 false (x != 0))

/-- `ld.b32` (05 R137 R138 R147). -/
def execLdB32 (d a : BitVec 7) (b : BitVec 6) (c : BitVec 2) (x : BitVec 1) (s : State) :
    Host.Outcome State Fault Refusal :=
  commit s (loadWord .b32 d a b.toNat c.toNat 7 false (x != 0))

/-- `ld.b64` (05 R137 R138 R147). -/
def execLdB64 (d a : BitVec 7) (b : BitVec 6) (c : BitVec 2) (x : BitVec 1) (s : State) :
    Host.Outcome State Fault Refusal :=
  commit s (loadWord .b64 d a b.toNat c.toNat 7 false (x != 0))

/-- `ld.b128` (05 R137 R138 R147). -/
def execLdB128 (d a : BitVec 7) (b : BitVec 6) (c : BitVec 2) (x : BitVec 1) (s : State) :
    Host.Outcome State Fault Refusal :=
  commit s (loadWord .b128 d a b.toNat c.toNat 7 false (x != 0))

/-- `st.b8` (05 R137 R138). -/
def execStB8 (d a : BitVec 7) (b : BitVec 6) (c : BitVec 2) (s : State) :
    Host.Outcome State Fault Refusal :=
  commit s (storeWord 1 d a b.toNat c.toNat 7 false)

/-- `st.b16` (05 R137 R138). -/
def execStB16 (d a : BitVec 7) (b : BitVec 6) (c : BitVec 2) (s : State) :
    Host.Outcome State Fault Refusal :=
  commit s (storeWord 2 d a b.toNat c.toNat 7 false)

/-- `st.b32` (05 R137 R138). -/
def execStB32 (d a : BitVec 7) (b : BitVec 6) (c : BitVec 2) (s : State) :
    Host.Outcome State Fault Refusal :=
  commit s (storeWord 4 d a b.toNat c.toNat 7 false)

/-- `st.b64` (05 R137 R138). -/
def execStB64 (d a : BitVec 7) (b : BitVec 6) (c : BitVec 2) (s : State) :
    Host.Outcome State Fault Refusal :=
  commit s (storeWord 8 d a b.toNat c.toNat 7 false)

/-- `st.b128` (05 R137 R138). -/
def execStB128 (d a : BitVec 7) (b : BitVec 6) (c : BitVec 2) (s : State) :
    Host.Outcome State Fault Refusal :=
  commit s (storeWord 16 d a b.toNat c.toNat 7 false)

/-- `lda.n8` (05 R140). -/
def execLdaN8 (d a : BitVec 7) (b : BitVec 6) (x : BitVec 3) (s : State) :
    Host.Outcome State Fault Refusal :=
  commit s (loadWord .n8 d a b.toNat 1 x.toNat true false)

/-- `lda.i8` (05 R140). -/
def execLdaI8 (d a : BitVec 7) (b : BitVec 6) (x : BitVec 3) (s : State) :
    Host.Outcome State Fault Refusal :=
  commit s (loadWord .i8 d a b.toNat 1 x.toNat true false)

/-- `lda.n16` (05 R140). -/
def execLdaN16 (d a : BitVec 7) (b : BitVec 6) (x : BitVec 3) (s : State) :
    Host.Outcome State Fault Refusal :=
  commit s (loadWord .n16 d a b.toNat 1 x.toNat true false)

/-- `lda.i16` (05 R140). -/
def execLdaI16 (d a : BitVec 7) (b : BitVec 6) (x : BitVec 3) (s : State) :
    Host.Outcome State Fault Refusal :=
  commit s (loadWord .i16 d a b.toNat 1 x.toNat true false)

/-- `lda.b32` (05 R140). -/
def execLdaB32 (d a : BitVec 7) (b : BitVec 6) (x : BitVec 3) (s : State) :
    Host.Outcome State Fault Refusal :=
  commit s (loadWord .b32 d a b.toNat 1 x.toNat true false)

/-- `lda.b64` (05 R140). -/
def execLdaB64 (d a : BitVec 7) (b : BitVec 6) (x : BitVec 3) (s : State) :
    Host.Outcome State Fault Refusal :=
  commit s (loadWord .b64 d a b.toNat 1 x.toNat true false)

/-- `lda.b128` (05 R140). -/
def execLdaB128 (d a : BitVec 7) (b : BitVec 6) (x : BitVec 3) (s : State) :
    Host.Outcome State Fault Refusal :=
  commit s (loadWord .b128 d a b.toNat 1 x.toNat true false)

/-- `stl.b8` (05 R140). -/
def execStlB8 (d a : BitVec 7) (b : BitVec 6) (x : BitVec 3) (s : State) :
    Host.Outcome State Fault Refusal :=
  commit s (storeWord 1 d a b.toNat 0 x.toNat true)

/-- `stl.b16` (05 R140). -/
def execStlB16 (d a : BitVec 7) (b : BitVec 6) (x : BitVec 3) (s : State) :
    Host.Outcome State Fault Refusal :=
  commit s (storeWord 2 d a b.toNat 0 x.toNat true)

/-- `stl.b32` (05 R140). -/
def execStlB32 (d a : BitVec 7) (b : BitVec 6) (x : BitVec 3) (s : State) :
    Host.Outcome State Fault Refusal :=
  commit s (storeWord 4 d a b.toNat 0 x.toNat true)

/-- `stl.b64` (05 R140). -/
def execStlB64 (d a : BitVec 7) (b : BitVec 6) (x : BitVec 3) (s : State) :
    Host.Outcome State Fault Refusal :=
  commit s (storeWord 8 d a b.toNat 0 x.toNat true)

/-- `stl.b128` (05 R140). -/
def execStlB128 (d a : BitVec 7) (b : BitVec 6) (x : BitVec 3) (s : State) :
    Host.Outcome State Fault Refusal :=
  commit s (storeWord 16 d a b.toNat 0 x.toNat true)

/-- `sld.n8` (07 R176). -/
def execSldN8 (d a : BitVec 7) (i : BitVec 9) (s : State) : Host.Outcome State Fault Refusal :=
  commit s (stashLoad .n8 d a i)

/-- `sld.i8` (07 R176). -/
def execSldI8 (d a : BitVec 7) (i : BitVec 9) (s : State) : Host.Outcome State Fault Refusal :=
  commit s (stashLoad .i8 d a i)

/-- `sld.n16` (07 R176). -/
def execSldN16 (d a : BitVec 7) (i : BitVec 9) (s : State) : Host.Outcome State Fault Refusal :=
  commit s (stashLoad .n16 d a i)

/-- `sld.i16` (07 R176). -/
def execSldI16 (d a : BitVec 7) (i : BitVec 9) (s : State) : Host.Outcome State Fault Refusal :=
  commit s (stashLoad .i16 d a i)

/-- `sld.b32` (07 R176). -/
def execSldB32 (d a : BitVec 7) (i : BitVec 9) (s : State) : Host.Outcome State Fault Refusal :=
  commit s (stashLoad .b32 d a i)

/-- `sld.b64` (07 R176). -/
def execSldB64 (d a : BitVec 7) (i : BitVec 9) (s : State) : Host.Outcome State Fault Refusal :=
  commit s (stashLoad .b64 d a i)

/-- `sld.b128` (07 R176). -/
def execSldB128 (d a : BitVec 7) (i : BitVec 9) (s : State) : Host.Outcome State Fault Refusal :=
  commit s (stashLoad .b128 d a i)

/-- `cld.n8` (07 R197). -/
def execCldN8 (d a : BitVec 7) (i : BitVec 9) (s : State) : Host.Outcome State Fault Refusal :=
  commit s (constLoad .n8 d a i)

/-- `cld.i8` (07 R197). -/
def execCldI8 (d a : BitVec 7) (i : BitVec 9) (s : State) : Host.Outcome State Fault Refusal :=
  commit s (constLoad .i8 d a i)

/-- `cld.n16` (07 R197). -/
def execCldN16 (d a : BitVec 7) (i : BitVec 9) (s : State) : Host.Outcome State Fault Refusal :=
  commit s (constLoad .n16 d a i)

/-- `cld.i16` (07 R197). -/
def execCldI16 (d a : BitVec 7) (i : BitVec 9) (s : State) : Host.Outcome State Fault Refusal :=
  commit s (constLoad .i16 d a i)

/-- `cld.b32` (07 R197). -/
def execCldB32 (d a : BitVec 7) (i : BitVec 9) (s : State) : Host.Outcome State Fault Refusal :=
  commit s (constLoad .b32 d a i)

/-- `cld.b64` (07 R197). -/
def execCldB64 (d a : BitVec 7) (i : BitVec 9) (s : State) : Host.Outcome State Fault Refusal :=
  commit s (constLoad .b64 d a i)

/-- `cld.b128` (07 R197). -/
def execCldB128 (d a : BitVec 7) (i : BitVec 9) (s : State) : Host.Outcome State Fault Refusal :=
  commit s (constLoad .b128 d a i)

/-- `pld.n8` (11 R277). -/
def execPldN8 (d a : BitVec 7) (i : BitVec 8) (s : State) : Host.Outcome State Fault Refusal :=
  commit s (poolLoad .n8 d a i)

/-- `pld.i8` (11 R277). -/
def execPldI8 (d a : BitVec 7) (i : BitVec 8) (s : State) : Host.Outcome State Fault Refusal :=
  commit s (poolLoad .i8 d a i)

/-- `pld.n16` (11 R277). -/
def execPldN16 (d a : BitVec 7) (i : BitVec 8) (s : State) : Host.Outcome State Fault Refusal :=
  commit s (poolLoad .n16 d a i)

/-- `pld.i16` (11 R277). -/
def execPldI16 (d a : BitVec 7) (i : BitVec 8) (s : State) : Host.Outcome State Fault Refusal :=
  commit s (poolLoad .i16 d a i)

/-- `pld.b32` (11 R277). -/
def execPldB32 (d a : BitVec 7) (i : BitVec 8) (s : State) : Host.Outcome State Fault Refusal :=
  commit s (poolLoad .b32 d a i)

/-- `pld.b64` (11 R277). -/
def execPldB64 (d a : BitVec 7) (i : BitVec 8) (s : State) : Host.Outcome State Fault Refusal :=
  commit s (poolLoad .b64 d a i)

/-- `pld.b128` (11 R277). -/
def execPldB128 (d a : BitVec 7) (i : BitVec 8) (s : State) : Host.Outcome State Fault Refusal :=
  commit s (poolLoad .b128 d a i)

/-- `sst.b8` (07 R176). -/
def execSstB8 (d a : BitVec 7) (i : BitVec 9) (s : State) : Host.Outcome State Fault Refusal :=
  commit s (stashStore 1 d a i)

/-- `sst.b16` (07 R176). -/
def execSstB16 (d a : BitVec 7) (i : BitVec 9) (s : State) : Host.Outcome State Fault Refusal :=
  commit s (stashStore 2 d a i)

/-- `sst.b32` (07 R176). -/
def execSstB32 (d a : BitVec 7) (i : BitVec 9) (s : State) : Host.Outcome State Fault Refusal :=
  commit s (stashStore 4 d a i)

/-- `sst.b64` (07 R176). -/
def execSstB64 (d a : BitVec 7) (i : BitVec 9) (s : State) : Host.Outcome State Fault Refusal :=
  commit s (stashStore 8 d a i)

/-- `sst.b128` (07 R176). -/
def execSstB128 (d a : BitVec 7) (i : BitVec 9) (s : State) : Host.Outcome State Fault Refusal :=
  commit s (stashStore 16 d a i)

/-- `pst.b8` (11 R277). -/
def execPstB8 (d a : BitVec 7) (i : BitVec 8) (s : State) : Host.Outcome State Fault Refusal :=
  commit s (poolStore 1 d a i)

/-- `pst.b16` (11 R277). -/
def execPstB16 (d a : BitVec 7) (i : BitVec 8) (s : State) : Host.Outcome State Fault Refusal :=
  commit s (poolStore 2 d a i)

/-- `pst.b32` (11 R277). -/
def execPstB32 (d a : BitVec 7) (i : BitVec 8) (s : State) : Host.Outcome State Fault Refusal :=
  commit s (poolStore 4 d a i)

/-- `pst.b64` (11 R277). -/
def execPstB64 (d a : BitVec 7) (i : BitVec 8) (s : State) : Host.Outcome State Fault Refusal :=
  commit s (poolStore 8 d a i)

/-- `pst.b128` (11 R277). -/
def execPstB128 (d a : BitVec 7) (i : BitVec 8) (s : State) : Host.Outcome State Fault Refusal :=
  commit s (poolStore 16 d a i)

end Sys2Proof.Machine
end

