-- ==== Sys2Proof/Machine/Stores.lean ====
section
/-! DEFINITION. The store queue of a context: when its oldest entry is performed, the write packets that
carry stores to other dies, and the values that atomics make (05 R140-R146, 15 R359-R366). -/

namespace Sys2Proof.Machine

open Sys2Proof

/-! ### The values of atomics (05 R141) -/

/-- The sum of two elements, rounded to nearest even. -/
def atomAdd (t : Fmt) (x y : Nat) : Nat :=
  (finishSum t {} (exactSum .rne [FV.of t x, FV.of t y])).bits

/-- The extreme of two elements; a NaN result is the canonical one. -/
def atomExtreme (t : Fmt) (larger : Bool) (x y : Nat) : Nat :=
  let r := (fMinMax t larger false x y).bits
  if FV.of t r == .nan then t.nanPat else r

/-- An operation on the two halves of a word. -/
def onHalves (g : Nat → Nat → Nat) (x y : Nat) : Nat :=
  g (half x 0) (half y 0) + g (half x 1) (half y 1) * 2 ^ 16

/-- The bytes of an atomic form, by its code (05 R141). -/
def atomBytes (op : Nat) : Nat :=
  if op == 13 then 16
  else if op == 1 || op == 10 || op == 12 || op == 15 || op == 20 || op == 21 then 8
  else 4

/-- The value that an atomic leaves in memory, from the old value, its data and its compare value
(05 R141). -/
def atomValue (op n x d cmp : Nat) : Nat :=
  let w := 2 ^ (8 * n)
  match op with
  | 0 => (x + d) % w
  | 1 => (x + d) % w
  | 2 => if sextN d 32 < sextN x 32 then d else x
  | 3 => if sextN x 32 < sextN d 32 then d else x
  | 4 => min x d
  | 5 => max x d
  | 6 => x &&& d
  | 7 => x ||| d
  | 8 => x ^^^ d
  | 9 => d
  | 10 => d
  | 11 => if x = cmp then d else x
  | 12 => if x = cmp then d else x
  | 13 => if x = cmp then d else x
  | 14 => atomAdd .f32 x d
  | 15 => atomAdd .f64 x d
  | 16 => onHalves (atomAdd .f16) x d
  | 17 => onHalves (atomAdd .bf16) x d
  | 18 => atomExtreme .f32 false x d
  | 19 => atomExtreme .f32 true x d
  | 20 => atomExtreme .f64 false x d
  | 21 => atomExtreme .f64 true x d
  | 22 => onHalves (atomExtreme .f16 false) x d
  | 23 => onHalves (atomExtreme .f16 true) x d
  | 24 => onHalves (atomExtreme .bf16 false) x d
  | _ => onHalves (atomExtreme .bf16 true) x d

/-! ### When a store is performed -/

/-- The interval counters of a context. -/
def State.ivlOf (s : State) (c : Ctx) : Table DWord :=
  match c with
  | .fibre k => ((tget s.fibres k).map (fun f => f.ivl)).getD []
  | .front k => ((tget s.skeins k).map (fun x => x.front.ivl)).getD []

/-- A release at a scope raises the counters of that scope and of every narrower one (15 R374). -/
def raiseIvl (c : Ctx) (scope : Nat) : Act :=
  let up := fun (t : Table DWord) =>
    (List.range (scope + 1)).foldl (fun t i => tput t i (tgetD t i 0 + 1)) t
  match c with
  | .fibre k => modFibre k (fun f => { f with ivl := up f.ivl })
  | .front k => modFront k (fun f => { f with ivl := up f.ivl })

/-- The identity of a context, for the race watch. -/
def State.identOf (s : State) (c : Ctx) : Option Ident :=
  match c with
  | .fibre k => (tget s.fibres k).map (fun f => f.ident)
  | .front k => (tget s.skeins k).map (fun x => x.front.ident)

/-- The mark that a watched write leaves in its shadow (15 R374). -/
def State.markOf (s : State) (c : Ctx) (a : Access) : Option (Ident × DWord) :=
  if a.watch && a.tracked && isPackage a.pa then
    (s.identOf c).map (fun i => (i, tgetD (s.ivlOf c) a.ascope 0))
  else none

/-- The loads of a context that a store of its own follows are performed (05 R145). -/
def State.loadsBefore (s : State) (c : Ctx) (id : Nat) : Bool :=
  (s.loadsOf c).all (fun y => id ≤ y.id || !y.ordered)

/-- A core has a store to a remote device or the host's memory that is not yet answered. -/
def State.remoteStores (s : State) (core : Nat) : Bool :=
  s.remotes.any (fun e => match e.2.use with
    | .store _ k _ => k == core
    | _ => false)

/-- Every earlier write of the core is performed at a scope (05 R140, 15 R361). -/
def State.flushed (s : State) (core scope : Nat) : Bool :=
  (scope = 0 || !s.unaccepted core) && (scope < 4 || !s.remoteStores core)

/-- An untracked write, which is performed at once, follows every packet of its core: they are accepted, and those
that write its line are applied (15 R354 R360 R372). -/
def State.untrackedOpen (s : State) (core : Nat) (a : Access) : Bool :=
  !s.unaccepted core && !s.ownHeld core (lineOf a.pa)

/-- The fabric lets a write of a core to package memory go, but for the window (15 R361 R364, 12 R303). -/
def State.wayOpen (s : State) (core : Nat) (a : Access) : Bool :=
  if a.tracked then
    let d := s.server a
    !s.heldUp core d && !s.lineMoving (lineOf a.pa) && (d != core / 64 || s.caughtUp d d)
  else s.untrackedOpen core a

/-- The window lets a write of a core go, where it travels as a packet (15 R365). -/
def State.windowFor (s : State) (core : Nat) (a : Access) : Bool :=
  !a.tracked || s.server a == core / 64 || s.windowOpen (core / 64) (s.server a)

/-- The fabric lets a write of a core to package memory go (15 R361 R364 R365). -/
def State.fabricOpen (s : State) (core : Nat) (a : Access) : Bool := s.wayOpen core a && s.windowFor core a

/-- An atomic can be performed at its holder now. -/
def State.atomicOpen (s : State) (core : Nat) (a : Access) : Bool :=
  if a.tracked then
    !s.heldUp core (s.server a) && !s.lineHeld (some core) (lineOf a.pa) &&
      s.caughtUp (core / 64) (s.server a)
  else s.untrackedOpen core a

/-- The head of a queue may be performed, as far as its own kind asks. -/
def State.headDue (s : State) (core : Nat) (x : Store) : Bool :=
  match x.kind with
  | .stash _ => true
  | .pool _ => true
  | .mem a rel =>
    (match rel with
     | some sc => s.flushed core sc
     | none => true) &&
      (a.remote.isSome || !isPackage a.pa || s.fabricOpen core a)
  | .atom a _ _ _ _ => a.remote.isSome || !isPackage a.pa || s.atomicOpen core a

/-- The contexts whose queues hold an entry of a word, with their home lanes, in ascending lane. -/
def State.groupMembers (s : State) (g : Nat) : List (Nat × Fibre) :=
  let has := s.fibres.filter (fun e => e.2.stores.any (fun x => x.group == g && !x.sent))
  (List.range 64).flatMap (fun l => has.filter (fun e => e.2.lane.toNat == l))

/-- The first entry of a queue that has not been sent. -/
def headOf (l : List Store) : Option Store := l.find? (fun x => !x.sent)

/-- Every lane of a word has its entry at the head of its queue, behind no older load. -/
def State.groupReady (s : State) (g : Nat) : Bool :=
  (s.groupMembers g).all (fun e => match headOf e.2.stores with
    | some x => x.group == g && s.loadsBefore (.fibre e.1) x.id
    | none => false)

/-- The turn of a context at the merge point of its core (05 R143, 07 R178, 15 R359). -/
def State.mergeTurn (s : State) (c : Ctx) (core : Nat) (x : Store) : Bool :=
  match c with
  | .front k => s.loadsBefore (.front k) x.id
  | .fibre k =>
    let first := ((s.groupMembers x.group).head?.map (fun e => e.1)) == some k
    match (s.core core).merging with
    | some g => if (s.groupMembers g).isEmpty then first && s.groupReady x.group
                else g == x.group && first
    | none => first && s.groupReady x.group

/-! ### Performing a store -/

/-- The entry leaves its queue. -/
def dequeue (c : Ctx) (id : Nat) : Act := modStores c (fun l => l.filter (fun x => x.id != id))

/-- A release that has been sent stays on ST until it is accepted, and an atomic of a remote device until it is
answered (05 R146). -/
def markSent (c : Ctx) (id : Nat) : Act := modStores c (fun l => l.map (fun x =>
  if x.id = id then { x with sent := true } else x))

/-- A write packet goes out on the fabric (15 R361 R364). -/
def sendPacket (s_ d origin : Nat) (a : Access) (data : List Byte) (mark : Option (Ident × DWord))
    (release : Option (Ctx × Nat)) : Act := fun p =>
  let p := modDie s_ (fun x =>
    { x with c := tputD x.c (5 * d + s_) 0 (tgetD x.c (5 * d + s_) 0 + 1) }) p
  bumpKey (modRest (fun s => { s with packets := s.packets ++ [
    { src := s_, dst := d, origin := origin, inc := (s.die s_).inc,
      stamp := (List.range 5).map (fun k => s.count s_ d k), access := a, data := data,
      writer := mark, at_ := .flight,
      id := s.nextKey, release := release }] }) p)

/-- A store to global memory is performed or sent (05 R146, 15 R361). -/
def performStore (c : Ctx) (core : Nat) (x : Store) (a : Access) (rel : Option Nat) : Act := fun p =>
  let own := core / 64
  let mark := p.now.markOf c a
  let place : Place := (0, a.pa, x.data.length)
  match a.remote with
  | some dev =>
    let far : Bool := match rel with
      | some sc => decide (4 ≤ sc)
      | none => false
    let p := sendRemote dev a.pa (.write x.data) (.store a.ctx core (if far then some (c, x.id) else none)) p
    match rel with
    | some sc => raiseIvl c sc (if far then markSent c x.id p else dequeue c x.id p)
    | none => dequeue c x.id p
  | none =>
    if isPackage a.pa && a.tracked && p.now.server a != own && !p.now.homeGone a.pa then
      let near : Bool := match rel with
        | some sc => decide (1 ≤ sc)
        | none => false
      let p := seenByCore core place x.data
        (sendPacket own (p.now.server a) core a x.data mark (if near then some (c, x.id) else none) p)
      match rel with
      | some sc => raiseIvl c sc (if 1 ≤ sc then markSent c x.id p else dequeue c x.id p)
      | none => dequeue c x.id p
    else
      let p := seenByCore core place x.data (performOut own a x.data mark p)
      match rel with
      | some sc => raiseIvl c sc (dequeue c x.id p)
      | none => dequeue c x.id p

/-- The load that returns the old value of an atomic has it. -/
def answerAtomic (c : Ctx) (load : Option Nat) (poisoned : Bool) (v : Nat) : Act :=
  match load with
  | none => id
  | some i => modLoads c (fun ls => ls.map (fun y =>
      if y.id = i then
        if poisoned then { y with poisoned := true } else { y with src := .value v }
      else y))

/-- An atomic is performed at the holder of its line, indivisibly; one that meets poisoned bytes leaves
them (05 R142 R149; log 16). One of a remote device counts on ST until the device has answered (05 R146). One whose completion from the host returns an error status is performed or not,
and what it would return is poisoned (16 R383; log 40). -/
def performAtomic (c : Ctx) (core : Nat) (x : Store) (a : Access) (op cmp : Nat) (load : Option Nat) :
    Act := fun p =>
  match a.remote with
  | some dev =>
    markSent c x.id (sendRemote dev a.pa
      (.atomic (BitVec.ofNat 5 op) a.n (ofBytes x.data) cmp false) (.store a.ctx core (some (c, x.id))) p)
  | none =>
    let p := performRead (core / 64) a p
    if p.now.readsPoison a then dequeue c x.id (answerAtomic c load true 0 p)
    else
      let old := ofBytes (p.now.readAt a)
      let new := bytesOf (atomValue op a.n old (ofBytes x.data) cmp) a.n
      if p.now.hostError a then
        match load with
        | none => dequeue c x.id (performOut (core / 64) a new (p.now.markOf c a) p)
        | some _ =>
          dequeue c x.id (answerAtomic c load true 0
            (actIf (Config.flip p.now.fresh) (performWrite (core / 64) a new (p.now.markOf c a)) p))
      else
        let p := performWrite (core / 64) a new (p.now.markOf c a) p
        let p := dropL1 core (lineOf a.pa) (seenByCore core (0, a.pa, a.n) new p)
        dequeue c x.id (answerAtomic c load false old p)

/-- What a stash store still needs: a line recalled since its word retired is touched anew
(12 R305 R307). -/
def State.storeNeeds (s : State) (c : Ctx) (x : Store) : List FillNeed :=
  match x.kind with
  | .stash o => s.fillNeeds ((s.skeinOf c).getD 0) o x.data.length true
  | _ => []

/-- Bytes written to the pool of a skein (11 R279). -/
def poolWrite (sk off : Nat) (data : List Byte) : Act := fun p =>
  match p.now.poolOf sk with
  | none => p
  | some (k, _) => modPool k (fun q =>
      { q with bytes := data.zipIdx.foldl (fun t e => tput t (off + e.2) e.1) q.bytes }) p

/-- The entry at the head of a queue is performed (05 R145 R146). -/
def performHead (c : Ctx) (core : Nat) (x : Store) : Act := fun p =>
  let sk := (p.now.skeinOf c).getD 0
  match x.kind with
  | .stash o =>
    dequeue c x.id (seenByCore core (1, o, x.data.length) x.data (stashWrite sk o x.data p))
  | .pool o =>
    dequeue c x.id (seenByCore core (2, o, x.data.length) x.data (poolWrite sk o x.data p))
  | .mem a rel => performStore c core x a rel p
  | .atom a op _ cmp load => performAtomic c core x a op cmp load p

/-- The merge point goes on with the lanes of the word, or is free again. -/
def noteMerge (c : Ctx) (core g : Nat) : Act := fun p =>
  match c with
  | .front _ => p
  | .fibre _ =>
    let m := if (p.now.groupMembers g).isEmpty then none else some g
    if (p.now.core core).merging = m then p else modCore core (fun y => { y with merging := m }) p

/-- What the atomics of one group agree in: address, operation, size and device (05 R143). -/
def Store.aggKey (x : Store) : Option (Nat × Nat × Nat × Option Nat) :=
  match x.kind with
  | .atom a op _ _ _ => some (a.pa, op, a.n, a.remote)
  | _ => none

/-- The entries that are performed together with the head of a queue: for an atomic the other lanes of its word, in
ascending home lane, up to the last of its group, between which no access of another agent falls (05 R143). -/
def State.mergeRun (s : State) (c : Ctx) (x : Store) : List (Ctx × Store) :=
  match c with
  | .front _ => [(c, x)]
  | .fibre _ =>
    if x.isAtomic then
      let l := (s.groupMembers x.group).filterMap (fun e =>
        (headOf e.2.stores).map (fun y => (Ctx.fibre e.1, y)))
      (l.reverse.dropWhile (fun e => e.2.aggKey != x.aggKey)).reverse
    else [(c, x)]

/-- The die whose window alone holds up the head of a queue (15 R365 R370). -/
def State.stalledOn (s : State) (core : Nat) (x : Store) : Option Nat :=
  match x.kind with
  | .mem a _ =>
    if a.remote.isNone && isPackage a.pa && s.wayOpen core a && !s.windowFor core a then some (s.server a) else none
  | _ => none

/-- The cycles that a sender waits for the early buffer or the window of a die (15 R370). -/
def countStall (die : Nat) : Act := fun p =>
  bumpFresh (modDie die (fun d =>
    { d with stalls := d.stalls + BitVec.ofNat 32 (Config.cycles p.now.fresh) }) p)

/-- STORE_PERFORMED: the oldest store of a context is performed, when it may be (05 R145 R146). -/
def storeDone (c : Ctx) : Act := fun p =>
  match headOf (p.now.storesOf c), p.now.coreOf c with
  | some x, some core =>
    if !p.now.mergeTurn c core x then p
    else
      let run := p.now.mergeRun c x
      if run.all (fun e => p.now.headDue core e.2) then
        match p.now.storeNeeds c x with
        | [] => noteMerge c core x.group (forEach run (fun e => performHead e.1 core e.2) p)
        | ds => forEach ds (postFill (.ctx c)) (dropFills (.ctx c) p)
      else
        match p.now.stalledOn core x with
        | some d => countStall d p
        | none => p
  | _, _ => p

/-- STORE_PERFORMED (05 R145 R146). -/
def execStorePerformed (c : Ctx) (s : State) : Host.Outcome State Fault Refusal :=
  commit s (storeDone c)

/-! ### Combining atomics (05 R143) -/

/-- AGGREGATOR_GROUP: the heads of the queues of some fibres, atomics of one operation, address and size,
are performed one after another as one indivisible access, each once (05 R143). -/
def aggregate (ms : List Nat) : Act := fun p =>
  let heads := ms.filterMap (fun k => (headOf (p.now.storesOf (.fibre k))).map (fun x => (k, x)))
  match heads with
  | [] => p
  | (_, x) :: r =>
    if x.aggKey.isSome && r.all (fun e => e.2.aggKey == x.aggKey) then
      forEach heads (fun e q =>
        actIf ((headOf (q.now.storesOf (.fibre e.1))).map (fun y => y.id) == some e.2.id) (storeDone (.fibre e.1)) q) p
    else p

/-- AGGREGATOR_GROUP (05 R143). -/
def execAggregatorGroup (members : List Nat) (s : State) : Host.Outcome State Fault Refusal :=
  commit s (aggregate members)

end Sys2Proof.Machine
end

