-- ==== Sys2Proof/Machine/Atomics.lean ====
section
/-! DEFINITION. The atomic words and the fences (05 R141-R144, 02 R47). -/

namespace Sys2Proof.Machine

open Sys2Proof

/-! ### Atomics -/

/-- The registers of the value of an atomic, and whether it has a compare value beside it. -/
structure AtomForm where
  op : Nat
  n : Nat
  cas : Bool

/-- The form of an operation code (05 R141). -/
def atomForm (op : Nat) : AtomForm :=
  { op := op, n := atomBytes op, cas := op == 11 || op == 12 || op == 13 }

/-- The registers of the value. -/
def AtomForm.regs (x : AtomForm) : Nat := x.n / 4

/-- The data operand: one, pair or group, twice as wide for a compare and swap. -/
def AtomForm.opd (x : AtomForm) (d : BitVec 7) : Opd :=
  let n := if x.cas then 2 * x.regs else x.regs
  { r := d.toNat, n := n, al := min n 4 }

/-- The image of the returned value. -/
def AtomForm.img (x : AtomForm) : Img := if x.n = 4 then .b32 else if x.n = 8 then .b64 else .b128

/-- The data value in a lane. -/
def AtomForm.data (x : AtomForm) (f : Fibre) (d : Nat) : Nat :=
  f.val (if x.cas then d + x.regs else d) x.regs

/-- The compare value in a lane. -/
def AtomForm.cmp (x : AtomForm) (f : Fibre) (d : Nat) : Nat := if x.cas then f.val d x.regs else 0

/-- The scope code of the prefix; 7 without one (05 R141). -/
def State.atomScope (s : State) : Nat := (s.prefixWord.map (fun p => p.rs.toNat)).getD 7

/-- An atomic goes out to a remote device when its fibre's earlier loads are done, too. -/
def loadsDone (l : Lane) : Bool := l.f.loads.all (fun y => !y.ordered)

/-- A local atomic issues: a place in the store queue and, unless `.nr`, a load for the old value. -/
def issueAtomic (g : Nat) (form : AtomForm) (d : Nat) (nr : Bool) (l : Lane) (a : Access) : Act := fun p =>
  match tget p.now.fibres l.k with
  | none => p
  | some f =>
    let p := issueStore g l.k
      (.atom a form.op a.scope (form.cmp l.f d) (if nr then none else some (f.nextId + 1)))
      (bytesOf (form.data l.f d) form.n) p
    if nr then p else issueLoad l.k form.img d form.regs (.atomic a) p

/-- An atomic word (05 R141-R143). -/
def atomWord (op : Nat) (d a : BitVec 7) (b : Nat) (nr : Bool) : Act :=
  let form := atomForm op
  let rg : Regs := { src := [one a, form.opd d], dst := [form.img.opd d] }
  fibreWord rg anyone (fun k lanes p =>
    let ask := fun (l : Lane) =>
      { laneAsk k l a b p.now.prefixOffset form.n true true true 0 p.now.atomScope with aop := some op }
    if lanes.any (fun l => l.f.awaited.isSome) then endRemote k rg 3 lanes false p
    else if countersFull lanes (!nr) true then hold p
    else
      let act := lanes.filter (fun l => l.on)
      settle k (coreOfLanes lanes) false (act.map (fun l => (l, p.now.checkAccess (ask l))))
        (fun ok p =>
          let p := forEach ok (fun e => useEntry (ask e.1)) p
          if ok.any (fun e => e.2.remote.isSome) && !nr then
            if ok.all (fun e => p.now.remoteReady e.1 (e.2.remote.getD 0) && loadsDone e.1) then
              stall (forEach ok (fun e => addAwaited e.1.k form.img d.toNat e.2
                (.atomic (BitVec.ofNat 5 op) form.n (form.data e.1.f d.toNat)
                  (form.cmp e.1.f d.toNat) true)) p)
            else hold p
          else
            let g := p.now.nextKey
            let p := forEach ok (fun e => issueAtomic g form d.toNat nr e.1 e.2) (bumpKey p)
            retire (forEach ok (fun e => logRace (ask e.1) e.2) p)) p)

/-- `atom.add.i32` (05 R141). -/
def execAtomAddI32 (d a : BitVec 7) (b : BitVec 6) (n : BitVec 1) (s : State) :
    Host.Outcome State Fault Refusal :=
  commit s (atomWord 0 d a b.toNat (n != 0))

/-- `atom.add.i64` (05 R141). -/
def execAtomAddI64 (d a : BitVec 7) (b : BitVec 6) (n : BitVec 1) (s : State) :
    Host.Outcome State Fault Refusal :=
  commit s (atomWord 1 d a b.toNat (n != 0))

/-- `atom.min.i32` (05 R141). -/
def execAtomMinI32 (d a : BitVec 7) (b : BitVec 6) (n : BitVec 1) (s : State) :
    Host.Outcome State Fault Refusal :=
  commit s (atomWord 2 d a b.toNat (n != 0))

/-- `atom.max.i32` (05 R141). -/
def execAtomMaxI32 (d a : BitVec 7) (b : BitVec 6) (n : BitVec 1) (s : State) :
    Host.Outcome State Fault Refusal :=
  commit s (atomWord 3 d a b.toNat (n != 0))

/-- `atom.min.n32` (05 R141). -/
def execAtomMinN32 (d a : BitVec 7) (b : BitVec 6) (n : BitVec 1) (s : State) :
    Host.Outcome State Fault Refusal :=
  commit s (atomWord 4 d a b.toNat (n != 0))

/-- `atom.max.n32` (05 R141). -/
def execAtomMaxN32 (d a : BitVec 7) (b : BitVec 6) (n : BitVec 1) (s : State) :
    Host.Outcome State Fault Refusal :=
  commit s (atomWord 5 d a b.toNat (n != 0))

/-- `atom.and.b32` (05 R141). -/
def execAtomAndB32 (d a : BitVec 7) (b : BitVec 6) (n : BitVec 1) (s : State) :
    Host.Outcome State Fault Refusal :=
  commit s (atomWord 6 d a b.toNat (n != 0))

/-- `atom.or.b32` (05 R141). -/
def execAtomOrB32 (d a : BitVec 7) (b : BitVec 6) (n : BitVec 1) (s : State) :
    Host.Outcome State Fault Refusal :=
  commit s (atomWord 7 d a b.toNat (n != 0))

/-- `atom.xor.b32` (05 R141). -/
def execAtomXorB32 (d a : BitVec 7) (b : BitVec 6) (n : BitVec 1) (s : State) :
    Host.Outcome State Fault Refusal :=
  commit s (atomWord 8 d a b.toNat (n != 0))

/-- `atom.xchg.b32` (05 R141). -/
def execAtomXchgB32 (d a : BitVec 7) (b : BitVec 6) (n : BitVec 1) (s : State) :
    Host.Outcome State Fault Refusal :=
  commit s (atomWord 9 d a b.toNat (n != 0))

/-- `atom.xchg.b64` (05 R141). -/
def execAtomXchgB64 (d a : BitVec 7) (b : BitVec 6) (n : BitVec 1) (s : State) :
    Host.Outcome State Fault Refusal :=
  commit s (atomWord 10 d a b.toNat (n != 0))

/-- `atom.cas.b32` (05 R141). -/
def execAtomCasB32 (d a : BitVec 7) (b : BitVec 6) (n : BitVec 1) (s : State) :
    Host.Outcome State Fault Refusal :=
  commit s (atomWord 11 d a b.toNat (n != 0))

/-- `atom.cas.b64` (05 R141). -/
def execAtomCasB64 (d a : BitVec 7) (b : BitVec 6) (n : BitVec 1) (s : State) :
    Host.Outcome State Fault Refusal :=
  commit s (atomWord 12 d a b.toNat (n != 0))

/-- `atom.cas.b128` (05 R141). -/
def execAtomCasB128 (d a : BitVec 7) (b : BitVec 6) (n : BitVec 1) (s : State) :
    Host.Outcome State Fault Refusal :=
  commit s (atomWord 13 d a b.toNat (n != 0))

/-- `atom.fadd.f32` (05 R141). -/
def execAtomFaddF32 (d a : BitVec 7) (b : BitVec 6) (n : BitVec 1) (s : State) :
    Host.Outcome State Fault Refusal :=
  commit s (atomWord 14 d a b.toNat (n != 0))

/-- `atom.fadd.f64` (05 R141). -/
def execAtomFaddF64 (d a : BitVec 7) (b : BitVec 6) (n : BitVec 1) (s : State) :
    Host.Outcome State Fault Refusal :=
  commit s (atomWord 15 d a b.toNat (n != 0))

/-- `atom.fadd.f16x2` (05 R141). -/
def execAtomFaddF16x2 (d a : BitVec 7) (b : BitVec 6) (n : BitVec 1) (s : State) :
    Host.Outcome State Fault Refusal :=
  commit s (atomWord 16 d a b.toNat (n != 0))

/-- `atom.fadd.bf16x2` (05 R141). -/
def execAtomFaddBf16x2 (d a : BitVec 7) (b : BitVec 6) (n : BitVec 1) (s : State) :
    Host.Outcome State Fault Refusal :=
  commit s (atomWord 17 d a b.toNat (n != 0))

/-- `atom.fmin.f32` (05 R141). -/
def execAtomFminF32 (d a : BitVec 7) (b : BitVec 6) (n : BitVec 1) (s : State) :
    Host.Outcome State Fault Refusal :=
  commit s (atomWord 18 d a b.toNat (n != 0))

/-- `atom.fmax.f32` (05 R141). -/
def execAtomFmaxF32 (d a : BitVec 7) (b : BitVec 6) (n : BitVec 1) (s : State) :
    Host.Outcome State Fault Refusal :=
  commit s (atomWord 19 d a b.toNat (n != 0))

/-- `atom.fmin.f64` (05 R141). -/
def execAtomFminF64 (d a : BitVec 7) (b : BitVec 6) (n : BitVec 1) (s : State) :
    Host.Outcome State Fault Refusal :=
  commit s (atomWord 20 d a b.toNat (n != 0))

/-- `atom.fmax.f64` (05 R141). -/
def execAtomFmaxF64 (d a : BitVec 7) (b : BitVec 6) (n : BitVec 1) (s : State) :
    Host.Outcome State Fault Refusal :=
  commit s (atomWord 21 d a b.toNat (n != 0))

/-- `atom.fmin.f16x2` (05 R141). -/
def execAtomFminF16x2 (d a : BitVec 7) (b : BitVec 6) (n : BitVec 1) (s : State) :
    Host.Outcome State Fault Refusal :=
  commit s (atomWord 22 d a b.toNat (n != 0))

/-- `atom.fmax.f16x2` (05 R141). -/
def execAtomFmaxF16x2 (d a : BitVec 7) (b : BitVec 6) (n : BitVec 1) (s : State) :
    Host.Outcome State Fault Refusal :=
  commit s (atomWord 23 d a b.toNat (n != 0))

/-- `atom.fmin.bf16x2` (05 R141). -/
def execAtomFminBf16x2 (d a : BitVec 7) (b : BitVec 6) (n : BitVec 1) (s : State) :
    Host.Outcome State Fault Refusal :=
  commit s (atomWord 24 d a b.toNat (n != 0))

/-- `atom.fmax.bf16x2` (05 R141). -/
def execAtomFmaxBf16x2 (d a : BitVec 7) (b : BitVec 6) (n : BitVec 1) (s : State) :
    Host.Outcome State Fault Refusal :=
  commit s (atomWord 25 d a b.toNat (n != 0))

/-! ### Fences (05 R144) -/

/-- The loads and returning atomics of a context have completed. -/
def loadsEnded (l : List Load) : Bool := l.all (fun y => y.poisoned || y.abandoned)

/-- The stores of a context are performed, and those of its core at the scope. -/
def State.released (s : State) (core scope : Nat) (l : List Store) (twrs : Nat) : Bool :=
  l.isEmpty && twrs == 0 && s.flushed core scope

/-- The clusters of a scope around a core, as indices over the package. -/
def clustersIn (core scope : Nat) : List Nat :=
  if scope ≤ 1 then [core / 8]
  else if scope = 2 then (List.range 8).map (fun i => core / 64 * 8 + i)
  else List.range 32

/-- The instruction caches of a scope are read afresh (02 R47). -/
def dropCode (core scope : Nat) : Act := fun p =>
  forEach (clustersIn core scope) (fun c q =>
    if ((tget q.now.icache c).getD []).isEmpty then q else q.emit (.icache c [])) p

/-- The effects of a fence once it holds: L1 copies, shape records and code (05 R144). -/
def fenceEffects (core scope : Nat) (acq ins rec_ : Bool) : Act := fun p =>
  let p := if acq && 1 ≤ scope then dropAllL1 core p else p
  let p := if rec_ then modCore core (fun c => { c with shapes := [] }) p else p
  if ins then dropCode core scope p else p

/-- A fence: it waits until its effect holds, then retires. One that orders instruction fetch waits for the earlier
stores of its context (05 R144, 02 R47). -/
def fenceWord (acq rel : Bool) (scope : Nat) (ins rec_ eng : Bool) : Act :=
  bothWord
    (fibreWord {} anyone (fun _ lanes p =>
      let core := coreOfLanes lanes
      let holds := lanes.all (fun l =>
        loadsEnded l.f.loads && (!(rel || ins) || p.now.released core scope l.f.stores l.f.twrs) &&
          (!eng || l.f.steers.isEmpty))
      if !holds then stall p
      else
        let p := fenceEffects core scope acq ins rec_ p
        let p := if rel then forEach lanes (fun l => raiseIvl (.fibre l.k) scope) p else p
        retire p))
    (frontWord [] anyone (fun k x p =>
      let holds := loadsEnded x.front.loads &&
        (!(rel || ins) || p.now.released x.core scope x.front.stores 0) &&
        (!eng || (x.cpq.isEmpty && x.tlq.isEmpty))
      if !holds then stall p
      else
        let p := fenceEffects x.core scope acq ins rec_ p
        retire (if rel then raiseIvl (.front k) scope p else p)))

/-- `fence.acq` (05 R144). -/
def execFenceAcq (_ : BitVec 1) (c : BitVec 3) (i r e : BitVec 1) (s : State) :
    Host.Outcome State Fault Refusal :=
  commit s (fenceWord true false c.toNat (i != 0) (r != 0) (e != 0))

/-- `fence.rel` (05 R144). -/
def execFenceRel (_ : BitVec 1) (c : BitVec 3) (i r e : BitVec 1) (s : State) :
    Host.Outcome State Fault Refusal :=
  commit s (fenceWord false true c.toNat (i != 0) (r != 0) (e != 0))

/-- `fence.acqrel` (05 R144). -/
def execFenceAcqrel (_ : BitVec 1) (c : BitVec 3) (i r e : BitVec 1) (s : State) :
    Host.Outcome State Fault Refusal :=
  commit s (fenceWord true true c.toNat (i != 0) (r != 0) (e != 0))

/-- `fence.sc` (05 R144). -/
def execFenceSc (_ : BitVec 1) (c : BitVec 3) (i r e : BitVec 1) (s : State) :
    Host.Outcome State Fault Refusal :=
  commit s (fenceWord true true c.toNat (i != 0) (r != 0) (e != 0))

end Sys2Proof.Machine
end

