-- ==== Sys2Proof/Machine/Sliver.lean ====
section
/-! DEFINITION. Sliver records in the stash: `sst.sliv`, `sld.sliv` and `shdr` (07 R199-R204). -/

namespace Sys2Proof.Machine

open Sys2Proof

/-! ### The record (07 R199) -/

/-- The element formats of the sliver words: type code, bytes and bits. -/
structure SlivFmt where
  code : Nat
  es : Nat

/-- The format of the fmt field (07 R200). -/
def slivFmt (x : Nat) : SlivFmt :=
  match x with
  | 0 => { code := 9, es := 2 }
  | 1 => { code := 10, es := 4 }
  | _ => { code := 12, es := 1 }

/-- V, the offset of the stored values of a record of `e` elements. -/
def slivV (e : Nat) : Nat := (32 + e / 8 + 15) / 16 * 16

/-- The stash lines that some ranges touch, each counted once (07 R179). -/
def linesTouched (l : List (Nat × Nat)) : Nat :=
  (l.foldl (fun m e => (linePieces e.1 e.2).foldl (fun m q => sadd m (q.1 / 128)) m) ([] : List Nat)).length

/-- The header of a record. -/
structure SlivHdr where
  magic : Nat
  fmt : Nat
  flags : Nat
  e : Nat
  z : Nat
  c : Nat
  gen : Nat
  deriving DecidableEq, Repr

/-- The header in 16 bytes. -/
def slivHdr (b : List Byte) : SlivHdr :=
  let x := ofBytes b
  { magic := bitsOf x 15 0, fmt := bitsOf x 23 16, flags := bitsOf x 31 24, e := bitsOf x 63 32,
    z := bitsOf x 95 64, c := bitsOf x 111 96, gen := bitsOf x 127 112 }

/-- The recorded size of a record. -/
def SlivHdr.size (h : SlivHdr) (es : Nat) : Nat := slivV h.e + h.z * es

/-- A dense length: a multiple of 64 from 64 to 65,536. -/
def denseOk (e : Nat) : Bool := e % 64 == 0 && 64 ≤ e && e ≤ 65536

/-- The header checks of `sld.sliv` (07 R200, detail 0x02). -/
def SlivHdr.ok (h : SlivHdr) (f : SlivFmt) (room : Nat) : Bool :=
  h.magic == 0x534C && bitOf h.flags 1 && h.fmt == f.code && denseOk h.e && h.z ≤ h.e &&
    1 ≤ h.c && h.c ≤ 4096 && h.size f.es ≤ 128 * h.c && h.e ≤ room

/-- Elements of dense bytes, as patterns. -/
def elements (es : Nat) (b : List Byte) : Nat → List Nat
  | 0 => []
  | n + 1 => ofBytes (b.take es) :: elements es (b.drop es) n

/-- The pattern is neither +0 nor −0. -/
def nonzeroElem (es x : Nat) : Bool := x % 2 ^ (8 * es - 1) != 0

/-- Bytes of a bit mask, eight bits to a byte. -/
def maskBytes (l : List Bool) : Nat → List Byte
  | 0 => []
  | n + 1 =>
    BitVec.ofNat 8 ((l.take 8).zipIdx.foldl (fun x e => x + (if e.1 then 2 ^ e.2 else 0)) 0) ::
      maskBytes (l.drop 8) n

/-- The generation that follows a header (07 R201). -/
def SlivHdr.next (old : SlivHdr) : Nat :=
  if old.magic == 0x534C && bitOf old.flags 1 then (old.gen + 1) % 65536 else 1

/-- The record that `sst.sliv` writes, with generation 0 (07 R201). -/
def slivRecord (f : SlivFmt) (e cap : Nat) (els : List Nat) : List Byte :=
  let keep := els.filter (nonzeroElem f.es)
  let z := keep.length
  let head := bytesOf (0x534C + f.code * 2 ^ 16 + ((if z = 0 then 1 else 0) + 2) * 2 ^ 24 +
    e * 2 ^ 32 + z * 2 ^ 64 + cap * 2 ^ 96) 16
  head ++ bytesOf 0 16 ++ maskBytes (els.map (nonzeroElem f.es)) (e / 8) ++
    bytesOf 0 (slivV e - 32 - e / 8) ++ keep.flatMap (fun x => bytesOf x f.es)

/-- The dense elements of a record (07 R202): a stored value where the mask has a one. -/
def slivExpand (es : Nat) : List Bool → List Byte → List Byte
  | [], _ => []
  | true :: m, v => v.take es ++ slivExpand es m (v.drop es)
  | false :: m, v => bytesOf 0 es ++ slivExpand es m v

/-- The bits of mask bytes. -/
def maskBits (b : List Byte) : List Bool := b.flatMap (fun x => (List.range 8).map (fun i => x.getLsbD i))

/-! ### The checks (07 R200) -/

/-- A range of the stash that a word reads or writes. -/
structure Span where
  off : Nat
  n : Nat
  write : Bool

/-- A trap of a stash range; a sliver word records no address (01 R21, 07 R200). -/
def stashTrap (c : Cause) (d : Nat) : LaneFail := .trap { cause := c, detail := d }

/-- The first of some ranges that a check finds. -/
def firstOf {α : Type} (l : List Span) (g : Span → Option α) : Option α := l.findSome? g

/-- Steps 2 to 4: bounds, windows, and the fill of every unfilled line. -/
def State.checkSpans (s : State) (agent : Agent) (sk : Nat) (lr : LaunchRec) (l : List Span) :
    Option LaneFail :=
  match firstOf l (fun r =>
    if r.n != 0 && lr.stash < r.off + r.n then some (stashTrap .stashBounds 0) else none) with
  | some x => some x
  | none =>
    match firstOf l (fun r => match s.mapDetail sk r.off r.n r.write with
      | 0 => none
      | d => some (stashTrap .stashMap d)) with
    | some x => some x
    | none => needed (l.flatMap (fun r => s.fillNeeds sk r.off r.n false))
where
  /-- Fills that are still needed, or the fault of the first of them. -/
  needed (ds : List FillNeed) : Option LaneFail :=
    match ds.filter (fun d => !s.filledFor agent d) with
    | [] => none
    | d :: l =>
      match s.keptFill agent d with
      | some e => some (.trap (fillTrap e 0))
      | none => some (.needs ((d :: l).map .fill))

/-- Registration of the bytes that a word writes to a write-only window (07 R184). -/
def State.checkWrites (s : State) (agent : Agent) (sk off n : Nat) : Option LaneFail :=
  State.checkSpans.needed s agent (s.fillNeeds sk off n true)

/-- Poison in a range that a word reads (12 R300). -/
def State.checkPoison (s : State) (sk off n : Nat) : Option LaneFail :=
  if s.stashPoisoned sk off n then some (stashTrap .poison 0) else none

/-- What a sliver word does in a lane: what it writes to the stash, registers to write, and the lines it
touches. -/
structure SlivOut where
  at_ : Nat := 0
  /-- The record of an `sst.sliv`, its generation still to be set. -/
  bytes : List Byte := []
  /-- The record, the number of elements and the all-zero flag of an `sld.sliv`. -/
  from_ : Option (Nat × Nat × Bool) := none
  es : Nat := 1
  words : List Word := []
  lines : Nat := 0
  deriving DecidableEq, Repr

/-- The first failure of a list of checks, else a result. -/
def orElse (l : List (Option LaneFail)) (x : Except LaneFail SlivOut) : Except LaneFail SlivOut :=
  match l.findSome? id with
  | some e => .error e
  | none => x

/-- A condition that raises SLIVER_OVERRUN. -/
def overrun (c : Bool) (detail : Nat) : Option LaneFail :=
  if c then some (.trap { cause := .sliverOverrun, detail := detail }) else none

/-- A misaligned offset. -/
def unaligned (off n : Nat) : Option LaneFail :=
  if off % n != 0 then some (stashTrap .misaligned 0) else none

/-- `sst.sliv` in a lane (07 R200 R201). -/
def State.slivStore (s : State) (agent : Agent) (l : Lane) (f : SlivFmt) (d a : Nat) :
    Except LaneFail SlivOut :=
  let rec_ := (l.f.reg d).toNat
  let cap := (l.f.reg (d + 1)).toNat
  let dense := (l.f.reg a).toNat
  let e := (l.f.reg (a + 1)).toNat
  let sk := l.f.sk
  let spans : List Span := [{ off := dense, n := e * f.es, write := false },
    { off := rec_, n := 128 * cap, write := true }]
  match [unaligned rec_ 128, unaligned dense 16, s.checkSpans agent sk l.x.lr spans,
      overrun (!denseOk e || cap == 0 || 4096 < cap || overlaps dense (e * f.es) rec_ (128 * cap)) 4,
      s.checkPoison sk dense (e * f.es)].findSome? id with
  | some x => .error x
  | none =>
    let els := elements f.es (s.touchBytes sk dense (e * f.es)) e
    let out := slivRecord f e cap els
    orElse [overrun (128 * cap < out.length) 1, s.checkWrites agent sk rec_ out.length]
      (.ok { at_ := rec_, bytes := out,
             lines := linesTouched [(dense, e * f.es), (rec_, out.length)] })

/-- `sld.sliv` in a lane (07 R200 R202 R204). -/
def State.slivLoad (s : State) (agent : Agent) (l : Lane) (f : SlivFmt) (d a : Nat) :
    Except LaneFail SlivOut :=
  let rec_ := (l.f.reg a).toNat
  let dense := (l.f.reg d).toNat
  let room := (l.f.reg (d + 1)).toNat
  let sk := l.f.sk
  let spans : List Span := [{ off := rec_, n := 16, write := false },
    { off := dense, n := room * f.es, write := true }]
  match [unaligned rec_ 128, unaligned dense 16, s.checkSpans agent sk l.x.lr spans,
      s.checkPoison sk rec_ 16].findSome? id with
  | some x => .error x
  | none =>
    let h := slivHdr (s.touchBytes sk rec_ 16)
    let size := h.size f.es
    match [overrun (!h.ok f room) 2,
        s.checkSpans agent sk l.x.lr [{ off := rec_ + 16, n := size - 16, write := false }]].findSome? id with
    | some x => .error x
    | none =>
      let zero := bitOf h.flags 0
      let mask := maskBits (s.touchBytes sk (rec_ + 32) (h.e / 8))
      let ones := (mask.filter (fun b => b)).length
      orElse [overrun (!zero && ones != h.z) 3, overrun (overlaps dense (h.e * f.es) rec_ size) 4,
          if zero then none else s.checkPoison sk rec_ size,
          s.checkWrites agent sk dense (h.e * f.es)]
        (.ok { at_ := dense, from_ := some (rec_, h.e, zero), es := f.es,
               lines := linesTouched [(rec_, if zero then 16 else size), (dense, h.e * f.es)] })

/-- `shdr` in a lane (07 R200 R203). -/
def State.slivHeader (s : State) (agent : Agent) (l : Lane) (a : Nat) : Except LaneFail SlivOut :=
  let rec_ := (l.f.reg a).toNat
  let sk := l.f.sk
  orElse [unaligned rec_ 128,
      s.checkSpans agent sk l.x.lr [{ off := rec_, n := 16, write := false }], s.checkPoison sk rec_ 16]
    (.ok { words := (elements 4 (s.touchBytes sk rec_ 16) 4).map (fun x => BitVec.ofNat 32 x), lines := 1 })

/-! ### The words -/

/-- The bytes that a lane writes when it acts (07 R200-R202). -/
def SlivOut.now (o : SlivOut) (s : State) (sk : Nat) : List Byte :=
  match o.from_ with
  | some (_, e, true) => bytesOf 0 (e * o.es)
  | some (r, e, false) =>
    slivExpand o.es (maskBits (s.touchBytes sk (r + 32) (e / 8)))
      (s.touchBytes sk (r + slivV e) (e * o.es))
  | none =>
    if o.bytes.isEmpty then []
    else o.bytes.take 14 ++ bytesOf (slivHdr (s.touchBytes sk o.at_ 16)).next 2 ++ o.bytes.drop 16

/-- A lane acts. -/
def slivAct (l : Lane) (o : SlivOut) : Act := fun p =>
  let b := o.now p.now l.f.sk
  seenByCore l.x.core (1, o.at_, b.length) b (touchWrite false l.f.sk o.at_ b p)

/-- A sliver word: after the earlier accesses of its fibres, every lane is checked, then the lanes act in
ascending home lane (07 R178 R200). -/
def slivWord (rg : Regs) (d : Nat) (ld st : Bool)
    (check : State → Agent → Lane → Except LaneFail SlivOut) : Act :=
  fibreWord rg anyone (fun n lanes p =>
    let ready := lanes.all (fun l => loadsEnded l.f.loads && l.f.stores.isEmpty)
    if countersFull lanes ld st || !ready then hold p
    else
      settle n (coreOfLanes lanes) false
        (lanes.map (fun l => (l, check p.now (.who (.strand n)) l)))
        (fun ok p =>
          let p := addPasses lanes ((ok.map (fun e => e.2.lines)).foldl (fun t x => t + x) 0) p
          let p := forEach ok (fun e => slivAct e.1 e.2) p
          retire (forEach ok (fun e => modFibre e.1.k (fun f =>
            e.2.words.zipIdx.foldl (fun f w => f.set (d + w.2) w.1) f)) p)) p)

/-- `sst.sliv` (07 R200 R201). -/
def execSstSliv (d a : BitVec 7) (f : BitVec 2) (s : State) : Host.Outcome State Fault Refusal :=
  commit s (slivWord { src := [two d, two a] } d.toNat false true
    (fun t g l => t.slivStore g l (slivFmt f.toNat) d.toNat a.toNat))

/-- `sld.sliv` (07 R200 R202). -/
def execSldSliv (d a : BitVec 7) (f : BitVec 2) (s : State) : Host.Outcome State Fault Refusal :=
  commit s (slivWord { src := [two d, one a] } d.toNat true false
    (fun t g l => t.slivLoad g l (slivFmt f.toNat) d.toNat a.toNat))

/-- `shdr` (07 R203). -/
def execShdr (d a : BitVec 7) (s : State) : Host.Outcome State Fault Refusal :=
  commit s (slivWord { src := [one a], dst := [four d] } d.toNat true false
    (fun t g l => t.slivHeader g l a.toNat))

end Sys2Proof.Machine
end

