-- ==== Sys2Proof/Machine/Draft.lean ====
section
/-! DEFINITION. The draft unit of a skein: opening and closing a set, dealing iterations and reducing
their terms exactly (08 R232-R239). -/

namespace Sys2Proof.Machine

open Sys2Proof

/-! ### The set -/

/-- The start of each owner's iterations in the flattened loop, P (08 R233). -/
def prefixSums : List DraftMember → Nat → List Nat
  | [], _ => []
  | m :: r, t => t :: prefixSums r (t + m.len)

/-- The rank of a fibre in the set (08 R233). -/
def Draft.rank (d : Draft) (k : Nat) : Option Nat :=
  d.members.findIdx? (fun m => m.fib == k && !m.left)

/-- The member of a rank. -/
def Draft.at_ (d : Draft) (r : Nat) : DraftMember := d.members.getD r { fib := 0, start := 0, len := 0 }

/-- The owner and offset of flattened iteration `g`: the largest owner with P[o] <= g and iterations of
its own (08 R234). -/
def Draft.owner (d : Draft) (g : Nat) : Nat × Nat :=
  (d.members.zip (prefixSums d.members 0)).zipIdx.foldl (fun b e =>
    if e.1.2 ≤ g && e.1.1.len != 0 then (e.2, g - e.1.2) else b) (0, 0)

/-- `dload` completes: the set opens, or fails with a code. The total that a failed set shows is a free
value (08 R233; log 17). -/
def openDraft (ms : List DraftMember) (n : Nat) : Draft :=
  let total := (ms.map (fun m => m.len)).foldl (· + ·) 0
  if 256 < ms.length then
    { failed := true, code := 1, n := ms.length, total := (Config.failedTotal n).toNat, members := ms }
  else if 2 ^ 32 ≤ total then
    { failed := true, code := 2, n := ms.length, total := (Config.failedTotal n).toNat, members := ms }
  else { isOpen := true, n := ms.length, total := total, members := ms }

/-- A set is loaded. -/
def Draft.loaded (d : Draft) : Bool := d.isOpen || d.failed

/-- The member of a rank has iterations left, or one begun and not reduced (08 R237 detail 0x09). -/
def Draft.undealt (d : Draft) (r : Nat) : Bool :=
  (d.at_ r).pending || (d.at_ r).cursor * d.n + r < d.total

/-- The unit with the member of a rank changed. -/
def Draft.mapAt (d : Draft) (r : Nat) (g : DraftMember → DraftMember) : Draft :=
  { d with members := d.members.modify r g }

/-! ### Checks (08 R237) -/

/-- The words that the checks tell apart. -/
inductive DraftWord where
  | dload | dnext | dred | dget | dend
  deriving DecidableEq, Repr

/-- A fibre has tied a `dload` whose phase is not complete. -/
def Skein.loading (x : Skein) (k : Nat) : Bool :=
  x.knots.any (fun e => e.2.members.any (fun m => m.fib == k) &&
    (match e.2.open_ with
     | some w => w.op == .dload
     | none => false))

/-- What the checks of a lane give: a detail, a wait, or nothing. -/
inductive DraftCheck where
  | fail (detail : Nat)
  | wait
  | ok
  deriving DecidableEq, Repr

/-- The checks of a lane in their order (08 R234 R236 R237). -/
def draftCheck (x : Skein) (k : Nat) (w : DraftWord) (mode : Nat × Nat) : DraftCheck :=
  let d := x.draft
  if !x.lr.draft then .fail 1
  else if w = .dload then (if d.loaded then .fail 2 else .ok)
  else if w = .dnext && !d.loaded && x.loading k then .wait
  else
    match (if d.loaded then d.rank k else none) with
    | none => .fail 5
    | some r =>
      if d.failed && w != .dend then .fail (2 + d.code)
      else if w = .dnext && (d.at_ r).pending then .fail 6
      else if w = .dred && !(d.at_ r).pending then .fail 7
      else if (w = .dred || w = .dget) && d.mode.getD mode != mode then .fail 8
      else if w = .dend && d.isOpen && d.undealt r then .fail 9
      else if w = .dget && d.reduced < d.total then .wait
      else .ok

/-- The check that `exit` and `exit.relay` make of a member of an open set (08 R236). -/
def draftLeaveFails (x : Skein) (k : Nat) : Bool :=
  x.draft.isOpen && match x.draft.rank k with
    | some r => x.draft.undealt r
    | none => false

/-- A fibre leaves the set; its accumulator stays (08 R236). -/
def leaveDraft (sk k : Nat) : Act := fun p =>
  match (tget p.now.skeins sk).bind (fun x => x.draft.rank k) with
  | some r => modSkein sk (fun x => { x with draft := x.draft.mapAt r (fun m => { m with left := true }) }) p
  | none => p

/-- The trap of a draft check. -/
def draftTrap (l : Lane) (detail : Nat) : Trap := { cause := .draftState, detail := detail, mask := l.bit }

/-- A word of the draft unit: it waits while a lane waits, and retires in every lane or in none. -/
def draftWord (rg : Regs) (w : DraftWord) (mode : Nat × Nat) (body : List Lane → Act) : Act :=
  fibreWord rg anyone (fun _ lanes p =>
    let cs := lanes.map (fun l => (l, draftCheck l.x l.k w mode))
    if cs.any (fun e => e.2 == .wait) then hold p
    else
      match worstTrap (cs.filterMap (fun e => match e.2 with
        | .fail d => some (draftTrap e.1 d)
        | _ => none)) with
      | some t => trapWord t p
      | none => retire (body lanes p))

/-! ### Accumulators (08 R235) -/

/-- An f32 term added: finite values in units of 2^-149. -/
def Accum.addFloat (a : Accum) (w : Nat) : Accum :=
  let b := { a with terms := a.terms + 1 }
  match FV.of .f32 w with
  | .nan => { b with nan := true, negZero := false }
  | .inf false => { b with posInf := true, negZero := false }
  | .inf true => { b with negInf := true, negZero := false }
  | .fin n m x => { b with sum := a.sum + toUnits n m x (-149), negZero := a.negZero && n && m = 0 }

/-- A term taken into an accumulator: its type (0 f32, 1 i32, 2 i64) and operation (0 add, 1 min,
2 max). -/
def Accum.add (mode : Nat × Nat) (w : Nat) (a : Accum) : Accum :=
  let bits := if mode.1 = 2 then 64 else 32
  if mode.2 = 0 then
    if mode.1 = 0 then a.addFloat w
    else { a with terms := a.terms + 1, sum := a.sum + sextN w bits }
  else
    let larger := mode.2 = 2
    let keep := fun (o : Nat) =>
      if mode.1 = 0 then (fMinMax .f32 larger false o w).bits
      else if (if larger then sextN o bits < sextN w bits else sextN w bits < sextN o bits) then w else o
    let nan := mode.1 = 0 && FV.of .f32 w == .nan
    { a with
      terms := a.terms + 1
      best := if nan then a.best else some ((a.best.map keep).getD w) }

/-- The result of an owner (08 R235). -/
def Accum.result (mode : Nat × Nat) (a : Accum) : Nat :=
  let bits := if mode.1 = 2 then 64 else 32
  if mode.2 = 0 then
    if mode.1 != 0 then zextI a.sum bits
    else if a.nan || (a.posInf && a.negInf) then Fmt.f32.nanPat
    else if a.posInf then Fmt.f32.infPat
    else if a.negInf then Fmt.f32.infPat + Fmt.f32.sign true
    else if a.sum = 0 then Fmt.f32.sign (a.negZero && a.terms != 0)
    else (roundFin .f32 .rne (a.sum < 0) a.sum.natAbs (-149) false).bits
  else if mode.1 = 0 then
    if a.terms = 0 then Fmt.f32.infPat + Fmt.f32.sign (mode.2 = 2)
    else a.best.getD Fmt.f32.nanPat
  else a.best.getD (if mode.2 = 1 then 2 ^ (bits - 1) - 1 else 2 ^ (bits - 1))

/-! ### The words -/

/-- The rank of a lane in its set. -/
def Lane.rank (l : Lane) : Nat := (l.x.draft.rank l.k).getD 0

/-- `dnext` in a lane: the fibre after it. -/
def dealt (d p : Nat) (l : Lane) : Fibre :=
  let u := l.x.draft
  let g := (u.at_ l.rank).cursor * u.n + l.rank
  if g < u.total then
    let o := u.owner g
    let f := (l.f.set d ((u.at_ o.1).start + BitVec.ofNat 32 o.2)).set (d + 1) (BitVec.ofNat 32 o.1)
    { f.setPred p true with dtag := BitVec.ofNat 41 (2 ^ 40 + o.1 * 2 ^ 32 + o.2) }
  else l.f.setPred p false

/-- The member of a lane after a `dnext`: one more iteration, pending when one was dealt. -/
def dealtMember (l : Lane) (m : DraftMember) : DraftMember :=
  let u := l.x.draft
  { m with
    pending := decide (m.cursor * u.n + l.rank < u.total)
    cursor := m.cursor + 1 }

/-- `dnext` (08 R234). -/
def execDnext (d : BitVec 7) (p : BitVec 3) (s : State) : Host.Outcome State Fault Refusal :=
  commit s (draftWord { dst := [two d], pdst := [p.toNat] } .dnext (0, 0) (fun lanes =>
    forEach lanes (fun l q =>
      modSkein l.f.sk (fun x => { x with
        draft := { x.draft.mapAt l.rank (dealtMember l) with
          dealt := x.draft.dealt + (if (dealtMember l (x.draft.at_ l.rank)).pending then 1 else 0) } })
        (modFibre l.k (fun _ => dealt d.toNat p.toNat l) q))))

/-- The operand of a `dred` or `dget`: a pair for i64. -/
def draftOpd (a : BitVec 7) (t : BitVec 2) : Opd := if t = 2 then two a else one a

/-- `dred` (08 R235). -/
def execDred (a : BitVec 7) (t o : BitVec 2) (s : State) : Host.Outcome State Fault Refusal :=
  let mode := (t.toNat, o.toNat)
  commit s (draftWord { src := [draftOpd a t] } .dred mode (fun lanes =>
    forEach lanes (fun l =>
      let own := bitsOf l.f.dtag.toNat 39 32
      let w := l.f.val a.toNat (draftOpd a t).n
      modSkein l.f.sk (fun x =>
        let u := (x.draft.mapAt own (fun m => { m with acc := m.acc.add mode w })).mapAt l.rank
          (fun m => { m with pending := false })
        { x with draft := { u with
          reduced := u.reduced + 1
          mode := some mode } }))))

/-- `dget` (08 R235). -/
def execDget (d : BitVec 7) (t o : BitVec 2) (s : State) : Host.Outcome State Fault Refusal :=
  let mode := (t.toNat, o.toNat)
  commit s (draftWord { dst := [draftOpd d t] } .dget mode (fun lanes =>
    forEach lanes (fun l q =>
      modSkein l.f.sk (fun x => { x with draft := { x.draft with mode := some mode } })
        (modFibre l.k (fun f => f.setVal d.toNat (draftOpd d t).n
          ((l.x.draft.at_ l.rank).acc.result mode)) q))))

/-- The two words that `dstat` writes (08 R238). -/
def draftStatus (x : Skein) : DWord :=
  if !x.lr.draft then 0
  else
    let d := x.draft
    BitVec.ofNat 64 (d.isOpen.toNat + 2 * d.failed.toNat + d.code * 2 ^ 8 + d.n % 2048 * 2 ^ 16 +
      d.total % 2 ^ 32 * 2 ^ 32)

/-- `dstat` (08 R238). -/
def execDstat (d : BitVec 7) (s : State) : Host.Outcome State Fault Refusal :=
  commit s (laneWord { dst := [two d] } (fun _ l => .ok (l.f.setPair d.toNat (draftStatus l.x))))

/-- `dload` completes for its members, each with its start and length: the set opens or fails
(08 R233). -/
def endDload (sk : Nat) (ms : List Member) : Act := fun p =>
  let n := p.now.fresh
  modSkein sk (fun x => { x with draft := openDraft (ms.map (fun m =>
    { fib := m.fib, start := m.captured.getD 0 0, len := (m.captured.getD 1 0).toNat })) n })
    (bumpFresh p)

/-- `dend` completes: the set is closed, and sr.dtag[40] is cleared in every member (08 R236). -/
def endDend (sk : Nat) : Act := fun p =>
  match tget p.now.skeins sk with
  | none => p
  | some x =>
    forEach (x.draft.members.filter (fun m => !m.left)) (fun m =>
      modFibre m.fib (fun f => { f with dtag := f.dtag &&& 0x0FFFFFFFFFF }))
      (modSkein sk (fun y => { y with draft := {} }) p)

end Sys2Proof.Machine
end

