-- ==== Sys2Proof/Machine/EngineMem.lean ====
section
/-! DEFINITION. How the tile engine and the reel touch the stash: the fills and registrations that an
access needs first, and the bytes that it reads and writes (07 R183-R185, 09 R263). -/

namespace Sys2Proof.Machine

open Sys2Proof

/-- How far an engine's touch of its stash lines has come. -/
inductive Touch where
  | done
  /-- It waits: for lines that are held, or for a fill from a remote device. -/
  | wait
  | fault (e : FillFault)
  deriving DecidableEq, Repr

/-- A fill from a remote device that an engine needs: it is posted, and its answer taken (16 R390). -/
def touchRemote (forced : Bool) (a : Agent) (d : FillNeed) (p : Plan) : Touch × Plan :=
  match p.now.fills.find? (fun f => f.done && f.map == d.map && f.line == d.line && f.waiters.contains a) with
  | none => (.wait, postFill a d p)
  | some f =>
    match fillRemote forced f p with
    | (some (some e), q) => (.fault e, dropFills a q)
    | (_, q) => (.done, dropFills a q)

/-- One line that an engine needs. -/
def touchLine (forced : Bool) (a : Agent) (d : FillNeed) (p : Plan) : Touch × Plan :=
  if p.now.fillHeld d then (.wait, p)
  else if p.now.isRemoteFill d then touchRemote forced a d p
  else
    match fillStash forced d p with
    | (some e, q) => (.fault e, q)
    | (none, q) => (.done, q)

/-- The lines that an engine needs, one after another until one faults or has to wait. -/
def touchLines (forced : Bool) (a : Agent) : List FillNeed → Plan → Touch × Plan
  | [], p => (.done, p)
  | d :: r, p =>
    match touchLine forced a d p with
    | (.done, q) => touchLines forced a r q
    | other => other

/-- An engine touches ranges of the stash of a skein: (offset, bytes) pairs. -/
def touchAll (forced : Bool) (a : Agent) (sk : Nat) (write : Bool) : List (Nat × Nat) → Plan → Touch × Plan
  | [], p => (.done, p)
  | (o, n) :: r, p =>
    match touchLines forced a (p.now.fillNeeds sk o n write) p with
    | (.done, q) => touchAll forced a sk write r q
    | other => other

/-- The detail of STASH_MAP for the first range that its windows refuse, and its offset (07 R185). -/
def State.mapRefuses (s : State) (sk : Nat) (write : Bool) (l : List (Nat × Nat)) : Option (Nat × Nat) :=
  l.findSome? (fun e => match s.mapDetail sk e.1 e.2 write with
    | 0 => none
    | d => some (d, e.1))

/-- Bytes of the stash as an engine reads them; those of a poisoned line are free values (log 18). -/
def State.engineBytes (s : State) (sk off n : Nat) : List Byte :=
  if s.stashPoisoned sk off n then
    (List.range n).map (fun i =>
      if s.stashPoisoned sk (off + i) 1 then Config.poisonByte (s.fresh + off + i)
      else s.touchByte sk (off + i))
  else s.touchBytes sk off n

/-- An engine writes bytes to the stash of a skein, a line at a time (07 R184). -/
def engineWrite (forced : Bool) (sk core off : Nat) (data : List Byte) : Act := fun p =>
  seenByCore core (1, off, data.length) data (touchWrite forced sk off data p)

end Sys2Proof.Machine
end

