-- ==== Sys2Proof/Machine/TileData.lean ====
section
/-! DEFINITION. Tile registers: shape, legality, status, layouts in the stash, and the arithmetic of
products, conversions and moves on whole tiles (09 R240-R261, 07 R205). -/

namespace Sys2Proof.Machine

open Sys2Proof

/-! ### The control register (09 R241-R244) -/

/-- The element size of a format (09 R241). -/
def elemSize (fmt : Nat) : Nat := [1, 1, 2, 2, 1, 4, 4, 8].getD fmt 1

/-- The fields of a control register (09 R241). -/
structure TileShape where
  fmt : Nat
  rows : Nat
  cols : Nat
  layout : Nat
  vcnt : Nat
  soff : Nat
  deriving DecidableEq, Repr

/-- The fields of a control-register value (09 R241). -/
def TileShape.of (v : Nat) : TileShape :=
  { fmt := bitsOf v 2 0, rows := bitsOf v 10 4, cols := bitsOf v 24 16, layout := bitsOf v 26 25,
    vcnt := bitsOf v 38 32, soff := bitsOf v 59 40 }

/-- The shape of a tile. -/
def Tile.shape (t : Tile) : TileShape := .of t.tc.toNat

/-- Bytes of an element. -/
def TileShape.es (h : TileShape) : Nat := elemSize h.fmt

/-- Bytes of a row that belong to elements. -/
def TileShape.rowBytes (h : TileShape) : Nat := h.cols * h.es

/-- Rows below the valid count; 0 means every row (09 R241). -/
def TileShape.valid (h : TileShape) : Nat := if h.vcnt = 0 then h.rows else min h.vcnt h.rows

/-- A value that `wtc` accepts (09 R242). -/
def tcLegal (v : Nat) : Bool :=
  let h := TileShape.of v
  !bitOf v 3 && bitsOf v 15 11 == 0 && bitsOf v 31 27 == 0 && !bitOf v 39 && bitsOf v 46 40 == 0 &&
    1 ≤ h.rows && h.rows ≤ 64 && 1 ≤ h.cols && h.cols ≤ 256 && h.vcnt ≤ h.rows &&
    ((h.layout ≤ 1 && (h.fmt ≤ 4 || h.fmt == 7) && h.rowBytes % 16 == 0 && h.rowBytes ≤ 256) ||
      (h.layout == 2 && 5 ≤ h.fmt && h.rowBytes ≤ 256))

/-! ### The image (09 R240) -/

/-- `n` values of a table from a key upward, unlisted keys at a default. -/
def denseFrom {α : Type} (d : α) : Table α → Nat → Nat → List α
  | _, _, 0 => []
  | [], k, n + 1 => d :: denseFrom d [] (k + 1) n
  | (i, x) :: r, k, n + 1 =>
    if i = k then x :: denseFrom d r (k + 1) n else d :: denseFrom d ((i, x) :: r) (k + 1) n

/-- `n` bytes of the image from a byte upward. -/
def Tile.bytes (t : Tile) (o n : Nat) : List Byte := denseFrom 0 (t.image.dropWhile (fun e => e.1 < o)) o n

/-- The first `n` bytes of a row. -/
def Tile.row (t : Tile) (r n : Nat) : List Byte := t.bytes (256 * r) n

/-- Bytes taken as elements of a size. -/
def chunks (es : Nat) : Nat → List Byte → List Nat
  | 0, _ => []
  | n + 1, l => ofBytes (l.take es) :: chunks es n (l.drop es)

/-- The elements of a row. -/
def Tile.elems (t : Tile) (h : TileShape) (r : Nat) : List Nat :=
  chunks h.es h.cols (t.row r h.rowBytes)

/-- The image whose bytes are a list. -/
def imageOf (l : List Byte) : Table Byte := (l.zipIdx.filter (fun e => e.1 != 0)).map (fun e => (e.2, e.1))

/-- A pattern is a zero of its format (09 R244). -/
def zeroElem (fmt w : Nat) : Bool :=
  if fmt == 4 || fmt == 6 then w == 0 else w % 2 ^ (8 * elemSize fmt - 1) == 0

/-- ZERO recomputed (09 R244). -/
def Tile.rezero (t : Tile) : Tile :=
  { t with zero := (List.range t.shape.rows).all (fun r =>
      (t.elems t.shape r).all (zeroElem t.shape.fmt)) }

/-- Some rows written with their first bytes; their sparse marks are cleared (09 R259). -/
def Tile.setRows (t : Tile) (rows : Table (List Byte)) : Tile :=
  let l := (List.range 64).flatMap (fun r =>
    match tget rows r with
    | some b => b ++ (t.row r 256).drop b.length
    | none => t.row r 256)
  ({ t with
    image := imageOf l
    marks := t.marks.filter (fun e => (tget rows e.1).isNone) }).rezero

/-- Bytes of the image written from a byte upward, as `twr` does: the marks stay (09 R261). -/
def Tile.setBytes (t : Tile) (o : Nat) (l : List Byte) : Tile :=
  ({ t with image := imageOf (t.bytes 0 o ++ l ++ t.bytes (o + l.length) (16384 - o - l.length)) }).rezero

/-- Row scale `m` of an A tile; the scale of a B tile is scale 0 (09 R240). -/
def Tile.scale (t : Tile) (m : Nat) : Word := tgetD t.scales m 0x3F800000

/-- The status of a tile, without NF, ERR, the C_ bits, ECODE and PPC (09 R247). -/
def Tile.cleared (t : Tile) : Tile :=
  { t with nf := false, err := false, cinv := false, covf := false, cnfi := false, ecode := 0, ppc := 0 }

/-- The 64-bit status (09 R243). -/
def Tile.status (t : Tile) (busy : Bool) : DWord :=
  BitVec.ofNat 64 (busy.toNat + 2 * t.zero.toNat + 4 * t.nf.toNat + 8 * t.err.toNat +
    16 * t.cinv.toNat + 32 * t.covf.toNat + 64 * t.cnfi.toNat + 128 * (!t.marks.isEmpty).toNat +
    2 ^ 8 * t.ecode.toNat + 2 ^ 15 * t.ppc.toNat)

/-- The control register as `rtc` reads it (09 R241). -/
def Tile.control (t : Tile) (busy : Bool) : DWord :=
  t.tc.zeroExtend 64 ||| BitVec.ofNat 64 (2 ^ 60 * t.zero.toNat + 2 ^ 61 * busy.toNat +
    2 ^ 62 * t.nf.toNat + 2 ^ 63 * t.err.toNat)

/-- Bits [50:2] of the address of a word. -/
def ppcOf (pc : VAddr) : BitVec 49 := (pc >>> 2).setWidth 49

/-- The outcome of a marking operation recorded in its destination (09 R247). -/
def Tile.record (t : Tile) (acc nf : Bool) (c : Cond) (pc : VAddr) : Tile :=
  if acc && t.nf then t
  else
    { t with
      nf := nf
      cinv := nf && c.inv
      covf := nf && c.ovf
      cnfi := nf && c.nfi
      ppc := if nf then ppcOf pc else 0 }

/-- A failure found after issue recorded (09 R247 R249). -/
def Tile.fail (t : Tile) (code : Nat) (pc : VAddr) : Tile :=
  { t with
    err := true
    ecode := BitVec.ofNat 7 code
    ppc := ppcOf pc }

/-! ### Formats and paths (09 R241 R250) -/

/-- The floating format of a code; i8 and i32 have none. -/
def tileFmt (c : Nat) : Option Fmt :=
  match c with
  | 0 => some .fp8
  | 1 => some .e5m2
  | 2 => some .bf16
  | 3 => some .f16
  | 5 => some .f32
  | 7 => some .f64
  | _ => none

/-- The value of an element. -/
def tileValue (fmt w : Nat) : FV :=
  match tileFmt fmt with
  | some t => FV.of t w
  | none =>
    let z := sextN w (8 * elemSize fmt)
    .fin (z < 0) z.natAbs 0

/-- The paths of a product (09 R250). -/
inductive TilePath where
  | fp8 | bf16 | int8 | f64
  deriving DecidableEq, Repr

/-- The path of the formats of A and B. -/
def tilePath (a b : Nat) : Option TilePath :=
  if a ≤ 1 && b ≤ 1 then some .fp8
  else if a = b && (a = 2 || a = 3) then some .bf16
  else if a = 4 && b = 4 then some .int8
  else if a = 7 && b = 7 then some .f64
  else none

/-- The destination format of a path. -/
def TilePath.dest : TilePath → Nat
  | .fp8 => 5
  | .bf16 => 5
  | .int8 => 6
  | .f64 => 7

/-- The limits of N, and of K: least, step and greatest. -/
def TilePath.limits : TilePath → Nat × Nat × Nat × Nat
  | .fp8 => (64, 16, 16, 128)
  | .bf16 => (64, 8, 8, 128)
  | .int8 => (64, 16, 16, 128)
  | .f64 => (32, 2, 2, 32)

/-- K lies in the range of a path. -/
def TilePath.kOk (p : TilePath) (k : Nat) : Bool :=
  p.limits.2.1 ≤ k && k ≤ p.limits.2.2.2 && k % p.limits.2.2.1 == 0

/-! ### Products (09 R251 R252) -/

/-- The exact sum of exact products, with their invalid marks. -/
def sumProducts (l : List ExactSum) : ExactSum :=
  let s := exactSum .rne (l.map (fun e => e.val))
  { s with invalid := s.invalid || l.any (fun e => e.invalid) }

/-- Non-finite input is raised when some value read is. -/
def readNonfinite (l : List FV) : Cond := { nfi := l.any FV.nonfinite }

/-- One more product in a partial sum (09 R253). -/
def BlockSum.add (q : BlockSum) (x y : FV) : BlockSum :=
  let e := fvMul x y
  let q := { q with inv := q.inv || e.invalid, minus := (q.empty || q.minus) && e.val.isZero && e.val.neg, empty := false }
  match e.val with
  | .nan => { q with nan := true }
  | .inf n => if n then { q with neg := true } else { q with pos := true }
  | .fin n m x => { q with units := q.units + toUnits n m x (-32) }

/-- The exact sum that a partial sum stands for (00 R8 exact_sum, 09 R252). -/
def BlockSum.exact (q : BlockSum) : ExactSum :=
  if q.nan then { val := .nan, invalid := q.inv }
  else if q.pos && q.neg then { val := .nan, invalid := true }
  else if q.pos then { val := .inf false }
  else if q.neg then { val := .inf true }
  else if q.units = 0 then { val := .fin q.minus 0 0 }
  else { val := .fin (q.units < 0) q.units.natAbs (-32) }

/-- An element of the FP8 path: one block rounded once, then one fused rounding; `sum` is the exact sum of the block
and `a` and `b` are the elements read (09 R251). -/
def fp8Element (sum : ExactSum) (a b : List FV) (s : FRes) (acc : FV) : FRes :=
  let blk := finishSum .f32 {} sum
  let r := finishSum .f32 {} (sumProducts [fvMul (.of .f32 blk.bits) (.of .f32 s.bits), { val := acc }])
  { r with cond := r.cond.merge (blk.cond.merge (s.cond.merge (readNonfinite (acc :: (a ++ b))))) }

/-- The groups of eight K positions of the BF16 path, each rounded into the accumulator. -/
def bf16Groups : Nat → List FV → List FV → FRes → FRes
  | 0, _, _, acc => acc
  | n + 1, a, b, acc =>
    let r := finishSum .f32 {} (sumProducts
      ({ val := FV.of .f32 acc.bits } :: List.zipWith fvMul (a.take 8) (b.take 8)))
    bf16Groups n (a.drop 8) (b.drop 8) { r with cond := r.cond.merge acc.cond }

/-- The fused steps of the F64 path, in ascending k. -/
def f64Steps : List FV → List FV → FRes → FRes
  | x :: a, y :: b, acc =>
    let r := finishSum .f64 {} (sumProducts [fvMul x y, { val := FV.of .f64 acc.bits }])
    f64Steps a b { r with cond := r.cond.merge acc.cond }
  | _, _, acc => acc

/-- The sum of the products of signed bytes. -/
def int8Sum : List Nat → List Nat → Int
  | x :: a, y :: b => sextN x 8 * sextN y 8 + int8Sum a b
  | _, _ => 0

/-- An operand row of a product: its patterns, its values, its scale, the K positions it stores, and
whether its tile counts it as valid. -/
structure OpRow where
  pats : List Nat
  vals : List FV
  scale : Word
  stored : Option (BitVec 128)
  live : Bool

/-- The rows of an operand tile. A row without a mark stores every position (09 R252; log 19). -/
def Tile.opRows (t : Tile) : List OpRow :=
  (List.range t.shape.rows).map (fun r =>
    let e := t.elems t.shape r
    { pats := e, vals := e.map (tileValue t.shape.fmt),
      scale := if t.shape.layout = 0 then t.scale r else t.scale 0,
      stored := tget t.marks r, live := r < t.shape.valid })

/-- A row stores a position. -/
def OpRow.has (r : OpRow) (k : Nat) : Bool := (r.stored.map (fun x => x.getLsbD k)).getD true

/-- The values of a row at the positions that both rows store. -/
def common (a b : OpRow) : List (FV × FV) :=
  ((a.vals.zip b.vals).zipIdx.filter (fun e => a.has e.2 && b.has e.2)).map (fun e => e.1)

/-- The steps of an mmz: the positions stored in some valid row of A and in some valid row of B, in ascending order
(09 R252). -/
def mmzSteps (k : Nat) (a b : List OpRow) : List Nat :=
  (List.range k).filter (fun i => a.any (fun r => r.live && r.has i) && b.any (fun r => r.live && r.has i))

/-- One step of an mmz: each element whose rows both store the position takes its product (09 R252 R253). -/
def mmzStep (a b : List OpRow) (k : Nat) (sums : List (List BlockSum)) : List (List BlockSum) :=
  (a.zip sums).map (fun e => (b.zip e.2).map (fun g =>
    if e.1.live && g.1.live && e.1.has k && g.1.has k then
      g.2.add (e.1.vals.getD k (.fin false 0 0)) (g.1.vals.getD k (.fin false 0 0))
    else g.2))

/-- The partial sums before the first step. -/
def mmzStart (a b : List OpRow) : List (List BlockSum) := a.map (fun _ => b.map (fun _ => {}))

/-- One element of a product (09 R251 R252): the pattern and its conditions. `old` is the accumulator; `sparse` is the
block sum that an mmz has formed. -/
def productElement (path : TilePath) (sparse : Option BlockSum) (acc scl : Bool) (a b : OpRow) (old : Nat) : FRes :=
  let start := if acc then old else 0
  match path with
  | .fp8 =>
    let s : FRes := if scl then fMul .f32 {} (f32v a.scale) (f32v b.scale) else { bits := 0x3F800000 }
    match sparse with
    | some q =>
      let c := common a b
      fp8Element q.exact (c.map (fun e => e.1)) (c.map (fun e => e.2)) s (FV.of .f32 start)
    | none => fp8Element (sumProducts (List.zipWith fvMul a.vals b.vals)) a.vals b.vals s (FV.of .f32 start)
  | .bf16 =>
    let r := bf16Groups (a.vals.length / 8) a.vals b.vals { bits := start }
    { r with cond := r.cond.merge (readNonfinite (FV.of .f32 start :: (a.vals ++ b.vals))) }
  | .int8 => { bits := zextI ((start : Int) + int8Sum a.pats b.pats) 32 }
  | .f64 =>
    let r := f64Steps a.vals b.vals { bits := start }
    { r with cond := r.cond.merge (readNonfinite (FV.of .f64 start :: (a.vals ++ b.vals))) }

/-- A result element is an infinity or NaN. -/
def nonfiniteElem (fmt w : Nat) : Bool :=
  match tileFmt fmt with
  | some t => (FV.of t w).nonfinite
  | none => false

/-- One row of a result: its patterns, whether some element was written non-finite, and the merged
conditions. Elements of skipped rows and columns keep their values. The sums are those of an mmz, one for each
column. -/
def productRow (path : TilePath) (sums : Option (List BlockSum)) (acc scl : Bool) (a : OpRow) : List OpRow → List Nat →
    List Nat × Bool × Cond
  | b :: bs, o :: os =>
    let r := productRow path (sums.map (fun l => l.drop 1)) acc scl a bs os
    if a.live && b.live then
      let e := productElement path (sums.map (fun l => l.headD {})) acc scl a b o
      (e.bits :: r.1, nonfiniteElem path.dest e.bits || r.2.1, e.cond.merge r.2.2)
    else (o :: r.1, r.2)
  | _, os => (os, false, {})

/-- The product of operand rows into a destination tile, with its record; the sums are those of an mmz, row by row
(09 R247 R251 R252 R287). -/
def Tile.product (t : Tile) (path : TilePath) (sums : Option (List (List BlockSum))) (acc scl : Bool) (a b : List OpRow)
    (pc : VAddr) : Tile :=
  let rows := a.zipIdx.map (fun e =>
    (e.2, productRow path (sums.map (fun l => l.getD e.2 [])) acc scl e.1 b (t.elems t.shape e.2)))
  let touched := rows.filter (fun e => ((a[e.1]?).map (fun r => r.live)).getD false)
  let t2 := t.setRows (touched.map (fun e => (e.1, e.2.1.flatMap (fun w => bytesOf w t.shape.es))))
  t2.record acc (rows.any (fun e => e.2.2.1)) (rows.foldl (fun c e => c.merge e.2.2.2) {}) pc

/-! ### Layouts in the stash (09 R245) -/

/-- The stash ranges of row `r`: slices of 16 bytes in canonical layout, one range otherwise. -/
def rowRanges (canon : Bool) (soff r n : Nat) : List (Nat × Nat) :=
  if canon then (List.range ((n + 15) / 16)).map (fun j =>
    (soff + 1024 * j + 16 * r, min 16 (n - 16 * j)))
  else [(soff + 256 * r, n)]

/-- The footprint of rows of `n` bytes. -/
def footprint (canon : Bool) (rows n : Nat) : Nat := if canon then 64 * n else 256 * rows

/-- The bytes of a scale area: 64 scales for an A tile, one for a B tile. -/
def scaleBytes (layout : Nat) : Nat := if layout = 0 then 256 else 4

/-- The strip of sparse lines ends at the next 128-byte boundary, where the scales lie (09 R259). -/
def sparseEnd (h : TileShape) : Nat := (h.soff + 144 * h.rows + 127) / 128 * 128

/-- The scale area of a load: its offset (09 R245 R255 R259). -/
def scaleAt (h : TileShape) (canon sparse : Bool) : Nat :=
  if sparse then sparseEnd h else h.soff + footprint canon h.rows h.rowBytes

/-- The scales of a tile taken from bytes. -/
def Tile.setScales (t : Tile) (l : List Byte) : Tile :=
  { t with scales := (chunks 4 (l.length / 4) l).zipIdx.foldl (fun s e =>
      tputD s e.2 0x3F800000 (BitVec.ofNat 32 e.1)) t.scales }

/-! ### Sparse lines (07 R205) -/

/-- The number of ones of a bitmap. -/
def ones (w n : Nat) : Nat := ((List.range n).filter (bitOf w)).length

/-- The dense form of a bitmap's stored values. -/
def spread (bitmap : Nat) : Nat → Nat → List Byte → List Byte
  | 0, _, _ => []
  | n + 1, k, vals =>
    if bitOf bitmap k then (vals.head?.getD 0) :: spread bitmap n (k + 1) (vals.drop 1)
    else 0 :: spread bitmap n (k + 1) vals

/-- A sparse line with its overflow slot: the dense row and its mark; none when it is malformed. -/
def sparseLine (line slot : List Byte) : Option (List Byte × BitVec 128) :=
  let b := ofBytes (line.take 16)
  let n := ones b 128
  if n = 128 then some (line.drop 16 ++ slot, BitVec.ofNat 128 b)
  else if n ≤ 112 then some (spread b 128 0 (line.drop 16), BitVec.ofNat 128 b)
  else none

/-! ### Conversions (09 R257 R260) -/

/-- The format that CONV stores (09 R257). -/
def convFmt (conv : Nat) : Option Fmt :=
  match conv with
  | 1 => some .bf16
  | 2 => some .fp8
  | 3 => some .f16
  | _ => none

/-- The stored bytes of a row. -/
def storedRow (t : Tile) (conv : Nat) (ovt : BitVec 16) (r : Nat) : List Byte :=
  match convFmt conv with
  | none => t.row r t.shape.rowBytes
  | some f => (t.elems t.shape r).flatMap (fun w =>
      bytesOf (convert ovt {} (.flt .f32) (.flt f) w).bits (f.width / 8))

/-- An element of `tcvt`, with the default overflow results (09 R260, 00 R8). -/
def cvtElement (src dst w : Nat) : FRes :=
  let v := tileValue src w
  match tileFmt dst with
  | none => { bits := 0 }
  | some t =>
    match v with
    | .nan => { bits := t.nanPat, cond := { nfi := true } }
    | .inf n => { bits := infOf t n, cond := { nfi := true } }
    | .fin n m x => finish t {} n m x false

/-- `tcvt`: the rows of the source below its valid count converted into the destination (09 R260). -/
def Tile.converted (d a : Tile) (pc : VAddr) : Tile :=
  let rows := (List.range a.shape.valid).map (fun r =>
    (r, (a.elems a.shape r).map (cvtElement a.shape.fmt d.shape.fmt)))
  let t := d.setRows (rows.map (fun e => (e.1, e.2.flatMap (fun x => bytesOf x.bits d.shape.es))))
  let all := rows.flatMap (fun e => e.2)
  t.record false (all.any (fun x => nonfiniteElem d.shape.fmt x.bits))
    (all.foldl (fun c x => c.merge x.cond) {}) pc

end Sys2Proof.Machine
end

