-- ==== Sys2Proof/Machine/TileNames.lean ====
section
/-! DEFINITION. The tiles that a word of the matrix engine names, and when a tile is busy
(09 R246-R248). -/

namespace Sys2Proof.Machine

open Sys2Proof

/-! ### The tiles of a word (09 R246 R248) -/

/-- A word of the matrix engine: its minor, flags and tiles. -/
structure TileWord where
  minor : Nat
  flags : Nat
  td : Nat := 0
  ta : Nat := 0
  tb : Nat := 0
  deriving DecidableEq, Repr

/-- The tiles that a word names. -/
def TileWord.names (w : TileWord) : List Nat :=
  if w.minor ≤ 2 then [w.td, w.ta, w.tb]
  else if w.minor = 4 then [w.ta]
  else if w.minor = 7 then [w.td, w.ta]
  else [w.td]

/-- The tiles that a word consumes, `ta` before `tb` (09 R248). -/
def TileWord.consumes (w : TileWord) : List Nat :=
  if w.minor ≤ 2 then [w.ta, w.tb]
  else if w.minor = 4 || w.minor = 7 then [w.ta]
  else if w.minor = 8 then [w.td]
  else []

/-- A `tld` with SPARSE. -/
def TileWord.sparse (w : TileWord) : Bool := w.minor == 3 && bitOf w.flags 1

/-- A marking operation (09 R247). -/
def TileWord.marks (w : TileWord) : Bool := w.minor ≤ 2 || w.minor == 7 || w.sparse

/-- The tiles whose marking operations a word waits for (09 R248). -/
def TileWord.waitsFor (w : TileWord) : List Nat :=
  w.consumes ++ (if w.minor = 3 || w.minor = 5 || (w.minor = 10 && bitOf w.flags 0) then [w.td] else [])

/-- An operation as its word. -/
def TileOp.word (o : TileOp) : TileWord :=
  { minor := o.minor, flags := o.flags, td := o.td, ta := o.ta, tb := o.tb }

/-- A transfer: `trd`, `twr` or `tstat` (09 R261 R262). -/
def TileOp.transfer (o : TileOp) : Bool := 8 ≤ o.minor

/-- A tile; one not listed is as at admission (09 R240). -/
def Skein.tile (x : Skein) (n : Nat) : Tile := tgetD x.tiles n {}

/-- A tile is busy: an operation that names it is outstanding, or a phase that names it is open
(09 R247). -/
def Skein.tileBusy (x : Skein) (n : Nat) : Bool :=
  x.tops.any (fun o => !o.transfer && o.word.names.contains n) ||
    x.knots.any (fun e => match e.2.open_ with
      | some w => match w.op with
        | .tile minor flags td ta tb =>
          ({ minor := minor, flags := flags, td := td, ta := ta, tb := tb } : TileWord).names.contains n
        | _ => false
      | none => false)

/-- A marking operation on a tile is outstanding. -/
def Skein.marking (x : Skein) (n : Nat) : Bool :=
  x.tops.any (fun o => !o.transfer && o.word.marks && o.td == n)

/-- Change a tile. -/
def modTile (sk n : Nat) (g : Tile → Tile) : Act :=
  modSkein sk (fun x => { x with tiles := tput x.tiles n (g (x.tile n)) })

end Sys2Proof.Machine
end

