-- ==== Sys2Proof/Machine/QueueRing.lean ====
section
/-! DEFINITION. The ring of a bobbin queue and the fibres that wait at it (08 R213-R215). -/

namespace Sys2Proof.Machine

open Sys2Proof

/-- A fibre leaves its wait and is filed at a place: a reform point (06 R158). Within its clause it goes on with
the words that it holds (02 R42 R47). -/
def fileAt (k : Nat) (pos : Pos) : Act := fun p =>
  fileFibre k (modFibre k (fun f =>
    { f with
      pos := pos
      clause := if pos.pc == pos.hdr then none else f.clause }) p)

/-- A fibre's wait ends: it retires its word and is filed behind it. -/
def wakeFibre (k sk : Nat) (next : Pos) : Act := fun p => fileAt k next (kickDog sk p)

/-- A bobbin queue; one not listed is as at admission. -/
def Skein.queue (x : Skein) (q : Nat) : BQueue := tgetD x.queues q {}

/-- Change a bobbin queue. -/
def modBQueue (sk q : Nat) (g : BQueue → BQueue) : Act :=
  modSkein sk (fun x => { x with queues := tput x.queues q (g (x.queue q)) })

/-- The stash offset of the entry that a position of the ring names (08 R213). -/
def BQueue.entryAt (y : BQueue) (i : Nat) : Nat := y.base + 4 * (i % y.depth)

/-- The lines that an initialised ring occupies (08 R213). -/
def BQueue.top (y : BQueue) : Nat := y.base + (4 * y.depth + 127) / 128 * 128

/-- A value enters the ring (08 R214). -/
def pushQueue (sk core q : Nat) (w : Word) : Act := fun p =>
  match tget p.now.skeins sk with
  | none => p
  | some x =>
    let y := x.queue q
    modBQueue sk q (fun z =>
      { z with
        tail := z.tail + 1
        count := z.count + 1 })
      (seenByCore core (1, y.entryAt y.tail, 4) (bytesOf w.toNat 4)
        (stashWrite sk (y.entryAt y.tail) (bytesOf w.toNat 4) p))

/-- The entry at the head of the ring. -/
def State.headEntry (s : State) (sk : Nat) (y : BQueue) : Word :=
  BitVec.ofNat 32 (ofBytes (s.stashBytes sk (y.entryAt y.head) 4))

/-- The entry at the head leaves the ring. -/
def dropEntry (sk q : Nat) : Act := modBQueue sk q (fun z =>
  { z with
    head := z.head + 1
    count := z.count - 1 })

/-- The operation of a fibre may go on: a push below the allowance, once the tile of a handle is not
busy; a pop of a queue that is not empty (08 R214). -/
def Skein.queueOpen (x : Skein) (q : Nat) (op : QueueOp) (v : Word) : Bool :=
  let y := x.queue q
  match op with
  | .push => y.count < y.allow
  | .hpush => y.count < y.allow && !x.tileBusy (v.toNat % 16)
  | .pop => y.count != 0
  | .hpop => y.count != 0

/-- The entry at the head names no tile of the skein: a `qhpop` refuses it (08 R215). -/
def State.headBad (s : State) (sk : Nat) (x : Skein) (q : Nat) (op : QueueOp) : Bool :=
  op == .hpop && x.lr.tiles ≤ (s.headEntry sk (x.queue q)).toNat % 16

/-- The effect of a queue operation of one fibre (08 R214). -/
def queueEffect (sk core q : Nat) (op : QueueOp) (reg k : Nat) : Act := fun p =>
  match tget p.now.fibres k, tget p.now.skeins sk with
  | some f, some x =>
    if op = .push || op = .hpush then raiseIvl (.fibre k) 0 (pushQueue sk core q (f.reg reg) p)
    else dropEntry sk q (modFibre k (fun g => g.set reg (p.now.headEntry sk (x.queue q))) p)
  | _, _ => p

/-- What a fibre waits for at a queue. -/
def Run.queueWait (r : Run) (q : Nat) : Option (QueueOp × Nat × Nat × Pos) :=
  match r with
  | .parked (.queue i op reg order) next => if i = q then some (op, reg, order, next) else none
  | _ => none

/-- The first fibre, in the order in which they began to wait, whose operation may go on (08 R214). -/
def State.nextWaiter (s : State) (sk q : Nat) (x : Skein) : Option (Nat × QueueOp × Nat × Nat × Pos) :=
  (s.fibres.filterMap (fun e =>
    if e.2.sk = sk then
      match e.2.run.queueWait q with
      | some w => if x.queueOpen q w.1 (e.2.reg w.2.1) then some (e.1, w) else none
      | none => none
    else none)).foldl (fun m e => match m with
      | none => some e
      | some y => if e.2.2.2.1 < y.2.2.2.1 then some e else some y) none

/-- The queue word at which a fibre waits (08 R212). -/
def queueWordOf (q : Nat) (op : QueueOp) (reg : Nat) : Word :=
  let form := match op with
    | .push => 1
    | .pop => 2
    | .hpush => 3
    | .hpop => 4
  BitVec.ofNat 32 (0x36 * 2 ^ 26 + reg * 2 ^ 19 + q * 2 ^ 15 + form)

/-- Waiting fibres go on while the queue lets them. A `qhpop` that meets a bad head traps; where its fibre
is one of `own`, of the word being executed, the answer names it (08 R214 R215). -/
def serveQueue (sk q : Nat) (own : List Nat) : Nat → Plan → Option Nat × Plan
  | 0, p => (none, p)
  | n + 1, p =>
    match tget p.now.skeins sk with
    | none => (none, p)
    | some x =>
      match p.now.nextWaiter sk q x with
      | none => (none, p)
      | some (k, op, reg, _, next) =>
        if p.now.headBad sk x q op then
          if own.contains k then (some k, p)
          else
            let pos := ((tget p.now.fibres k).map (fun f => f.pos)).getD next
            serveQueue sk q own n (trapFibre k
              { cause := .queue, detail := 5, mask := laneBit (p.now.laneOf k) } pos (queueWordOf q op reg) none p)
        else serveQueue sk q own n (wakeFibre k sk next (queueEffect sk x.core q op reg k p))

/-- Every queue of a skein is served after a change outside its words. -/
def pokeQueues (sk : Nat) : Act := fun p =>
  match tget p.now.skeins sk with
  | none => p
  | some x => forEach x.queues (fun e q => (serveQueue sk e.1 [] (q.now.fibres.length) q).2) p

end Sys2Proof.Machine
end

