-- ==== Sys2Proof/Machine/Tiles.lean ====
section
/-! DEFINITION. The matrix engine: the checks of a tile word, the issue of an operation, its completion
in issue order, the front-issued words, and the transfers of a completed phase (09 R246-R264). -/

namespace Sys2Proof.Machine

open Sys2Proof

/-! ### The form's rules (09 R249-R260, 11 R285) -/

/-- The cores of the ply plane of a core: in its quad, those of its half of each cluster (11 R284). -/
def planeCores (core : Nat) : List Nat :=
  let base := core / 32 * 32 + core % 8 / 4 * 4
  (List.range 16).map (fun q => base + q / 4 * 8 + q % 4)

/-- The core is in service (16 R394). -/
def State.coreInService (s : State) (core : Nat) : Bool := (s.die (core / 64)).coresvc.getLsbD (core % 64)

/-- The rules of a product (09 R250, 11 R285): the detail of the first that fails. -/
def productRule (s : State) (x : Skein) (w : TileWord) : Option Nat :=
  let a := (x.tile w.ta).shape
  let b := (x.tile w.tb).shape
  let d := (x.tile w.td).shape
  if w.td = w.ta || w.td = w.tb || w.ta = w.tb || a.layout != 0 || b.layout != 1 || d.layout != 2 then
    some 2
  else
    match tilePath a.fmt b.fmt with
    | none => some 3
    | some p =>
      if d.fmt != p.dest || (w.minor = 1 && p != .fp8) || (w.minor = 2 && p == .f64) then some 3
      else if a.rows = 0 || b.rows = 0 || d.rows = 0 || b.cols != a.cols || !p.kOk a.cols ||
          (if w.minor = 2 then a.rows != 8 || b.rows != 32 || d.rows != 64 || d.cols != 64
           else d.rows != a.rows || d.cols != b.rows || p.limits.1 < b.rows) then some 4
      else if bitOf w.flags 1 && p != .fp8 then some 7
      else if w.minor = 2 && !(planeCores x.core).all s.coreInService then some 9
      else none

/-- A flag of `tcvt`'s format pair (09 R260). -/
def cvtPair (a d : Nat) : Bool :=
  (a != d && (tileFmt a).isSome && (tileFmt d).isSome) || (a == 6 && d == 5)

/-- The stash bytes of a load or store: the footprint with its scale area, and the scales alone for
`tscl` (09 R245 R255-R259). -/
def tileRange (x : Skein) (w : TileWord) : Nat × Nat :=
  if w.minor = 4 then
    let h := (x.tile w.ta).shape
    let n := h.cols * ((convFmt (w.flags % 4)).map (fun f => f.width / 8)).getD h.es
    (h.soff, footprint (bitOf w.flags 2) h.rows n)
  else
    let h := (x.tile w.td).shape
    let canon := h.layout != 2 && (w.minor = 6 || !bitOf w.flags 2)
    let at_ := scaleAt h canon w.sparse
    if w.minor = 6 then (at_, scaleBytes h.layout)
    else if bitOf w.flags 0 then (h.soff, at_ + scaleBytes h.layout - h.soff)
    else if w.sparse then (h.soff, 144 * h.rows)
    else (h.soff, footprint canon h.rows h.rowBytes)

/-- The rules of a move, before its stash bytes (09 R255-R259). -/
def moveRule (x : Skein) (w : TileWord) : Option Nat :=
  let h := (x.tile (if w.minor = 4 then w.ta else w.td)).shape
  if w.minor = 6 && h.layout = 2 then some 2
  else if w.sparse && (h.layout = 2 || h.fmt != 0 || h.cols != 128) then some 6
  else if h.rows = 0 then some 4
  else if w.minor = 3 && h.layout = 2 && (bitOf w.flags 0 || bitOf w.flags 2) then some 7
  else if w.minor = 4 && ((w.flags % 4 != 0 && h.fmt != 5) ||
      (bitOf w.flags 2 && (tileRange x w).2 % 1024 != 0)) then some 7
  else none

/-- The form's rules of a word, in the order of R249: the trap of the first that fails. -/
def tileRules (s : State) (sk : Nat) (x : Skein) (w : TileWord) : Option Trap :=
  let fail := fun (d : Nat) => some ({ cause := .tileShape, detail := d } : Trap)
  if 8 ≤ w.minor then none
  else if w.minor ≤ 2 then (productRule s x w).bind fail
  else if w.minor = 5 then if (x.tile w.td).shape.rows = 0 then fail 4 else none
  else if w.minor = 7 then
    let a := (x.tile w.ta).shape
    let d := (x.tile w.td).shape
    if w.td = w.ta then fail 2
    else if !cvtPair a.fmt d.fmt then fail 3
    else if a.rows = 0 || a.rows != d.rows || a.cols != d.cols then fail 4
    else none
  else
    match moveRule x w with
    | some d => fail d
    | none =>
      let r := tileRange x w
      if x.lr.stash < r.1 + r.2 then fail 5
      else (s.mapRefuses sk (w.minor = 4) [r]).map (fun e =>
        { cause := .stashMap, detail := e.1, addr := e.2 })

/-! ### Checks and deferred traps (09 R248) -/

/-- What the checks of a tile word give. -/
inductive TileCheck where
  | wait
  | trap (t : Trap)
  | ok
  deriving DecidableEq, Repr

/-- The deferred trap of a consumed tile. -/
def deferred (x : Skein) (n : Nat) : Option Trap :=
  let t := x.tile n
  if t.nf then
    some { cause := .tileNonfinite,
           detail := (t.cinv.toNat + 2 * t.covf.toNat + 4 * t.cnfi.toNat) * 16 + n }
  else if t.err then some { cause := .tileShape, detail := t.ecode.toNat }
  else none

/-- The checks of a tile word in a skein (09 R248). -/
def tileCheck (s : State) (sk : Nat) (x : Skein) (w : TileWord) : TileCheck :=
  if w.waitsFor.any x.marking then .wait
  else
    match w.consumes.findSome? (deferred x) with
    | some t => .trap t
    | none =>
      match tileRules s sk x w with
      | some t => .trap t
      | none => .ok

/-- Some tile of a word lies at or beyond TILES (09 R240). -/
def TileWord.beyond (w : TileWord) (x : Skein) : Bool := w.names.any (fun n => x.lr.tiles ≤ n)

/-! ### Transfers (09 R261 R262) -/

/-- The members of a phase in ascending sr.fibre (06 R169). -/
def ranked (l : List Member) : List Member :=
  let put := fun (m : Member) (acc : List Member) =>
    acc.takeWhile (fun y => y.idx ≤ m.idx) ++ [m] ++ acc.dropWhile (fun y => y.idx ≤ m.idx)
  l.foldl (fun acc m => put m acc) []

/-- The load of a member has its value. -/
def giveLoad (m : Member) (v : Nat) : Act :=
  match m.load with
  | none => id
  | some i => modLoads (.fibre m.fib) (fun ls => ls.map (fun y =>
      if y.id = i then { y with src := .value v } else y))

/-- A transfer is performed (09 R261 R262). -/
def transferTile (sk : Nat) (o : TileOp) : Act := fun p =>
  match tget p.now.skeins sk with
  | none => p
  | some x =>
    let ms := (ranked o.members).zipIdx
    let at_ := fun (j : Nat) => 1024 * o.tb + 16 * j
    if o.minor = 8 then
      forEach ms (fun e => giveLoad e.1
        (if e.2 < 64 then ofBytes ((x.tile o.td).bytes (at_ e.2) 16) else 0)) p
    else if o.minor = 9 then
      let p := forEach (ms.filter (fun e => e.2 < 64)) (fun e => modTile sk o.td (fun t =>
        t.setBytes (at_ e.2) (e.1.captured.flatMap (fun w => bytesOf w.toNat 4)))) p
      forEach o.members (fun m => modFibre m.fib (fun f => { f with twrs := f.twrs - 1 })) p
    else
      let v := ((x.tile o.td).status (x.tileBusy o.td)).toNat
      let p := forEach ms (fun e => giveLoad e.1 v) p
      if bitOf o.flags 0 then modTile sk o.td Tile.cleared p else p

/-- A transfer has to wait for an earlier operation on its tile. -/
def transferHeld (earlier : List TileOp) (o : TileOp) : Bool :=
  o.minor != 10 && earlier.any (fun y => y.word.names.contains o.td)

/-- Every transfer whose tile no earlier operation names is performed. -/
def runTransfers (sk : Nat) : Nat → Act
  | 0, p => p
  | n + 1, p =>
    match tget p.now.skeins sk with
    | none => p
    | some x =>
      match x.tops.zipIdx.find? (fun e => e.1.transfer && !transferHeld (x.tops.take e.2) e.1) with
      | none => p
      | some e =>
        runTransfers sk n (transferTile sk e.1
          (modSkein sk (fun y => { y with tops := y.tops.eraseIdx e.2 }) p))

/-! ### Issue (09 R247) -/

/-- An operation issues: it joins TL and the engine's order; a dense `tld` and a `tzero` clear the status
of their destination; a `ply` takes its pairing number (11 R286). -/
def issueTile (sk : Nat) (w : TileWord) (pc : VAddr) (knot : Option Nat) : Act := fun p =>
  match tget p.now.skeins sk with
  | none => p
  | some x =>
    let n := tgetD (p.now.core x.core).plies x.launch 0
    let o : TileOp :=
      { id := x.nextId, minor := w.minor, flags := w.flags, td := w.td, ta := w.ta, tb := w.tb, pc := pc,
        ovt := ctlOvt x.ctl, knot := knot, ply := if w.minor = 2 then some n else none,
        seq := if w.minor = 2 then p.now.nextKey else 0 }
    let p := actIf (w.minor = 2) bumpKey p
    let p := modSkein sk (fun y =>
      { y with
        tops := y.tops ++ [o]
        tlq := y.tlq ++ [(o.id, false)]
        nextId := y.nextId + 1 }) p
    let p := if w.minor = 2 then modCore x.core (fun c => { c with plies := tput c.plies x.launch (n + 1) }) p
      else p
    if w.minor = 5 || (w.minor = 3 && !w.sparse) then modTile sk w.td Tile.cleared p else p

/-- A front-issued tile word (09 R247 R248). -/
def tileWord (w : TileWord) : Act :=
  frontWord [] anyone (fun k x p =>
    if w.beyond x then trapWord { cause := .illegalField } p
    else
      match tileCheck p.now k x w with
      | .wait => p
      | .trap t => trapWord t p
      | .ok => if 7 ≤ x.tl then p else retire (issueTile k w x.front.pos.pc none p))

/-! ### Completion (09 R247 R251-R260 R263) -/

/-- The stash ranges that an operation reads or writes. -/
def tileTouches (x : Skein) (o : TileOp) : List (Nat × Nat) :=
  let h := (x.tile (if o.minor = 4 then o.ta else o.td)).shape
  if o.minor = 4 then
    let n := h.cols * ((convFmt (o.flags % 4)).map (fun f => f.width / 8)).getD h.es
    (List.range h.valid).flatMap (fun r => rowRanges (bitOf o.flags 2) h.soff r n)
  else if o.minor = 3 || o.minor = 6 then
    let canon := h.layout != 2 && (o.minor = 6 || !bitOf o.flags 2)
    let rows := if o.minor = 6 then []
      else if o.word.sparse then (List.range h.valid).flatMap (fun r =>
        [(h.soff + 128 * r, 128), (h.soff + 128 * h.rows + 16 * r, 16)])
      else (List.range h.valid).flatMap (fun r => rowRanges canon h.soff r h.rowBytes)
    if o.minor = 6 || bitOf o.flags 0 then
      rows ++ [(scaleAt h canon o.word.sparse, scaleBytes h.layout)]
    else rows
  else []

/-- The bytes of some ranges as the engine reads them. -/
def State.rangeBytes (s : State) (sk : Nat) (l : List (Nat × Nat)) : List Byte :=
  l.flatMap (fun e => s.engineBytes sk e.1 e.2)

/-- The scales that a load takes. -/
def loadScales (s : State) (sk : Nat) (o : TileOp) (t : Tile) : Tile :=
  if o.minor = 6 || bitOf o.flags 0 then
    let canon := t.shape.layout != 2 && (o.minor = 6 || !bitOf o.flags 2)
    t.setScales (s.engineBytes sk (scaleAt t.shape canon o.word.sparse) (scaleBytes t.shape.layout))
  else t

/-- A dense load (09 R255). -/
def loadTile (s : State) (sk : Nat) (o : TileOp) (t : Tile) : Tile :=
  let h := t.shape
  let canon := h.layout != 2 && !bitOf o.flags 2
  let rows := (List.range h.valid).map (fun r =>
    (r, s.rangeBytes sk (rowRanges canon h.soff r h.rowBytes)))
  loadScales s sk o { t.setRows rows with marks := [] }

/-- A sparse load. When a line is malformed, each row keeps its old or takes its new contents, as the
part chooses (09 R259; log 5). -/
def loadSparse (s : State) (sk : Nat) (o : TileOp) (t : Tile) : Tile :=
  let h := t.shape
  let lines := (List.range h.valid).map (fun r =>
    (r, sparseLine (s.engineBytes sk (h.soff + 128 * r) 128)
      (s.engineBytes sk (h.soff + 128 * h.rows + 16 * r) 16)))
  let bad := lines.any (fun e => e.2.isNone)
  let new := (lines.filterMap (fun e => e.2.map (fun x => (e.1, x)))).filter (fun e =>
    !bad || Config.flip (s.fresh + e.1))
  let u := t.setRows (new.map (fun e => (e.1, e.2.1)))
  let u := loadScales s sk o { u with marks := new.foldl (fun m e => tput m e.1 e.2.2) u.marks }
  let u := u.record false (new.any (fun e => (chunks 1 128 e.2.1).any (nonfiniteElem 0))) {} o.pc
  if bad then u.fail 6 o.pc else u

/-- A `tst` writes its rows to the stash (09 R257). -/
def storeTile (sk : Nat) (o : TileOp) : Act := fun p =>
  match tget p.now.skeins sk with
  | none => p
  | some x =>
    let t := x.tile o.ta
    forEach (List.range t.shape.valid) (fun r =>
      let l := storedRow t (o.flags % 4) o.ovt r
      if bitOf o.flags 2 then
        forEach (List.range ((l.length + 15) / 16)) (fun j =>
          engineWrite true sk x.core (t.shape.soff + 1024 * j + 16 * r) ((l.drop (16 * j)).take 16))
      else engineWrite true sk x.core (t.shape.soff + 256 * r) l) p

/-- What an operation makes of its destination (09 R251-R260). -/
def tileResult (s : State) (sk : Nat) (x : Skein) (o : TileOp) (t : Tile) : Tile :=
  let a := x.tile o.ta
  let b := x.tile o.tb
  match o.minor with
  | 3 => if o.word.sparse then loadSparse s sk o t else loadTile s sk o t
  | 5 => { t with image := [], scales := [], marks := [], zero := true }
  | 6 => loadScales s sk o t
  | 7 => t.converted a o.pc
  | _ =>
    match tilePath a.shape.fmt b.shape.fmt with
    | none => t
    | some path =>
      t.product path (if o.minor = 1 then some (mmzAfter 128 a b o).sums else none) (bitOf o.flags 0)
        (bitOf o.flags 1) a.opRows b.opRows o.pc
where
  /-- An mmz after some more of its steps (09 R253). -/
  mmzAfter (n : Nat) (a b : Tile) (o : TileOp) : TileOp :=
    let ra := a.opRows
    let rb := b.opRows
    let start := if o.step = 0 then mmzStart ra rb else o.sums
    let ks := ((mmzSteps a.shape.cols ra rb).drop o.step).take n
    { o with
      step := o.step + ks.length
      sums := ks.foldl (fun m k => mmzStep ra rb k m) start }

/-- The steps that an mmz has left (09 R252). -/
def stepsLeft (x : Skein) (o : TileOp) : Nat :=
  (mmzSteps (x.tile o.ta).shape.cols (x.tile o.ta).opRows (x.tile o.tb).opRows).length - o.step

/-- An operation has completed: it leaves the engine and TL, in issue order (06 R164, 09 R247). -/
def endTileOp (sk id : Nat) : Act := fun p =>
  pokeQueues sk (runTransfers sk 64 (modSkein sk (fun x =>
    { x with
      tops := x.tops.filter (fun o => o.transfer || o.id != id)
      tlq := (x.tlq.map (fun e => if e.1 = id then (id, true) else e)).dropWhile (fun e => e.2) }) p))

/-- A skein has its core: its engines run. -/
def Skein.onCore (x : Skein) : Bool := x.run == .resident || x.run == .stopping

/-- An operation of a skein changes. -/
def modTop (sk id : Nat) (g : TileOp → TileOp) : Act := modSkein sk (fun y =>
  { y with tops := y.tops.map (fun z => if z.id = id && !z.transfer then g z else z) })

/-- A fault that an operation meets in a mapping window: one of a translation holds the operation and is met with
SRC 3; the operation waits at any other, and tries again (09 R263; log 60). -/
def holdTileOp (sk : Nat) (x : Skein) (o : TileOp) (e : FillFault) : Act := fun p =>
  match e with
  | .walk _ _ =>
    meetFault (x.core / 64) (faultOf x (fillTrap e 0) 3 0 (.tileOp sk) {} (posAt 0))
      (modTop sk o.id (fun z => { z with held := true }) p)
  | _ => p

/-- TILE_OP_COMPLETE: the oldest operation of a skein is performed and completes. An mmz performs up to 16 of its
steps at a time, and stands at a step boundary between (09 R252 R253). A fault in a mapping window holds an operation
(09 R263). A ply completes otherwise (11 R289). -/
def completeTileOp (sk : Nat) : Act := fun p =>
  match tget p.now.skeins sk with
  | none => p
  | some x =>
    match x.tops.find? (fun o => !o.transfer) with
    | none => p
    | some o =>
      if o.minor = 2 || o.held || !x.onCore then p
      else if o.minor = 1 && 16 < stepsLeft x o then
        modTop sk o.id (tileResult.mmzAfter 16 (x.tile o.ta) (x.tile o.tb)) p
      else
        match touchAll true (.tileOp sk) sk (o.minor == 4) (tileTouches x o) p with
        | (.fault e, q) => holdTileOp sk x o e q
        | (.wait, q) => q
        | (.done, q) =>
          let q := bumpFresh q
          let q := if o.minor = 4 then storeTile sk o q
            else modTile sk o.td (tileResult q.now sk x o) q
          endTileOp sk o.id q

/-- TILE_OP_COMPLETE (09 R247). -/
def execTileOpComplete (sk : Nat) (s : State) : Host.Outcome State Fault Refusal :=
  commit s (completeTileOp sk)

/-! ### Front-issued words -/

/-- The flags of a product: ACC and SCL. -/
def productFlags (scl acc : BitVec 1) : Nat := acc.toNat + 2 * scl.toNat

/-- `mma`, front-issued (09 R250). -/
def execMma (d a b : BitVec 4) (sx c : BitVec 1) (s : State) : Host.Outcome State Fault Refusal :=
  commit s (tileWord { minor := 0, flags := productFlags sx c, td := d.toNat, ta := a.toNat, tb := b.toNat })

/-- `mmz`, front-issued (09 R252). -/
def execMmz (d a b : BitVec 4) (sx c : BitVec 1) (s : State) : Host.Outcome State Fault Refusal :=
  commit s (tileWord { minor := 1, flags := productFlags sx c, td := d.toNat, ta := a.toNat, tb := b.toNat })

/-- `ply`, front-issued (09 R254, 11 R285). -/
def execPly (d a b : BitVec 4) (sx c : BitVec 1) (s : State) : Host.Outcome State Fault Refusal :=
  commit s (tileWord { minor := 2, flags := productFlags sx c, td := d.toNat, ta := a.toNat, tb := b.toNat })

/-- `tld`, front-issued (09 R255 R259): ROWM, SPARSE and SCL. -/
def execTld (d : BitVec 4) (w p c : BitVec 1) (s : State) : Host.Outcome State Fault Refusal :=
  commit s (tileWord { minor := 3, flags := c.toNat + 2 * p.toNat + 4 * w.toNat, td := d.toNat })

/-- `tst`, front-issued (09 R257): CAN and CONV. -/
def execTst (a : BitVec 4) (n : BitVec 1) (v : BitVec 2) (s : State) : Host.Outcome State Fault Refusal :=
  commit s (tileWord { minor := 4, flags := v.toNat + 4 * n.toNat, ta := a.toNat })

/-- `tzero`, front-issued (09 R258). -/
def execTzero (d : BitVec 4) (s : State) : Host.Outcome State Fault Refusal :=
  commit s (tileWord { minor := 5, flags := 0, td := d.toNat })

/-- `tscl`, front-issued (09 R256). -/
def execTscl (d : BitVec 4) (s : State) : Host.Outcome State Fault Refusal :=
  commit s (tileWord { minor := 6, flags := 0, td := d.toNat })

/-- `tcvt`, front-issued (09 R260). -/
def execTcvt (d a : BitVec 4) (s : State) : Host.Outcome State Fault Refusal :=
  commit s (tileWord { minor := 7, flags := 0, td := d.toNat, ta := a.toNat })

/-- `tstat` in a front context: it writes the status when it executes, and waits only under CLR
(09 R262). -/
def execTstat (t : BitVec 4) (d : BitVec 6) (c : BitVec 1) (s : State) :
    Host.Outcome State Fault Refusal :=
  let w : TileWord := { minor := 10, flags := c.toNat, td := t.toNat }
  commit s (frontWord [] anyone (fun k x p =>
    if w.beyond x then trapWord { cause := .illegalField } p
    else if tileCheck p.now k x w = .wait then p
    else
      let p := modFront k (fun f => f.set d.toNat ((x.tile t.toNat).status (x.tileBusy t.toNat))) p
      retire (if c = 1 then modTile k t.toNat Tile.cleared p else p)))

/-- `wtc`: a legal value waits while the tile is busy (08 R207, 09 R242). -/
def execWtc (t : BitVec 4) (a : BitVec 6) (s : State) : Host.Outcome State Fault Refusal :=
  commit s (frontWord [a.toNat] anyone (fun k x p =>
    let v := (x.front.reg a.toNat).toNat % 2 ^ 60
    if x.lr.tiles ≤ t.toNat then trapWord { cause := .illegalField } p
    else if !tcLegal v then trapWord { cause := .tileShape, detail := 1 } p
    else if x.tileBusy t.toNat then p
    else retire (modTile k t.toNat (fun y => ({ y with tc := BitVec.ofNat 60 v }).rezero) p)))

/-- `rtc` (08 R207, 09 R241). -/
def execRtc (d : BitVec 6) (t : BitVec 4) (s : State) : Host.Outcome State Fault Refusal :=
  commit s (frontWord [] anyone (fun k x p =>
    if x.lr.tiles ≤ t.toNat then trapWord { cause := .illegalField } p
    else retire (modFront k (fun f =>
      f.set d.toNat ((x.tile t.toNat).control (x.tileBusy t.toNat))) p)))

end Sys2Proof.Machine
end

