-- ==== Sys2Proof/Machine/Knots.lean ====
section
/-! DEFINITION. Knots: arming, ties and knotted words, byte counts and credits, and the fibres that wait
for a phase (06 R165-R169, 11 R289). -/

namespace Sys2Proof.Machine

open Sys2Proof

/-! ### Phases (06 R165) -/

/-- A knot; one not listed is as at admission. -/
def Skein.knot (x : Skein) (k : Nat) : Knot := tgetD x.knots k {}

/-- The phase record of a fibre for a knot. -/
def Fibre.phase (f : Fibre) (k : Nat) : Word := tgetD f.krec k 0xFFFFFFFF

/-- The phase record written. -/
def Fibre.setRec (f : Fibre) (k : Nat) (w : Word) : Fibre := { f with krec := tputD f.krec k 0xFFFFFFFF w }

/-- Phase `q` has passed in the serial sense (06 R165 R171). -/
def serialPassed (p q : Word) : Bool := 1 ≤ (p - q).toNat && (p - q).toNat ≤ 2 ^ 31

/-- Change a knot. -/
def modKnot (sk k : Nat) (g : Knot → Knot) : Act :=
  modSkein sk (fun x => { x with knots := tput x.knots k (g (x.knot k)) })

/-! ### Waiting -/

/-- The fibres of a strand that have to wait leave it with the words of their clause; those of a halted skein
stop (06 R160, 02 R47, 04 R118). -/
def parkLanes (n : Nat) (ls : List Lane) (w : Wait) (next : Pos) : Act := fun p =>
  let c := (tget p.now.strands n).bind (fun x => x.clause)
  forEach ls (fun l => modFibre l.k (fun f =>
    if l.x.halted then { f with run := .halted (some (w, next)), clause := none }
    else { f with run := .parked w next, clause := c }))
    (leaveStrand n (ls.map (fun l => l.k)) p)

/-- The fibres that wait at a knot go on when their recorded phase has passed; those that wait to tie
go back to their word when the knot is open to ties (06 R167, 11 R289). -/
def wakeKnot (sk k : Nat) : Act := fun p =>
  forEach (p.now.fibresOf sk) (fun j q =>
    match tget q.now.fibres j, tget q.now.skeins sk with
    | some f, some x =>
      match f.run with
      | .parked (.knot i) next =>
        if i = k && serialPassed (x.knot k).p (f.phase k) then wakeFibre j sk next q else q
      | .parked (.reopen i) pos => if i = k && !(x.knot k).closed then fileAt j pos q else q
      | _ => q
    | _, _ => q) p

/-! ### Completing a phase -/

/-- A transfer of a completed phase waits for its tile, or is performed (09 R261 R262). -/
def startTransfer (sk minor tile slice flags : Nat) (ms : List Member) (pc : VAddr) : Act := fun p =>
  runTransfers sk 64 (modSkein sk (fun x =>
    { x with
      tops := x.tops ++ [{ id := x.nextId, minor := minor, flags := flags, td := tile, ta := 0, tb := slice, pc := pc, ovt := 0, members := ms }]
      nextId := x.nextId + 1 }) p)

/-- The operation of a completed phase issues, with its members (06 R169). -/
def phaseOp (sk : Nat) (w : PhaseWord) (ms : List Member) : Act :=
  match w.op with
  | .tie => id
  | .dload => endDload sk (ranked ms)
  | .dend => endDend sk
  | .tile minor flags td ta tb =>
    issueTile sk { minor := minor, flags := flags, td := td, ta := ta, tb := tb } w.pc none
  | .trd tile slice _ => startTransfer sk 8 tile slice 0 ms w.pc
  | .twr tile slice _ => startTransfer sk 9 tile slice 0 ms w.pc
  | .tstat tile _ clr => startTransfer sk 10 tile 0 clr.toNat ms w.pc

/-- P advances and the knot is open to ties again; waiting fibres go on (06 R165). -/
def advancePhase (sk k : Nat) : Act := fun p =>
  wakeKnot sk k (modKnot sk k (fun y =>
    { y with
      p := y.p + 1
      ties := 0
      posted := false
      members := []
      open_ := none
      closed := false }) p)

/-- The ties of a phase are all in: its operation issues and the phase completes. The phase of a plied
operation is closed to ties and completes with the ply (06 R165 R169, 11 R289). -/
def completePhase (sk k : Nat) : Act := fun p =>
  match tget p.now.skeins sk with
  | none => p
  | some x =>
    let y := x.knot k
    match y.open_ with
    | none => advancePhase sk k p
    | some w =>
      match w.op with
      | .tile 2 flags td ta tb =>
        issueTile sk { minor := 2, flags := flags, td := td, ta := ta, tb := tb } w.pc (some k)
          (modKnot sk k (fun z => { z with closed := true }) p)
      | _ => phaseOp sk w y.members (advancePhase sk k p)

/-- Bytes credited to a byte-mode knot (06 R168). -/
def creditKnot (sk k n : Nat) : Act := fun p =>
  let p := modKnot sk k (fun y => { y with b := y.b + n }) p
  let done : Bool := match tget p.now.skeins sk with
    | some x => (x.knot k).posted && 0 ≤ (x.knot k).b
    | none => false
  let p := if done then completePhase sk k p else p
  modKnot sk k (fun y => if 2 ^ 31 - 1 < y.b then
    { y with
      b := 2 ^ 31 - 1
      error := true } else y) p

/-! ### Checks (06 R167) -/

/-- The forms that the checks tell apart. -/
inductive KnotForm where
  | karm (count : Option Nat)
  | tie (op : KnotOp)
  | kexpect (n : Nat)
  | kwait
  | kstat
  deriving DecidableEq, Repr

/-- A word ties a phase that another word opened (06 R169). -/
def PhaseWord.differs (w : PhaseWord) (op : KnotOp) (word : Word) (pfx : Option Word) : Bool :=
  if w.op = .tie || op = .tie then w.op != op else w.word != word || w.pfx != pfx

/-- The checks of a lane against the knot, in their order: the detail of the first that fails. -/
def knotCheck (s : State) (x : Skein) (fib k : Nat) (form : KnotForm) : Option Nat :=
  let y := x.knot k
  if x.lr.knots ≤ k then some 8
  else
    match form with
    | .karm c =>
      if y.ties != 0 || y.posted then some 4
      else if (c.map (fun n => n = 0 || 1024 < n)).getD false then some 6
      else none
    | .tie op =>
      if y.error then some 7
      else if !y.memberMode then some 1
      else if y.closed then none
      else if y.members.any (fun m => m.fib == fib) then some 2
      else if (y.open_.map (fun w => w.differs op s.cur.word s.cur.pfx)).getD false then some 3
      else none
    | .kexpect n =>
      if y.error then some 7
      else if y.memberMode then some 1
      else if y.posted then some 5
      else if n = 0 || 2 ^ 31 ≤ n then some 6
      else none
    | .kwait => if y.error then some 7 else none
    | .kstat => none

/-- A word of the knots: every lane is checked before any acts. -/
def knotWord (rg : Regs) (k : Nat) (form : Lane → KnotForm) (body : Nat → List Lane → Act) : Act :=
  fibreWord rg anyone (fun n lanes p =>
    match worstTrap (lanes.filterMap (fun l => (knotCheck p.now l.x l.k k (form l)).map (fun d =>
      ({ cause := .knot, detail := d, mask := l.bit } : Trap)))) with
    | some t => trapWord t p
    | none => body n lanes p)

/-- The place behind the word of a strand. -/
def State.behind (s : State) (n : Nat) : Pos :=
  match tget s.strands n with
  | some x => nextPos x.pos x.clause (wordBytes s)
  | none => posAt 0

/-- The lanes whose recorded phase has not passed wait; the others go on. -/
def waitKnot (n k : Nat) (ks : List Nat) : Act := fun p =>
  match tget p.now.strands n with
  | none => p
  | some st =>
    let waits := (p.now.lanes st).filter (fun l => ks.contains l.k && !serialPassed (l.x.knot k).p (l.f.phase k))
    retire (parkLanes n waits (.knot k) (p.now.behind n) p)

/-! ### karm, kexpect, kwait, kstat -/

/-- The knot is armed: every fibre's record is reset, and fibres that wait on it go on (06 R167). -/
def armKnot (sk k : Nat) (count : Option Nat) : Act := fun p =>
  let p := modKnot sk k (fun y =>
    { y with
      memberMode := count.isSome
      c := count.getD y.c
      b := if count.isSome then y.b else 0
      p := 0
      ties := 0
      posted := false
      error := false }) p
  wakeKnot sk k (forEach (p.now.fibresOf sk) (fun j => modFibre j (fun f => f.setRec k 0xFFFFFFFF)) p)

/-- `karm` in member mode (06 R167). -/
def execKarm (k : BitVec 4) (v : BitVec 7) (s : State) : Host.Outcome State Fault Refusal :=
  let count := fun (l : Lane) => some (l.f.reg v.toNat).toNat
  commit s (knotWord { src := [one v] } k.toNat (fun l => .karm (count l)) (fun _ lanes p =>
    retire (forEach lanes (fun l => armKnot l.f.sk k.toNat (count l)) p)))

/-- `karm.byte` (06 R167). -/
def execKarmByte (k : BitVec 4) (s : State) : Host.Outcome State Fault Refusal :=
  commit s (knotWord {} k.toNat (fun _ => .karm none) (fun _ lanes p =>
    retire (forEach lanes (fun l => armKnot l.f.sk k.toNat none) p)))

/-- A lane posts its byte count. The balance is a whole number: counts that several lanes post in one word may take
it below -2^31, of which the spec says nothing (log 49). -/
def expectLane (l : Lane) (k n : Nat) : Act := fun p =>
  match tget p.now.skeins l.f.sk with
  | none => p
  | some x =>
    let p := modFibre l.k (fun f => f.setRec k (x.knot k).p) p
    let p := modKnot l.f.sk k (fun y =>
      { y with
        b := y.b - n
        posted := true }) p
    if (n : Int) ≤ (x.knot k).b then completePhase l.f.sk k p else p

/-- `kexpect` (06 R167). -/
def execKexpect (k : BitVec 4) (v : BitVec 7) (s : State) : Host.Outcome State Fault Refusal :=
  let n := fun (l : Lane) => (l.f.reg v.toNat).toNat
  commit s (knotWord { src := [one v] } k.toNat (fun l => .kexpect (n l)) (fun _ lanes p =>
    retire (forEach lanes (fun l => expectLane l k.toNat (n l)) p)))

/-- `kwait` (06 R167). -/
def execKwait (k : BitVec 4) (s : State) : Host.Outcome State Fault Refusal :=
  commit s (knotWord {} k.toNat (fun _ => .kwait) (fun n lanes =>
    waitKnot n k.toNat (lanes.map (fun l => l.k))))

/-- What `kstat` writes: the balance or the tie count, and P. -/
def knotStatus (y : Knot) : DWord :=
  y.p ++ (if y.memberMode then BitVec.ofNat 32 y.ties else BitVec.ofInt 32 y.b)

/-- `kstat` (06 R167). -/
def execKstat (k : BitVec 4) (d : BitVec 7) (s : State) : Host.Outcome State Fault Refusal :=
  commit s (knotWord { dst := [two d] } k.toNat (fun _ => .kstat) (fun _ lanes p =>
    retire (forEach lanes (fun l => modFibre l.k (fun f =>
      f.setPair d.toNat (knotStatus (l.x.knot k.toNat)))) p)))

/-! ### Ties -/

/-- What a tie takes with it: captured registers, and a load or a tile write that counts until the
operation is performed. -/
structure TieForm where
  op : KnotOp
  captured : Lane → List Word := fun _ => []
  load : Option (Img × Nat) := none
  twr : Bool := false

/-- A lane ties: it joins the members of the open phase, and the last tie completes the phase. A phase
closed by an earlier lane leaves it waiting to tie (06 R167, 11 R289). -/
def tieLane (n k : Nat) (form : TieForm) (l : Lane) : Act := fun p =>
  match tget p.now.skeins l.f.sk, tget p.now.fibres l.k, tget p.now.strands n with
  | some x, some f, some st =>
    let y := x.knot k
    if y.closed then parkLanes n [{ l with x := x }] (.reopen k) st.pos p
    else
      let w : PhaseWord := { op := form.op, word := p.now.cur.word, pfx := p.now.cur.pfx, pc := st.pos.pc }
      let m : Member := { fib := l.k, idx := f.idx.toNat, captured := form.captured l,
                          load := form.load.map (fun _ => f.nextId) }
      let p := match form.load with
        | some (img, dst) => issueLoad l.k img dst img.regs .pending p
        | none => p
      let p := modFibre l.k (fun g => { g.setRec k y.p with
        twrs := g.twrs + (if form.twr then 1 else 0) }) p
      let p := raiseIvl (.fibre l.k) 0 p
      let p := modKnot l.f.sk k (fun z =>
        { z with
          ties := z.ties + 1
          members := z.members ++ [m]
          open_ := some (z.open_.getD w) }) p
      if y.ties + 1 = y.c then completePhase l.f.sk k p else p
  | _, _, _ => p

/-- The earlier stores of the lanes are performed: a tie is a release at core scope (06 R167). -/
def storesDrained (lanes : List Lane) : Bool := lanes.all (fun l => l.f.stores.all (fun y => y.sent))

/-- The lanes of a tie that the knot accepts act in ascending home lane, after the word's own check. -/
def tieWord (rg : Regs) (k : Nat) (form : TieForm) (extra : State → Lane → TileCheck)
    (after : Nat → List Lane → Act) : Act :=
  knotWord rg k (fun _ => .tie form.op) (fun n lanes p =>
    let cs := lanes.map (fun l => (l, extra p.now l))
    if cs.any (fun e => e.2 == .wait) then holdAt p
    else
      match worstTrap (cs.filterMap (fun e => match e.2 with
        | .trap t => some { t with mask := e.1.bit }
        | _ => none)) with
      | some t => trapWord t p
      | none =>
        if lanes.any (fun l => (l.x.knot k).closed) then holdAt p
        else if !storesDrained lanes || countersFull lanes form.load.isSome form.twr then holdAt p
        else after n lanes (forEach lanes (tieLane n k form) p))

/-- `tie` (06 R167). -/
def execTie (k : BitVec 4) (s : State) : Host.Outcome State Fault Refusal :=
  commit s (tieWord {} k.toNat { op := .tie } (fun _ _ => .ok) (fun _ _ => retire))

/-- `tiew`: as `tie`, then a wait for the phase (06 R167). -/
def execTiew (k : BitVec 4) (s : State) : Host.Outcome State Fault Refusal :=
  commit s (tieWord {} k.toNat { op := .tie } (fun _ _ => .ok) (fun n lanes =>
    waitKnot n k.toNat (lanes.map (fun l => l.k))))

/-! ### Knotted words -/

/-- A fibre word that names tiles: one at or beyond TILES is ILLEGAL_FIELD (09 R240). -/
def tileField (w : TileWord) (a : Act) : Act := fun p =>
  match p.now.issuing with
  | none => a p
  | some (_, st) =>
    match p.now.lanes st with
    | [] => p
    | l :: r =>
      if w.beyond l.x then trapWord { cause := .illegalField, mask := maskOf (l :: r) } p else a p

/-- The operation of a knotted tile word. -/
def TileWord.op (w : TileWord) : KnotOp := .tile w.minor w.flags w.td w.ta w.tb

/-- A knotted tile operation (09 R247 R248). -/
def knottedTile (w : TileWord) (k : Nat) : Act :=
  tileField w (tieWord {} k { op := w.op } (fun s l => tileCheck s l.f.sk l.x w) (fun _ _ => retire))

/-- `mma`, knotted (09 R250). -/
def execMmaKnotted (d a b k : BitVec 4) (sx c : BitVec 1) (s : State) : Host.Outcome State Fault Refusal :=
  commit s (knottedTile
    { minor := 0, flags := productFlags sx c, td := d.toNat, ta := a.toNat, tb := b.toNat } k.toNat)

/-- `mmz`, knotted (09 R252). -/
def execMmzKnotted (d a b k : BitVec 4) (sx c : BitVec 1) (s : State) : Host.Outcome State Fault Refusal :=
  commit s (knottedTile
    { minor := 1, flags := productFlags sx c, td := d.toNat, ta := a.toNat, tb := b.toNat } k.toNat)

/-- `ply`, knotted (11 R289). -/
def execPlyKnotted (d a b k : BitVec 4) (sx c : BitVec 1) (s : State) : Host.Outcome State Fault Refusal :=
  commit s (knottedTile
    { minor := 2, flags := productFlags sx c, td := d.toNat, ta := a.toNat, tb := b.toNat } k.toNat)

/-- `tld`, knotted (09 R255 R259). -/
def execTldKnotted (d k : BitVec 4) (w p c : BitVec 1) (s : State) : Host.Outcome State Fault Refusal :=
  commit s (knottedTile
    { minor := 3, flags := c.toNat + 2 * p.toNat + 4 * w.toNat, td := d.toNat } k.toNat)

/-- `tst`, knotted (09 R257). -/
def execTstKnotted (a k : BitVec 4) (n : BitVec 1) (v : BitVec 2) (s : State) :
    Host.Outcome State Fault Refusal :=
  commit s (knottedTile { minor := 4, flags := v.toNat + 4 * n.toNat, ta := a.toNat } k.toNat)

/-- `tzero`, knotted (09 R258). -/
def execTzeroKnotted (d k : BitVec 4) (s : State) : Host.Outcome State Fault Refusal :=
  commit s (knottedTile { minor := 5, flags := 0, td := d.toNat } k.toNat)

/-- `tscl`, knotted (09 R256). -/
def execTsclKnotted (d k : BitVec 4) (s : State) : Host.Outcome State Fault Refusal :=
  commit s (knottedTile { minor := 6, flags := 0, td := d.toNat } k.toNat)

/-- `tcvt`, knotted (09 R260). -/
def execTcvtKnotted (d a k : BitVec 4) (s : State) : Host.Outcome State Fault Refusal :=
  commit s (knottedTile { minor := 7, flags := 0, td := d.toNat, ta := a.toNat } k.toNat)

/-- `trd`: a load of each member that its slice answers (09 R261). -/
def execTrd (t : BitVec 4) (d : BitVec 7) (k : BitVec 4) (sl : BitVec 4) (s : State) :
    Host.Outcome State Fault Refusal :=
  let w : TileWord := { minor := 8, flags := 0, td := t.toNat }
  commit s (tileField w (tieWord { dst := [four d] } k.toNat
    { op := .trd t.toNat sl.toNat d.toNat, load := some (.b128, d.toNat) }
    (fun x l => tileCheck x l.f.sk l.x w) (fun _ _ => retire)))

/-- `twr`: the group is read at the tie (09 R261). -/
def execTwr (t : BitVec 4) (d : BitVec 7) (k : BitVec 4) (sl : BitVec 4) (s : State) :
    Host.Outcome State Fault Refusal :=
  let w : TileWord := { minor := 9, flags := 0, td := t.toNat }
  commit s (tileField w (tieWord { src := [four d] } k.toNat
    { op := .twr t.toNat sl.toNat d.toNat, twr := true,
      captured := fun l => (List.range 4).map (fun i => l.f.reg (d.toNat + i)) }
    (fun x l => tileCheck x l.f.sk l.x w) (fun _ _ => retire)))

/-- `tstat`, knotted: the status at the completion of the phase (09 R262). -/
def execTstatKnotted (t : BitVec 4) (d : BitVec 7) (k : BitVec 4) (c : BitVec 1) (s : State) :
    Host.Outcome State Fault Refusal :=
  let w : TileWord := { minor := 10, flags := c.toNat, td := t.toNat }
  commit s (tileField w (tieWord { dst := [two d] } k.toNat
    { op := .tstat t.toNat d.toNat (c == 1), load := some (.b64, d.toNat) }
    (fun x l => tileCheck x l.f.sk l.x w) (fun _ _ => retire)))

/-- A knotted word of the draft unit: its check and its tie (08 R233 R236 R237). -/
def draftTie (rg : Regs) (k : Nat) (w : DraftWord) (form : TieForm) : Act :=
  tieWord rg k form (fun _ l => match draftCheck l.x l.k w (0, 0) with
    | .fail d => .trap (draftTrap l d)
    | .wait => .wait
    | .ok => .ok) (fun _ _ => retire)

/-- `dload`: the tie captures the lane's start and length (08 R233). -/
def execDload (a : BitVec 7) (k : BitVec 4) (s : State) : Host.Outcome State Fault Refusal :=
  commit s (draftTie { src := [two a] } k.toNat .dload
    { op := .dload, captured := fun l => [l.f.reg a.toNat, l.f.reg (a.toNat + 1)] })

/-- `dend` (08 R236). -/
def execDend (k : BitVec 4) (s : State) : Host.Outcome State Fault Refusal :=
  commit s (draftTie {} k.toNat .dend { op := .dend })

/-! ### Plies (11 R286-R291) -/

/-- The cores of a plane, numbered over the package by die, quad and plane (11 R284). -/
def planeOf (plane : Nat) : List Nat := planeCores (plane / 2 * 32 + plane % 2 * 4)

/-- The oldest operation of a skein. -/
def Skein.oldest (x : Skein) : Option TileOp := x.tops.find? (fun o => !o.transfer)

/-- The ply of a launch at the head of a skein on a core, with the lowest number, and whether it has
begun. -/
def State.plyOn (s : State) (launch core : Nat) (begun : Bool) : Option (Nat × TileOp) :=
  (s.skeins.filterMap (fun e =>
    if e.2.launch = launch && e.2.core = core && (e.2.run == .resident || begun && e.2.onCore) then
      match e.2.oldest with
      | some o => if o.minor = 2 && o.begun == begun then some (e.1, o) else none
      | none => none
    else none)).foldl (fun m e => match m with
      | none => some e
      | some y => if e.2.ply.getD 0 < y.2.ply.getD 0 then some e else some y) none

/-- The sixteen paired plies of a plane, when all are at hand under one number. -/
def State.plySet (s : State) (launch plane : Nat) (begun : Bool) : Option (List (Nat × TileOp)) :=
  let l := (planeOf plane).filterMap (fun c => s.plyOn launch c begun)
  if l.length = 16 && allEqual (l.map (fun e => e.2.ply)) then some l else none

/-- The ply of a launch with the lowest number that a core offers: one that has issued and not begun (11 R286). -/
def State.plyOffer (s : State) (launch core : Nat) : Option TileOp :=
  (s.skeins.flatMap (fun e =>
    if e.2.launch = launch && e.2.core = core && e.2.run == .resident then
      e.2.tops.filter (fun o => !o.transfer && o.minor == 2 && !o.begun)
    else [])).foldl (fun m o => match m with
      | none => some o
      | some y => if o.ply.getD 0 < y.ply.getD 0 then some o else some y) none

/-- When the next set of a launch on a plane became complete, if it is: when the last of its sixteen was issued
(11 R286). -/
def State.plyOrder (s : State) (launch plane : Nat) : Option Nat :=
  let l := (planeOf plane).filterMap (s.plyOffer launch)
  if l.length = 16 && allEqual (l.map (fun o => o.ply)) then some (l.foldl (fun m o => max m o.seq) 0) else none

/-- The set of a launch is the next that a plane serves: no set of another launch became complete earlier
(11 R286). -/
def State.plyTurn (s : State) (launch plane : Nat) : Bool :=
  let own := (s.plyOrder launch plane).getD 0
  s.launches.all (fun e => e.1 == launch || (s.plyOrder e.1 plane).all (fun n => own ≤ n))

/-- What the members of a set have to agree on: path, formats, K, ACC and SCL (11 R286). -/
def State.plyKey (s : State) (e : Nat × TileOp) : Nat × Nat × Nat × Nat × Nat :=
  match tget s.skeins e.1 with
  | none => (0, 0, 0, 0, 0)
  | some x =>
    ((x.tile e.2.ta).shape.fmt, (x.tile e.2.tb).shape.fmt, (x.tile e.2.td).shape.fmt,
      (x.tile e.2.ta).shape.cols, e.2.flags)

/-- A ply has ended in a member: TL, and the phase of a knotted one (11 R289). -/
def endPly (e : Nat × TileOp) : Act := fun p =>
  let p := endTileOp e.1 e.2.id p
  match e.2.knot with
  | some k => pokeQueues e.1 (advancePhase e.1 k p)
  | none => p

/-- PLY_BEGIN: sixteen plies that agree begin, in the turn of their launch; plies that do not agree end, with ERR
(11 R286). -/
def execPlyBegin (launch plane : Nat) (s : State) : Host.Outcome State Fault Refusal :=
  commit s (fun p =>
    match p.now.plySet launch plane false with
    | none => p
    | some l =>
      if !p.now.plyTurn launch plane then p
      else if allEqual (l.map p.now.plyKey) then
        forEach l (fun e => modSkein e.1 (fun x => { x with tops := x.tops.map (fun o =>
          if o.id = e.2.id && !o.transfer then { o with begun := true } else o) })) p
      else
        forEach l (fun e q => endPly e (modTile e.1 e.2.td (fun t => t.fail 8 e.2.pc) q)) p)

/-- The sixteen operand tiles of a set in member order, as one list of rows (11 R287). -/
def State.plyRows (s : State) (l : List (Nat × TileOp)) (which : TileOp → Nat) : List OpRow :=
  l.flatMap (fun e => match tget s.skeins e.1 with
    | some x => (x.tile (which e.2)).opRows
    | none => [])

/-- The block of a member: 64 rows of A and 64 rows of B (11 R284 R287). -/
def plyBlock (q : Nat) (a b : List OpRow) : List OpRow × List OpRow :=
  ((a.drop (64 * (q % 2))).take 64, (b.drop (64 * (q / 2))).take 64)

/-- The destination of a member after the ply, from the operands of all sixteen. -/
def plyResult (s : State) (l : List (Nat × TileOp)) (q : Nat) (e : Nat × TileOp) (t : Tile) : Tile :=
  let dense := fun (r : OpRow) => { r with stored := none }
  let blk := plyBlock q ((s.plyRows l (fun o => o.ta)).map dense) ((s.plyRows l (fun o => o.tb)).map dense)
  match tget s.skeins e.1 with
  | none => t
  | some x =>
    match tilePath (x.tile e.2.ta).shape.fmt (x.tile e.2.tb).shape.fmt with
    | none => t
    | some path => t.product path none (bitOf e.2.flags 0) (bitOf e.2.flags 1) blk.1 blk.2 e.2.pc

/-- PLY_COMPLETE: every member's block is computed from the sixteen tiles as they stood (11 R287 R289). -/
def execPlyComplete (launch plane : Nat) (s : State) : Host.Outcome State Fault Refusal :=
  commit s (fun p =>
    match p.now.plySet launch plane true with
    | none => p
    | some l =>
      let p := forEach l.zipIdx (fun e => modTile e.1.1 e.1.2.td (plyResult s l e.2 e.1)) p
      forEach l endPly p)

/-- A tile whose elements are each the old or the new one, as the part chooses (11 R291; log 5). -/
def mixTiles (fresh : Nat) (old new : Tile) : Tile :=
  let es := old.shape.es
  old.setRows ((List.range old.shape.rows).map (fun r =>
    (r, ((old.elems old.shape r).zip (new.elems old.shape r)).zipIdx.flatMap (fun e =>
      bytesOf (if Config.flip (fresh + 64 * r + e.2) then e.1.2 else e.1.1) es))))

/-- The members of a ply that has begun, those still in service. -/
def State.begunPly (s : State) (launch plane : Nat) : List (Nat × TileOp) :=
  ((planeOf plane).filter s.coreInService).filterMap (fun c => s.plyOn launch c true)

/-- The members of a ply that has begun, with their places in the plane. -/
def State.plyMembers (s : State) (launch plane : Nat) : List (Nat × TileOp) :=
  (planeOf plane).filterMap (fun c => s.plyOn launch c true)

/-- A ply that has begun fails in every member still in service; it completes in all, and its failure is
reported to system software (11 R291; log 58). -/
def failPly (launch plane : Nat) : Act := fun p =>
  let s := p.now
  let all := s.plyMembers launch plane
  let p := bumpFresh p
  let p := forEach ((planeOf plane).zipIdx) (fun c q =>
    match s.plyOn launch c.1 true with
    | some e =>
      if s.coreInService c.1 then
        modTile e.1 e.2.td (fun t => (mixTiles s.fresh t (plyResult s all c.2 e t)).fail 10 e.2.pc) q
      else q
    | none => q) p
  forEach all endPly (actIf (!all.isEmpty) (send (.plyFailed launch plane)) p)

/-- PLY_FAIL (11 R291). -/
def execPlyFail (launch plane : Nat) (s : State) : Host.Outcome State Fault Refusal :=
  commit s (failPly launch plane)

end Sys2Proof.Machine
end

