-- ==== Sys2Proof/Machine/Barriers.lean ====
section
/-! DEFINITION. Barriers of the skein, cluster, die and package levels (06 R170 R171, 11 R281, 12 R297,
13 R328). -/

namespace Sys2Proof.Machine

open Sys2Proof

/-! ### Groups (06 R154) -/

/-- The values of the fields of a level and above, as one number: skeins of one group agree in it. -/
def groupKey (level : Nat) : List WidField → Nat → Nat
  | [], _ => 0
  | w :: r, si =>
    if w.level = 0 then groupKey level r si
    else if w.level < level then groupKey level r (si / w.extent)
    else si % w.extent + w.extent * groupKey level r (si / w.extent)

/-- Two skeins of one launch, by sr.skein, belong to one group of a barrier level. -/
def sameGroup (lr : LaunchRec) (level i j : Nat) : Bool :=
  if level = 0 then i == j else groupKey (level + 1) lr.wid i == groupKey (level + 1) lr.wid j

/-! ### Completion (06 R171) -/

/-- The arrival count of a fibre at a level (11 R281). -/
def Fibre.count (f : Fibre) (level : Nat) : Word := tgetD f.arrivals level 0

/-- Every participant has a count that passes a generation. Fibres of skeins of the group that have not
started have count 0 (13 R328; log 21). -/
def State.barrierDone (s : State) (sk level : Nat) (g : Word) : Bool :=
  match tget s.skeins sk with
  | none => true
  | some x =>
    let ks := s.skeins.filter (fun e => e.2.launch == x.launch && sameGroup x.lr level x.idx e.2.idx)
    let early := ks.any (fun e => match e.2.run with
      | .admitting _ => true
      | .held _ => true
      | _ => false)
    let l := tget s.launches x.launch
    let out := (l.map (fun y => y.waiting.any (sameGroup x.lr level x.idx))).getD false
    s.fibres.all (fun e => !ks.any (fun k => k.1 == e.2.sk) || serialPassed (e.2.count level) g) &&
      ((level = 0 || !(early || out)) || serialPassed 0 g)

/-- The scope of a level (06 R171). -/
def levelScope (level : Nat) : Nat := level

/-- The end of a wait is an acquire: above the core it drops the core's L1 copies (12 R297). -/
def acquireAt (core level : Nat) : Act := if 1 ≤ level then dropAllL1 core else id

/-- The fibres of a launch whose generation is complete go on (06 R171). -/
def wakeBarriers (launch : Nat) : Act := fun p =>
  forEach (p.now.skeins.filter (fun e => e.2.launch == launch)) (fun e q =>
    forEach (q.now.fibresOf e.1) (fun j r =>
      match tget r.now.fibres j with
      | none => r
      | some f =>
        match f.run with
        | .parked (.barrier level g) next =>
          if r.now.barrierDone e.1 level g then wakeFibre j e.1 next (acquireAt e.2.core level r) else r
        | _ => r) q) p

/-! ### The words (06 R170) -/

/-- The earlier stores of the lanes are performed at the scope of a level. -/
def arrivalReady (s : State) (lanes : List Lane) (level : Nat) : Bool :=
  storesDrained lanes &&
    (level = 0 || (lanes.all (fun l => l.f.stores.isEmpty) && s.flushed (coreOfLanes lanes) (levelScope level)))

/-- The lanes arrive: a release at the scope of the level. -/
def arrive (lanes : List Lane) (level : Nat) : Act :=
  forEach lanes (fun l p => raiseIvl (.fibre l.k) (levelScope level) (modFibre l.k (fun f =>
    { f with arrivals := tputD f.arrivals level 0 (f.count level + 1) }) p))

/-- The launches of some lanes. -/
def launchesOf (lanes : List Lane) : List Nat := lanes.foldl (fun m l => sadd m l.x.launch) []

/-- The lanes whose generation is not complete wait; the others acquire and go on. -/
def waitBarrier (n level : Nat) (gs : List (Lane × Word)) : Act := fun p =>
  let next := p.now.behind n
  let p := forEach (launchesOf (gs.map (fun e => e.1))) wakeBarriers p
  let waits := gs.filter (fun e => !p.now.barrierDone e.1.f.sk level e.2)
  let p := if waits.length < gs.length then acquireAt (coreOfLanes (gs.map (fun e => e.1))) level p else p
  retire (forEach waits (fun e => parkLanes n [e.1] (.barrier level e.2) next) p)

/-- `bar` (06 R171). -/
def barWord (level : Nat) : Act :=
  fibreWord {} anyone (fun n lanes p =>
    if arrivalReady p.now lanes level then
      waitBarrier n level (lanes.map (fun l => (l, l.f.count level))) (arrive lanes level p)
    else holdAt p)

/-- `barv`: it arrives and does not wait (06 R171). -/
def barvWord (level : Nat) (a : BitVec 7) : Act :=
  fibreWord { dst := [one a] } anyone (fun _ lanes p =>
    if arrivalReady p.now lanes level then
      let p := arrive lanes level (forEach lanes (fun l =>
        modFibre l.k (fun f => f.set a.toNat (l.f.count level))) p)
      retire (forEach (launchesOf lanes) wakeBarriers p)
    else holdAt p)

/-- `barw`: it waits for a generation (06 R171). -/
def barwWord (level : Nat) (a : BitVec 7) : Act :=
  fibreWord { src := [one a] } anyone (fun n lanes =>
    waitBarrier n level (lanes.map (fun l => (l, l.f.reg a.toNat))))

/-- `bar.skein` (06 R171). -/
def execBarSkein (s : State) : Host.Outcome State Fault Refusal := commit s (barWord 0)

/-- `barv.skein` (06 R171). -/
def execBarvSkein (a : BitVec 7) (s : State) : Host.Outcome State Fault Refusal := commit s (barvWord 0 a)

/-- `barw.skein` (06 R171). -/
def execBarwSkein (a : BitVec 7) (s : State) : Host.Outcome State Fault Refusal := commit s (barwWord 0 a)

/-- `bar.clus` (11 R281). -/
def execBarClus (s : State) : Host.Outcome State Fault Refusal := commit s (barWord 1)

/-- `barv.clus` (11 R281). -/
def execBarvClus (a : BitVec 7) (s : State) : Host.Outcome State Fault Refusal := commit s (barvWord 1 a)

/-- `barw.clus` (11 R281). -/
def execBarwClus (a : BitVec 7) (s : State) : Host.Outcome State Fault Refusal := commit s (barwWord 1 a)

/-- `bar.die` (12 R297). -/
def execBarDie (s : State) : Host.Outcome State Fault Refusal := commit s (barWord 2)

/-- `barv.die` (12 R297). -/
def execBarvDie (a : BitVec 7) (s : State) : Host.Outcome State Fault Refusal := commit s (barvWord 2 a)

/-- `barw.die` (12 R297). -/
def execBarwDie (a : BitVec 7) (s : State) : Host.Outcome State Fault Refusal := commit s (barwWord 2 a)

/-- `bar.pkg` (13 R328). -/
def execBarPkg (s : State) : Host.Outcome State Fault Refusal := commit s (barWord 3)

/-- `barv.pkg` (13 R328). -/
def execBarvPkg (a : BitVec 7) (s : State) : Host.Outcome State Fault Refusal := commit s (barvWord 3 a)

/-- `barw.pkg` (13 R328). -/
def execBarwPkg (a : BitVec 7) (s : State) : Host.Outcome State Fault Refusal := commit s (barwWord 3 a)

end Sys2Proof.Machine
end

