-- ==== Sys2Proof/Machine/Regions.lean ====
section
/-! DEFINITION. Writeback of mapping windows, kept and nameless regions, and their reclaim
(07 R187-R190, 12 R310). -/

namespace Sys2Proof.Machine

open Sys2Proof

/-! ### Writeback with its faults (07 R187) -/

/-- A writeback has an open or waiting fault already. -/
def Die.hasStopper (d : Die) (a : Agent) : Bool :=
  d.waits.any (fun w => w.agent == a) || d.opened.any (fun o => o.stoppers.contains a)

/-- The fault of a writeback is reported to system software with SRC 4 (07 R187, 12 R310). -/
def reportWriteback (map : Nat) (m : Mapping) (va : Nat) (c : WalkCause) : Act := fun p =>
  let die := m.core / 64
  if (p.now.die die).hasStopper (.writeback map) then p
  else meetFault die
    { ctx := m.ctx, va := va, cause := c, src := 4, write := true, core := m.core % 64, chan := 0,
      agent := .writeback map, tr := {}, pos := posAt 0 } p

/-- The dirty bytes of a mapping are written back; those whose page does not translate stay dirty, and
the first of them is reported. -/
def writeBackMap (map : Nat) : Act := fun p =>
  match tget p.now.maps map with
  | none => p
  | some m =>
    let p := forEach m.dirty (writeBackByte map) p
    match tget p.now.maps map with
    | none => p
    | some n =>
      match n.dirty with
      | [] => p
      | o :: _ =>
        match p.now.backPa false map n o with
        | .error c => reportWriteback map n (n.va o) c p
        | .ok _ => p

/-- A mapping has no dirty byte. -/
def State.clean (s : State) (map : Nat) : Bool := ((tget s.maps map).map (fun m => m.dirty.isEmpty)).getD true

/-- Every registration of a mapping is released. -/
def releaseMap (map : Nat) : Act := fun p =>
  forEach (p.now.regs.filter (fun e => e.2.map == map)) (fun e q => q.emit (.regEnd e.1)) p

/-! ### Regions (07 R188 R189) -/

/-- A clean region is gone. -/
def dropRegion (map : Nat) : Act := fun p =>
  match tget p.now.maps map with
  | none => p
  | some m =>
    modCore m.core (fun c => { c with regions := c.regions.filter (fun k => k != map) })
      ((releaseMap map p).emit (.mapEnd map))

/-- A region is reclaimed: written back, its registrations released. One whose writeback met a fault goes
when that is done (07 R187 R189). -/
def reclaimRegion (map : Nat) : Act := fun p =>
  let p := writeBackMap map p
  if p.now.clean map then dropRegion map p
  else modMap map (fun m => { m with closing := true }) p

/-- The kept region of a context and key on a core (07 R188). -/
def State.keptRegion (s : State) (core ctx key : Nat) : Option (Nat × Mapping) :=
  if key = 0 then none
  else ((s.core core).regions.filterMap (fun k => (tget s.maps k).map (fun m => (k, m)))).find?
    (fun e => e.2.ctx == ctx && e.2.desc.key == key && !e.2.closing)

/-- A region of a context and key stands on a core, reclaimed or not. -/
def State.keyTaken (s : State) (core ctx key : Nat) : Option Nat :=
  if key = 0 then none
  else (s.core core).regions.find? (fun k =>
    ((tget s.maps k).map (fun m => m.ctx == ctx && m.desc.key == key)).getD false)

/-- The mappings of an ending skein have room as regions: the older ones of their keys are gone, and with them
the core holds at most 64 (07 R188 R189). -/
def State.regionsReady (s : State) (x : Skein) : Bool :=
  let ms := (x.mappings s).map (fun e => e.2)
  ms.all (fun m => (s.keyTaken x.core m.ctx m.desc.key).isNone) &&
    decide ((s.core x.core).regions.length + ms.length ≤ 64)

/-- The oldest regions of a core are reclaimed until `k` more have room; one whose writeback meets a fault holds
the others up (07 R187 R189). -/
def roomForRegions (core k : Nat) : Nat → Act
  | 0, p => p
  | n + 1, p =>
    match (p.now.core core).regions with
    | [] => p
    | r :: l =>
      if l.length + 1 + k ≤ 64 then p
      else
        let q := reclaimRegion r p
        if (q.now.core core).regions.contains r then q else roomForRegions core k n q

/-- The regions that the mappings of an ending skein displace are reclaimed. -/
def clearRegions (x : Skein) : Act := fun p =>
  let ms := (x.mappings p.now).map (fun e => e.2)
  let p := forEach ms (fun m q => match q.now.keyTaken x.core m.ctx m.desc.key with
    | some k => reclaimRegion k q
    | none => q) p
  roomForRegions x.core ms.length 65 p

/-- A mapping becomes a region of its core; an older region of its key goes first, and a 65th region
makes the oldest go (07 R188 R189). -/
def formRegion (map : Nat) : Act := fun p =>
  match tget p.now.maps map with
  | none => p
  | some m =>
    let p := match p.now.keptRegion m.core m.ctx m.desc.key with
      | some e => reclaimRegion e.1 p
      | none => p
    let p := modCore m.core (fun c => { c with regions := c.regions ++ [map] }) p
    match (p.now.core m.core).regions with
    | k :: r => if 64 ≤ r.length then reclaimRegion k p else p
    | [] => p

/-- The parts of a descriptor that have to agree for a region to be found again (07 R188). -/
def MapDesc.sameShape (a b : MapDesc) : Bool :=
  a.offset == b.offset && a.stride == b.stride && a.foff == b.foff && a.flen == b.flen &&
    a.count == b.count && a.mode == b.mode

/-- A region goes into a slot of a skein at a window base (07 R188). -/
def placeRegion (sk slot map sbase bind : Nat) : Act := fun p =>
  match tget p.now.maps map with
  | none => p
  | some m =>
    let p := modCore m.core (fun c => { c with regions := c.regions.filter (fun k => k != map) }) p
    let p := modMap map (fun y =>
      { y with
        desc := { y.desc with sbase := sbase, bind := bind }
        found := true }) p
    modSkein sk (fun x => { x with slots := tput x.slots slot map }) p

end Sys2Proof.Machine
end

