-- ==== Sys2Proof/Machine/Ending.lean ====
section
/-! DEFINITION. `exit` and `exit.relay`, the end of a fibre, of a skein and of a launch (04 R106-R110,
07 R188, 11 R276, 13 R331). -/

namespace Sys2Proof.Machine

open Sys2Proof

/-! ### The end of a fibre (04 R108) -/

/-- A bin without a fibre. -/
def Bin.without (k : Nat) (b : Bin) : Bin := { b with fibs := b.fibs.filter (fun e => e.1 != k) }

/-- A fibre leaves the bins of its core; an emptied bin is freed. -/
def leaveBins (core k : Nat) : Act := modCore core (fun c =>
  let bins := (c.bins.map (Bin.without k)).filter (fun b => !b.fibs.isEmpty)
  { c with
    bins := bins
    unfiled := c.unfiled.filter (fun i => i != k) })

/-- A fibre leaves wherever it stands between its words. -/
def leaveRun (k : Nat) : Act := fun p =>
  match tget p.now.fibres k with
  | none => p
  | some f =>
    match f.run with
    | .strand n => leaveStrand n [k] p
    | .filed =>
      match tget p.now.skeins f.sk with
      | some x => leaveBins x.core k p
      | none => p
    | _ => p

/-- A fault that a unit waits for is no longer its own. -/
def dropWait (die : Nat) (a : Agent) : Act := fun p =>
  if (p.now.die die).hasStopper a then
    modDie die (fun d => { d with
      waits := d.waits.filter (fun w => w.agent != a)
      opened := d.opened.map (fun o => { o with stoppers := o.stoppers.filter (fun b => b != a) }) }) p
  else p

/-- A fibre ceases to be live: it leaves its strand, its draft set, the decision cursors, the gatherings
and the barriers (04 R108, 06 R171, 08 R236). -/
def endFibre (k : Nat) : Act := fun p =>
  match tget p.now.fibres k with
  | none => p
  | some f =>
    let p := leaveDraft f.sk k (leaveRun k p)
    let p := p.emit (.fibreEnd k)
    let p := regather f.sk (freeDecisions f.sk p)
    match tget p.now.skeins f.sk with
    | some x => wakeBarriers x.launch (dropWait (x.core / 64) (.ctx (.fibre k)) p)
    | none => p

/-! ### The end of a skein and of a launch (04 R110, 13 R331) -/

/-- The MSI-X vectors of a queue: that of function 0, and those of the TDIs it is assigned to (16 R382). -/
def raiseQueue (n : Nat) : Act := fun p =>
  if (p.now.queue n).qirq then
    let p := raiseVec 0 (64 + n) p
    forEach p.now.tdis (fun e q => match e.2.queues.findIdx? (fun i => i == n) with
      | some i => raiseVec e.1 (i + 1) q
      | none => q) p
  else p

/-- A launch without a skein left completes: LDONE rises and INFLIGHT falls (13 R331). -/
def finishLaunch (k : Nat) : Act := fun p =>
  match tget p.now.launches k with
  | none => p
  | some l =>
    if !l.waiting.isEmpty || p.now.skeins.any (fun e => e.2.launch == k) then p
    else
      let p := modQueue l.queue (fun q => { q with ldone := q.ldone + 1 }) p
      let p := modRest (fun s => { s with inflight := s.inflight - 1 }) p
      raiseQueue l.queue (p.emit (.launchEnd k))

/-- Every agent of a skein but its fibres leaves the fault queues. -/
def dropSkeinWaits (sk : Nat) (x : Skein) : Act := fun p =>
  let die := x.core / 64
  let p := dropWait die (.ctx (.front sk)) (dropWait die (.tileOp sk) (dropWait die (.admission sk) p))
  forEach (List.range 8) (fun c => dropWait die (.chan sk c)) p

/-- The pool allocation of a cluster group without a skein left is gone (11 R276). -/
def dropPool (launch cgrp : Nat) : Act := fun p =>
  if p.now.skeins.any (fun e => e.2.launch == launch && e.2.cgrp == cgrp) then p
  else forEach (p.now.pools.filter (fun e => e.2.launch == launch && e.2.cgrp == cgrp))
    (fun e q => q.emit (.poolEnd e.1)) p

/-- A skein ends: its mappings become regions, and its resources return to the core (04 R110, 07 R188). -/
def endSkein (sk : Nat) : Act := fun p =>
  match tget p.now.skeins sk with
  | none => p
  | some x =>
    let p := forEach (x.slots.map (fun e => e.2)) formRegion p
    let p := (dropSkeinWaits sk x p).emit (.skeinEnd sk)
    finishLaunch x.launch (wakeBarriers x.launch (dropPool x.launch x.cgrp p))

/-- A skein may end: its front context and every fibre have ended, CP and TL are 0, and all it stored is
performed (04 R110, 13 R331). -/
def Skein.finished (x : Skein) (s : State) (sk : Nat) : Bool :=
  x.run == .resident && x.front.run == .ended && (s.fibresOf sk).isEmpty && x.cpq.isEmpty &&
    x.tlq.isEmpty && x.front.stores.isEmpty && s.flushed x.core 5

/-- A skein ends once the regions that its mappings displace are gone (07 R188 R189). -/
def endSkeinHere (sk : Nat) (x : Skein) : Act := fun p =>
  let p := clearRegions x p
  if p.now.regionsReady x then endSkein sk p else p

/-- SKEIN_END (04 R110). -/
def execSkeinEnd (sk : Nat) (s : State) : Host.Outcome State Fault Refusal :=
  commit s (fun p =>
    match tget p.now.skeins sk with
    | some x => if x.finished p.now sk then endSkeinHere sk x p else p
    | none => p)

/-! ### exit (04 R106-R108) -/

/-- The trap of the members of an open draft set that have iterations left (08 R236). -/
def draftExitTrap (lanes : List Lane) : Option Trap :=
  worstTrap ((lanes.filter (fun l => draftLeaveFails l.x l.k)).map (fun l => draftTrap l 9))

/-- What the counter add of an exit asks (04 R108). -/
def counterAsk (n : Nat) (l : Lane) : Ask :=
  { agent := .who (.strand n), core := l.x.core, slot := l.x.slot, lr := l.x.lr, ident := l.f.ident,
    mtc := bitOf l.x.ctl.toNat 23, b := l.x.lr.cbind, off := l.x.lr.coff, n := 8, rd := true, wr := true,
    at_ := true, cache := 0, scope := l.x.lr.cscope, aop := some 1 }

/-- The counter add may be performed: everything before it is, at its scope (04 R108). -/
def counterReady (s : State) (l : Lane) (a : Access) : Bool :=
  s.flushed l.x.core l.x.lr.cscope &&
    (a.remote.isSome || !isPackage a.pa || s.atomicOpen l.x.core a)

/-- A fibre adds 1 to the completion counter (04 R108). -/
def addCounter (l : Lane) (a : Access) : Act :=
  performAtomic (.fibre l.k) l.x.core
    { id := l.f.nextId, group := 0, kind := .atom a 1 a.scope 0 none, data := bytesOf 1 8 } a 1 0 none

/-- A completion counter applies at exit (04 R107). -/
def LaunchRec.counts (r : LaunchRec) : Bool := !r.relayMode || r.cvalid

/-- The fibres of a strand end. -/
def endLanes (n : Nat) (lanes : List Lane) : Act := fun p =>
  forEach lanes (fun l => endFibre l.k) (kickStrand n p)

/-- `exit`: a fibre ends; a front context ends without waiting (04 R106-R108 R110). -/
def execExit (s : State) : Host.Outcome State Fault Refusal :=
  commit s (bothWord
    (fibreWord {} anyone (fun n lanes p =>
      match draftExitTrap lanes with
      | some t => trapWord t p
      | none =>
        if lanes.any (fun l => l.f.st != 0) then hold p
        else if lanes.all (fun l => l.x.lr.counts) then
          settle n (coreOfLanes lanes) false
            (lanes.map (fun l => (l, p.now.checkAccess (counterAsk n l))))
            (fun ok p =>
              if ok.all (fun e => counterReady p.now e.1 e.2) then
                endLanes n lanes (forEach ok (fun e q =>
                  addCounter e.1 e.2 (logRace (counterAsk n e.1) e.2 (useEntry (counterAsk n e.1) q))) p)
              else hold p) p
        else endLanes n lanes p))
    (frontWord [] anyone (fun k _ p =>
      retire (modFront k (fun f => { f with run := .ended }) p))))

/-! ### exit.relay (04 R107 R109) -/

/-- A fibre restarted by a relay entry (04 R109). -/
def Fibre.relayed (f : Fibre) (e : RelayEntry) : Fibre :=
  { f with
    v := f.v.filter (fun r => e.keep.getLsbD r.1)
    p := 1
    m := []
    dtag := 0
    loads := f.loads.map (fun l => { l with abandoned := true }) }

/-- The fibres of a strand restart at a relay entry, each filed there. -/
def relayLanes (n : Nat) (lanes : List Lane) (e : RelayEntry) : Act := fun p =>
  let p := forEach lanes (fun l q => leaveDraft l.f.sk l.k (modFibre l.k (fun f => f.relayed e) q))
    (kickStrand n p)
  refile n (lanes.map (fun l => (l.k, posTo (BitVec.ofNat 51 e.entry)))) p

/-- `exit.relay` (04 R107 R109). -/
def execExitRelay (e : BitVec 8) (s : State) : Host.Outcome State Fault Refusal :=
  commit s (fibreWord {} anyone (fun n lanes p =>
    let mode := lanes.all (fun l => l.x.lr.relayMode)
    let entry := (lanes.head?.bind (fun l => l.x.lr.relay[e.toNat]?))
    match entry with
    | none =>
      trapWord { cause := .exitMode, detail := if mode then 1 else 0, mask := maskOf lanes } p
    | some r =>
      if !mode then trapWord { cause := .exitMode, mask := maskOf lanes } p
      else
        match draftExitTrap lanes with
        | some t => trapWord t p
        | none => if lanes.any (fun l => l.f.st != 0) then hold p else relayLanes n lanes r p))

end Sys2Proof.Machine
end

