-- ==== Sys2Proof/Machine/Queues.lean ====
section
/-! DEFINITION. The words of the bobbin queues (08 R212-R215). -/

namespace Sys2Proof.Machine

open Sys2Proof

/-! ### Fibre words -/

/-- What a fibre word does at its queue. -/
inductive QueueForm where
  | pass (op : QueueOp)
  | allow
  deriving DecidableEq, Repr

/-- A push releases the earlier stores of its fibre. -/
def QueueForm.pushes : QueueForm → Bool
  | .pass .push => true
  | .pass .hpush => true
  | _ => false

/-- A pop writes its register; the other forms read it. -/
def QueueForm.regs (w : QueueForm) (v : BitVec 7) : Regs :=
  match w with
  | .pass .pop => { dst := [one v] }
  | .pass .hpop => { dst := [one v] }
  | _ => { src := [one v] }

/-- The check of a lane before any acts: the detail of the first that fails (08 R215). -/
def queueDetail (l : Lane) (q : Nat) (w : QueueForm) (v : Word) : Option Nat :=
  if l.x.lr.queues ≤ q then some 1
  else if !(l.x.queue q).init then some 2
  else if w == .pass .hpush && l.x.lr.tiles ≤ v.toNat % 16 then some 5
  else if w == .allow && (l.x.queue q).depth < v.toNat then some 6
  else none

/-- A lane begins to wait at a queue, in the order of its skein. -/
def parkAtQueue (n q : Nat) (op : QueueOp) (reg : Nat) (l : Lane) (next : Pos) : Act := fun p =>
  match tget p.now.skeins l.f.sk with
  | none => p
  | some x =>
    parkLanes n [{ l with x := x }] (.queue q op reg x.nextId) next
      (modSkein l.f.sk (fun y => { y with nextId := y.nextId + 1 }) p)

/-- The lanes of a queue word act one at a time; the answer names the fibre that a `qhpop` of a bad head
stops (08 R214 R215). -/
def queueLanes (n q reg : Nat) (w : QueueForm) (own : List Nat) (next : Pos) :
    List Lane → Plan → Option Nat × Plan
  | [], p => (none, p)
  | l :: r, p =>
    match tget p.now.skeins l.f.sk with
    | none => queueLanes n q reg w own next r p
    | some x =>
      let act : Option Nat × Plan := match w with
        | .allow =>
          serveQueue l.f.sk q own p.now.fibres.length
            (modBQueue l.f.sk q (fun y => { y with allow := (l.f.reg reg).toNat }) p)
        | .pass op =>
          if !x.queueOpen q op (l.f.reg reg) then (none, parkAtQueue n q op reg l next p)
          else if p.now.headBad l.f.sk x q op then (some l.k, p)
          else serveQueue l.f.sk q own p.now.fibres.length (queueEffect l.f.sk x.core q op reg l.k p)
      match act with
      | (some k, u) => (some k, u)
      | (none, u) => queueLanes n q reg w own next r u

/-- A queue word of a fibre. -/
def queueWord (w : QueueForm) (v : BitVec 7) (q : Nat) : Act :=
  fibreWord (w.regs v) anyone (fun n lanes p =>
    let bad := lanes.filterMap (fun l => (queueDetail l q w (l.f.reg v.toNat)).map (fun d =>
      ({ cause := .queue, detail := d, mask := l.bit } : Trap)))
    match worstTrap bad with
    | some t => trapWord t p
    | none =>
      if w.pushes && !storesDrained lanes then holdAt p
      else
        match queueLanes n q v.toNat w (lanes.map (fun l => l.k)) (p.now.behind n) lanes p with
        | (some k, _) => trapWord { cause := .queue, detail := 5, mask := laneBit (p.now.laneOf k) } p
        | (none, u) => retire u)

/-- `qpush` (08 R214). -/
def execQpush (v : BitVec 7) (q : BitVec 4) (s : State) : Host.Outcome State Fault Refusal :=
  commit s (queueWord (.pass .push) v q.toNat)

/-- `qpop` (08 R214). -/
def execQpop (v : BitVec 7) (q : BitVec 4) (s : State) : Host.Outcome State Fault Refusal :=
  commit s (queueWord (.pass .pop) v q.toNat)

/-- `qhpush` (08 R214). -/
def execQhpush (v : BitVec 7) (q : BitVec 4) (s : State) : Host.Outcome State Fault Refusal :=
  commit s (queueWord (.pass .hpush) v q.toNat)

/-- `qhpop` (08 R214). -/
def execQhpop (v : BitVec 7) (q : BitVec 4) (s : State) : Host.Outcome State Fault Refusal :=
  commit s (queueWord (.pass .hpop) v q.toNat)

/-- `qallow` (08 R214). -/
def execQallow (v : BitVec 7) (q : BitVec 4) (s : State) : Host.Outcome State Fault Refusal :=
  commit s (queueWord .allow v q.toNat)

/-! ### qinit (08 R213 R215) -/

/-- The queue that a descriptor makes. -/
def queueOf (d : Nat) : BQueue :=
  { init := true, base := bitsOf d 19 0, depth := bitsOf d 44 32, allow := bitsOf d 60 48 }

/-- A fibre waits at a queue, or waited there when its skein was halted. -/
def Run.atQueue (r : Run) (q : Nat) : Bool :=
  match r with
  | .parked (.queue i _ _ _) _ => i == q
  | .halted (some (.queue i _ _ _, _)) => i == q
  | .saved (some (.queue i _ _ _, _)) => i == q
  | _ => false

/-- A fibre waits at a queue, or is to wait there again (04 R127). -/
def Fibre.atQueue (f : Fibre) (q : Nat) : Bool :=
  f.run.atQueue q || match f.rejoin with
    | some { wait := .queue i _ _ _, .. } => i == q
    | _ => false

/-- Two half-open ranges of a stash meet. -/
def rangesMeet (a b c d : Nat) : Bool := a < d && c < b

/-- The descriptor is refused (08 R215). -/
def State.queueRefused (s : State) (x : Skein) (d : Nat) : Bool :=
  let y := queueOf d
  bitsOf d 31 20 != 0 || bitsOf d 47 45 != 0 || bitsOf d 63 61 != 0 || y.depth == 0 || 4096 < y.depth ||
    y.depth < y.allow || y.base % 128 != 0 || x.lr.stash < y.top ||
    (x.mappings s).any (fun e => rangesMeet y.base y.top e.2.desc.sbase e.2.desc.top)

/-- `qinit` (08 R213 R215). -/
def execQinit (d : BitVec 6) (q : BitVec 4) (s : State) : Host.Outcome State Fault Refusal :=
  commit s (frontWord [d.toNat] anyone (fun k x p =>
    let w := (x.front.reg d.toNat).toNat
    let fail := fun (e : Nat) => trapWord { cause := .queue, detail := e } p
    if x.lr.queues ≤ q.toNat then fail 1
    else if p.now.fibres.any (fun e => e.2.sk == k && e.2.atQueue q.toNat) then fail 3
    else if p.now.queueRefused x w then fail 4
    else retire (modBQueue k q.toNat (fun _ => queueOf w) p)))

end Sys2Proof.Machine
end

