-- ==== Sys2Proof/Machine/FrontWords.lean ====
section
/-! DEFINITION. The scalar words, branches and memory words of a front context, and `dqpush`
(08 R206-R211, 06 R162 R163). -/

namespace Sys2Proof.Machine

open Sys2Proof

/-! ### Scalar words (08 R206) -/

/-- A word of two s registers that writes a third. -/
def frontBinary (d a b : BitVec 6) (g : DWord → DWord → DWord) : Act :=
  frontAct [a.toNat, b.toNat] (fun _ f => f.set d.toNat (g (f.reg a.toNat) (f.reg b.toNat)))

/-- `add` of a front context (08 R206). -/
def execFrontAdd (d a b : BitVec 6) (s : State) : Host.Outcome State Fault Refusal :=
  commit s (frontBinary d a b (fun x y => x + y))

/-- `sub` of a front context (08 R206). -/
def execFrontSub (d a b : BitVec 6) (s : State) : Host.Outcome State Fault Refusal :=
  commit s (frontBinary d a b (fun x y => x - y))

/-- `mul` of a front context (08 R206). -/
def execFrontMul (d a b : BitVec 6) (s : State) : Host.Outcome State Fault Refusal :=
  commit s (frontBinary d a b (fun x y => x * y))

/-- `and` of a front context (08 R206). -/
def execFrontAnd (d a b : BitVec 6) (s : State) : Host.Outcome State Fault Refusal :=
  commit s (frontBinary d a b (fun x y => x &&& y))

/-- `or` of a front context (08 R206). -/
def execFrontOr (d a b : BitVec 6) (s : State) : Host.Outcome State Fault Refusal :=
  commit s (frontBinary d a b (fun x y => x ||| y))

/-- `xor` of a front context (08 R206). -/
def execFrontXor (d a b : BitVec 6) (s : State) : Host.Outcome State Fault Refusal :=
  commit s (frontBinary d a b (fun x y => x ^^^ y))

/-- `shl` of a front context: the count is bits [5:0] (08 R206). -/
def execFrontShl (d a b : BitVec 6) (s : State) : Host.Outcome State Fault Refusal :=
  commit s (frontBinary d a b (fun x y => x <<< (y.toNat % 64)))

/-- `shr` of a front context (08 R206). -/
def execFrontShr (d a b : BitVec 6) (s : State) : Host.Outcome State Fault Refusal :=
  commit s (frontBinary d a b (fun x y => x >>> (y.toNat % 64)))

/-- `sra` of a front context (08 R206). -/
def execFrontSra (d a b : BitVec 6) (s : State) : Host.Outcome State Fault Refusal :=
  commit s (frontBinary d a b (fun x y => x.sshiftRight (y.toNat % 64)))

/-- `min` of a front context (08 R206). -/
def execFrontMin (d a b : BitVec 6) (s : State) : Host.Outcome State Fault Refusal :=
  commit s (frontBinary d a b (fun x y => if x.toInt ≤ y.toInt then x else y))

/-- `max` of a front context (08 R206). -/
def execFrontMax (d a b : BitVec 6) (s : State) : Host.Outcome State Fault Refusal :=
  commit s (frontBinary d a b (fun x y => if x.toInt ≤ y.toInt then y else x))

/-- `mov` of a front context (08 R206). -/
def execFrontMov (d a : BitVec 6) (s : State) : Host.Outcome State Fault Refusal :=
  commit s (frontAct [a.toNat] (fun _ f => f.set d.toNat (f.reg a.toNat)))

/-- The conditions of `cmps` (08 R207). -/
def frontCond (c : Nat) (x : Int) : Bool :=
  match c with
  | 0 => x == 0
  | 1 => x != 0
  | 2 => x < 0
  | 3 => x ≤ 0
  | 4 => 0 < x
  | _ => 0 ≤ x

/-- `cmps` (08 R207). -/
def execCmps (q : BitVec 3) (a c : BitVec 6) (s : State) : Host.Outcome State Fault Refusal :=
  commit s (frontAct [a.toNat] (fun _ f =>
    f.setPred q.toNat (frontCond c.toNat (f.reg a.toNat).toInt)))

/-- `movsi` (08 R208). -/
def execMovsi (d : BitVec 6) (i : BitVec 17) (s : State) : Host.Outcome State Fault Refusal :=
  commit s (frontAct [] (fun _ f => f.set d.toNat (i.signExtend 64)))

/-- `addsi` (08 R208). -/
def execAddsi (d : BitVec 6) (i : BitVec 17) (s : State) : Host.Outcome State Fault Refusal :=
  commit s (frontAct [d.toNat] (fun _ f => f.set d.toNat (f.reg d.toNat + i.signExtend 64)))

/-- `shlor` (08 R208). -/
def execShlor (d : BitVec 6) (i : BitVec 17) (s : State) : Host.Outcome State Fault Refusal :=
  commit s (frontAct [d.toNat] (fun _ f =>
    f.set d.toNat ((f.reg d.toNat <<< 17) ||| i.zeroExtend 64)))

/-- `cmpi.eq` (08 R208). -/
def execCmpiEq (d : BitVec 6) (q : BitVec 3) (i : BitVec 14) (s : State) :
    Host.Outcome State Fault Refusal :=
  commit s (frontAct [d.toNat] (fun _ f => f.setPred q.toNat (f.reg d.toNat == i.signExtend 64)))

/-- `cmpi.lt` (08 R208). -/
def execCmpiLt (d : BitVec 6) (q : BitVec 3) (i : BitVec 14) (s : State) :
    Host.Outcome State Fault Refusal :=
  commit s (frontAct [d.toNat] (fun _ f => f.setPred q.toNat ((f.reg d.toNat).toInt < i.toInt)))

/-- `cmpi.ltn` (08 R208). -/
def execCmpiLtn (d : BitVec 6) (q : BitVec 3) (i : BitVec 14) (s : State) :
    Host.Outcome State Fault Refusal :=
  commit s (frontAct [d.toNat] (fun _ f => f.setPred q.toNat ((f.reg d.toNat).toNat < i.toNat)))

/-! ### Branches (08 R209) -/

/-- The fall-through address of a front context's clause (04 R99). -/
def Front.fall (f : Front) : VAddr :=
  match f.clause with
  | some c => c.fall
  | none => f.pos.pc + 4

/-- The context goes on at a place. -/
def frontGo (k : Nat) (a : Pos) : Act := modSkein k (fun x =>
  { x with
    dog := 0
    front := { x.front with
      pos := a
      clause := none } })

/-- A branch word of a front context: its guard is tested first (08 R209). -/
def frontBranch (src : List Nat) (q : BitVec 3) (n : BitVec 1) (taken : Nat → Skein → Act) : Act :=
  frontWord src anyone (fun k x p =>
    if x.front.pred q.toNat != (n != 0) then taken k x p else frontGo k (posAt x.front.fall) p)

/-- A direct target of a front branch. -/
def Front.target (f : Front) (o : BitVec 20) : VAddr := f.pos.hdr + BitVec.ofInt 51 (4 * o.toInt)

/-- The context goes to an indirect target, once it passes its checks (04 R97). -/
def frontIndirect (k : Nat) (t : DWord) : Act :=
  match targetTrap t with
  | some u => trapWord u
  | none => frontGo k (posTo (t.setWidth 51))

/-- `fbra` (08 R209). -/
def execFbra (q : BitVec 3) (n : BitVec 1) (o : BitVec 20) (s : State) : Host.Outcome State Fault Refusal :=
  commit s (frontBranch [] q n (fun k x => frontGo k (posTo (x.front.target o))))

/-- `fcall`: s63 takes the fall-through address (08 R209). -/
def execFcall (q : BitVec 3) (n : BitVec 1) (o : BitVec 20) (s : State) : Host.Outcome State Fault Refusal :=
  commit s (frontBranch [] q n (fun k x p =>
    frontGo k (posTo (x.front.target o)) (modFront k (fun f => f.set 63 (x.front.fall.zeroExtend 64)) p)))

/-- `fret` (08 R209). -/
def execFret (q : BitVec 3) (n : BitVec 1) (s : State) : Host.Outcome State Fault Refusal :=
  commit s (frontBranch [63] q n (fun k x => frontIndirect k (x.front.reg 63)))

/-- `fjmpr` (08 R209). -/
def execFjmpr (q : BitVec 3) (n : BitVec 1) (a : BitVec 6) (s : State) : Host.Outcome State Fault Refusal :=
  commit s (frontBranch [a.toNat] q n (fun k x => frontIndirect k (x.front.reg a.toNat)))

/-! ### Memory words (08 R210 R211) -/

/-- What an access of a front context asks: policy max(CEIL, 1) (08 R210). -/
def frontAsk (k : Nat) (x : Skein) (a : BitVec 6) (b i : BitVec 6) (size : Nat) (rd wr : Bool) : Ask :=
  { agent := .who (.front k), core := x.core, slot := x.slot, lr := x.lr, ident := x.front.ident,
    mtc := bitOf x.ctl.toNat 23, b := b.toNat,
    off := (x.front.reg a.toNat + BitVec.ofNat 64 (i.toNat * size)).toInt, n := size,
    rd := rd, wr := wr, at_ := false, cache := 1, scope := 7 }

/-- The check of a front context's access has given its result: the word waits for a walk, traps, or goes
on. -/
def settleFront (k core : Nat) (r : Except LaneFail Access) (go : Access → Act) : Act := fun p =>
  let agent : Agent := .who (.front k)
  match r with
  | .error (.needs l) => hold (forEach l (postNeed (core / 64) agent) p)
  | .error (.trap t) => trapWord t (dropWalks (core / 64) agent p)
  | .ok a => go a (dropWalks (core / 64) agent p)

/-- A load issues in a front context. -/
def issueFrontLoad (k : Nat) (img : Img) (dst : Nat) (src : LoadSrc) : Act := fun p =>
  modFront k (fun f =>
    { f with
      loads := killLoads dst 1 f.loads ++
        [{ id := f.nextId, img := img, dst := dst, n := 1, src := src, pc := f.pos.pc,
           word := p.now.cur.word }]
      nextId := f.nextId + 1 }) p

/-- A remote load of a front context: its word waits for the data, which may be dropped, lost or poisoned
(05 R148, 16 R390 R391). -/
def endFrontRemote (k : Nat) (y : Load) (a : Access) (r : RemoteState) : Act := fun p =>
  let drop := modFront k (fun f => { f with loads := f.loads.filter (fun l => !l.isRemote) })
  match r with
  | .waiting => p
  | .dropped => trapWord { cause := .rights, addr := a.va } (drop p)
  | .lost => trapWord { cause := .remotePartial, addr := a.va } (drop p)
  | .poisoned => trapWord { cause := .poison, addr := a.va } (drop p)
  | .arrived bytes => retire (modFront k (fun f =>
      f.set y.dst (BitVec.ofNat 64 (ofBytes (bytes.take y.img.bytes)))) (drop p))

/-- The remote request that a front context's word waits for. -/
def Front.awaited (f : Front) : Option (Load × Access × RemoteState) :=
  f.loads.findSome? (fun l => match l.src with
    | .remote a r => some (l, a, r)
    | _ => none)

/-- `ld.s64` and `ld.s32` (08 R210 R211). -/
def frontLoad (img : Img) (d a b i : BitVec 6) : Act :=
  frontWord [a.toNat] anyone (fun k x p =>
    match x.front.awaited with
    | some (y, u, r) => endFrontRemote k y u r p
    | none =>
      let ask := frontAsk k x a b i img.bytes true false
      settleFront k x.core (p.now.checkAccess ask) (fun u p =>
        let p := useEntry ask p
        match u.remote with
        | some dev =>
          if x.front.stores.isEmpty &&
              !p.now.remotes.any (fun e => e.2.dev == dev && e.2.use.isStore x.lr.ctx x.core) then
            issueFrontLoad k img d.toNat (.remote u .waiting)
              (sendRemote dev u.pa (.read img.bytes) (.load (.front k) x.front.nextId) p)
          else p
        | none => retire (logRace ask u (issueFrontLoad k img d.toNat (.mem u false) p))) p)

/-- `st.s64` and `st.s32` (08 R210 R211). -/
def frontStore (n : Nat) (d a b i : BitVec 6) : Act :=
  frontWord [a.toNat, d.toNat] anyone (fun k x p =>
    let ask := frontAsk k x a b i n false true
    settleFront k x.core (p.now.checkAccess ask) (fun u p =>
      let g := p.now.nextKey
      let p := bumpKey (useEntry ask p)
      let p := modFront k (fun f =>
        { f with
          stores := f.stores ++ [{ id := f.nextId, group := g, kind := .mem u none,
                                   data := bytesOf (f.reg d.toNat).toNat n }]
          nextId := f.nextId + 1 }) p
      retire (logRace ask u p)) p)

/-- `ld.s64` (08 R210). -/
def execLdS64 (d a b i : BitVec 6) (s : State) : Host.Outcome State Fault Refusal :=
  commit s (frontLoad .b64 d a b i)

/-- `st.s64` (08 R210). -/
def execStS64 (d a b i : BitVec 6) (s : State) : Host.Outcome State Fault Refusal :=
  commit s (frontStore 8 d a b i)

/-- `ld.s32` (08 R210). -/
def execLdS32 (d a b i : BitVec 6) (s : State) : Host.Outcome State Fault Refusal :=
  commit s (frontLoad .b32 d a b i)

/-- `st.s32` (08 R210). -/
def execStS32 (d a b i : BitVec 6) (s : State) : Host.Outcome State Fault Refusal :=
  commit s (frontStore 4 d a b i)

/-! ### dqpush (06 R163, 08 R207) -/

/-- The earlier loads and stores of a front context are performed at a scope. -/
def State.frontReleased (s : State) (x : Skein) (scope : Nat) : Bool :=
  x.front.stores.all (fun y => y.sent) &&
    (scope = 0 || (x.front.stores.isEmpty && s.flushed x.core scope))

/-- `dqpush`: it waits while 64 entries stand unfreed, and releases at core scope (08 R207). -/
def execDqpush (g : BitVec 7) (q : BitVec 3) (a : BitVec 6) (s : State) :
    Host.Outcome State Fault Refusal :=
  commit s (frontWord [a.toNat] anyone (fun k x p =>
    if 64 ≤ x.dq.length || !p.now.frontReleased x 0 then stallAt p
    else
      let e : Decision :=
        { tag := g, taken := x.front.pred q.toNat, value := (x.front.reg a.toNat).setWidth 32 }
      retire (freeDecisions k (raiseIvl (.front k) 0 (modSkein k (fun y => { y with dq := y.dq ++ [e] }) p)))))

end Sys2Proof.Machine
end

