-- ==== Sys2Proof/Machine/PlainRead.lean ====
section
/-! DEFINITION. Reads that go through a context's translation without naming a buffer (05 R134): by a front
context, which waits for walks and traps, and by the units of the package. -/

namespace Sys2Proof.Machine

open Sys2Proof

/-- A virtual range cut at page boundaries: (address, bytes) pairs. -/
def pagePieces (va : Nat) : Nat → Nat → List (Nat × Nat)
  | _, 0 => []
  | n, fuel + 1 =>
    if n = 0 then []
    else
      let k := min n (32768 - va % 32768)
      (va, k) :: pagePieces (va + k) (n - k) fuel

/-- The pages of a range, 2 + n / 32768 of them at most. -/
def piecesOf (va n : Nat) : List (Nat × Nat) := pagePieces va n (n / 32768 + 2)

/-- A read that names no buffer is tracked where its page is (05 R135). -/
def Xlat.plainTracked (x : Xlat) (va : Nat) : Bool := bitOf x.pte.toNat 5 && isPackage (x.pa va)

/-- A piece cannot be read now: one of its lines is held (15 R359 R362 R372). -/
def State.pieceHeld (s : State) (x : Xlat) (core va n : Nat) : Bool :=
  (linePieces (x.pa va) n).any (fun e =>
    s.readHeld core { unitAccess e.1 e.2 with tracked := x.plainTracked va })

/-- What the reads of the pieces of a range leave at their points of coherence (12 R302, 15 R363). -/
def notePieces (core ctx : Nat) (l : List (Nat × Nat)) : Act := forEach l (fun e p =>
  match p.now.xlateNow core ctx e.1 false none with
  | .error _ => p
  | .ok x =>
    if isPackage (x.pa e.1) then
      forEach (linePieces (x.pa e.1) e.2) (fun q =>
        performRead (core / 64) { unitAccess q.1 q.2 with ctx := ctx, tracked := x.plainTracked e.1 }) p
    else p)

/-- The bytes of a piece behind its translation: at the point of coherence for a tracked page; poisoned
bytes, and those of host memory whose completion returns an error, are free values (16 R383; log 22, log 40). -/
def State.plainBytes (s : State) (x : Xlat) (va n : Nat) : List Byte :=
  let pa := x.pa va
  let tracked := x.plainTracked va
  let bad := fun (a : Nat) => if tracked then s.poisonedAt a
    else s.memPoisoned a || (isHost a && Config.hostFails s.fresh)
  (List.range n).map (fun i =>
    if bad (pa + i) then Config.poisonByte (s.fresh + i)
    else if tracked then s.cohByte (pa + i)
    else s.byte (pa + i))

/-! ### By a front context -/

/-- How far a read of a front context has come; it waits for walks, or, with none listed, for lines that are
held. -/
inductive Fetched where
  | bytes (l : List Byte)
  | trap (t : Trap)
  | walks (l : List Need)

/-- The pieces of a range read one after another; the first page that fails decides. -/
def State.frontPieces (s : State) (agent : Agent) (core ctx : Nat) : List (Nat × Nat) → Fetched
  | [] => .bytes []
  | (va, n) :: r =>
    match s.translate agent core ctx va false none with
    | .missing => .walks [{ ctx := ctx, va := va, write := false, ilv := none }]
    | .fault c => .trap (walkTrap c va 0 0)
    | .page x =>
      if isRegister (x.pa va) then .trap { cause := .rights, addr := va }
      else if s.pieceHeld x core va n then .walks []
      else
        match s.frontPieces agent core ctx r with
        | .bytes l => .bytes (s.plainBytes x va n ++ l)
        | other => other

/-- A front context reads a range for a word: it waits for walks, or traps (05 R134). -/
def frontRead64 (k : Nat) (x : Skein) (va n : Nat) (go : List Byte → Act) : Act := fun p =>
  let agent : Agent := .who (.front k)
  let die := x.core / 64
  match p.now.frontPieces agent x.core x.lr.ctx (piecesOf va n) with
  | .walks l => forEach l (postWalk die agent) p
  | .trap t => trapWord t (dropWalks die agent p)
  | .bytes l => go l (bumpFresh (notePieces x.core x.lr.ctx (piecesOf va n) (dropWalks die agent p)))

/-! ### By a unit -/

/-- A range read by a unit within its step; none at a translation fault or a register frame
(05 R134, 12 R309; log 12). -/
def State.unitPieces (s : State) (core ctx : Nat) : List (Nat × Nat) → Option (List Byte)
  | [] => some []
  | (va, n) :: r =>
    match s.xlateNow core ctx va false none with
    | .error _ => none
    | .ok x =>
      if isRegister (x.pa va) then none
      else (s.unitPieces core ctx r).map (fun l => s.plainBytes x va n ++ l)

/-- A range read by a unit. -/
def State.unitRead (s : State) (core ctx va n : Nat) : Option (List Byte) :=
  s.unitPieces core ctx (piecesOf va n)

/-- The word at an address as memory holds it, for the trap record of a word that waits (16 R395, 08 R228;
log 22); 0 where it cannot be read. -/
def State.wordAt (s : State) (core ctx : Nat) (pc : VAddr) : Word :=
  BitVec.ofNat 32 (((s.unitRead core ctx pc.toNat 4).map ofBytes).getD 0)

/-- The A bits, the caches and the points of coherence after a unit's read. -/
def usedRange (core ctx va n : Nat) : Act := fun p =>
  notePieces core ctx (piecesOf va n) (forEach (piecesOf va n) (fun e => usedXlat core ctx e.1 false) p)

end Sys2Proof.Machine
end

