-- ==== Sys2Proof/Machine/MapWords.lean ====
section
/-! DEFINITION. Mapping descriptors, the set-up of a mapping, and the mapping words of a front context
(07 R180-R182 R187-R194). -/

namespace Sys2Proof.Machine

open Sys2Proof

/-! ### Descriptors (07 R180) -/

/-- The descriptor in 64 bytes. -/
def MapDesc.ofBits (e : Nat) : MapDesc :=
  { bind := bitsOf e 5 0, mode := bitsOf e 7 6, key := bitsOf e 63 32, offset := bitsOf e 127 64,
    stride := bitsOf e 159 128, foff := bitsOf e 191 160, flen := bitsOf e 223 192,
    count := bitsOf e 255 224, sbase := bitsOf e 287 256 }

/-- The descriptor is well formed. -/
def descOk (e : Nat) : Bool :=
  let d := MapDesc.ofBits e
  bitsOf e 31 8 == 0 && bitsOf e 511 288 == 0 && d.mode != 3 && d.sbase % 128 == 0 &&
    d.foff + d.flen ≤ d.stride && 1 ≤ d.flen && d.flen ≤ 524288 && 1 ≤ d.count

/-- A window of a size at a stash base fits: within STASH, beside the other windows and the rings of
initialised queues (07 R192). -/
def State.windowFits (s : State) (x : Skein) (base top : Nat) : Bool :=
  top ≤ x.lr.stash &&
    (x.mappings s).all (fun e => !rangesMeet base top e.2.desc.sbase e.2.desc.top) &&
    x.queues.all (fun e => !(e.2.init && rangesMeet base top e.2.base e.2.top))

/-- The rights that a mode needs (07 R192). -/
def Buf.mayMap (b : Buf) (mode : Nat) : Bool := (mode == 2 || b.rd) && (mode == 0 || b.wr)

/-- The buffer of a descriptor with its index, when it passes the check of status 0x13 (07 R192). -/
def State.mapBuffer (s : State) (core : Nat) (lr : LaunchRec) (d : MapDesc) : Option (Nat × Buf) :=
  match lr.binding d.bind with
  | none => none
  | some i =>
    match s.buf core lr.ctx i with
    | none => none
    | some b =>
      if b.owner == lr.ctx && b.mayMap d.mode &&
          d.offset + (d.count - 1) * d.stride + d.foff + d.flen ≤ b.len then some (i, b) else none

/-! ### Setting a mapping up (07 R188 R192) -/

/-- A new mapping in a slot, every line unfilled. -/
def newMapping (sk slot core ctx : Nat) (d : MapDesc) (i : Nat) (b : Buf) : Act := fun p =>
  let n := p.now.nextKey
  let m : Mapping :=
    { ctx := ctx, core := core, desc := d, bufIndex := i, base := b.base, ilv := b.ilv, trk := b.trk,
      lcls := b.lcls, rdev := b.rdev, serial := n }
  modSkein sk (fun x => { x with slots := tput x.slots slot n }) ((bumpKey p).emit (.map n m))

/-- The window and the buffer of a well-formed descriptor are checked, a kept region is matched, and the
mapping is set up; with the status (07 R188 R192). -/
def setupDesc (sk slot : Nat) (d : MapDesc) (p : Plan) : Nat × Plan :=
  match tget p.now.skeins sk with
  | none => (0x10, p)
  | some x =>
    if !p.now.windowFits x d.sbase d.top then (0x11, p)
    else
      match p.now.mapBuffer x.core x.lr d with
      | none => (0x13, p)
      | some (i, b) =>
        let p := match x.lr.binding d.bind with
          | some j => cacheBuf x.core x.lr.ctx j p
          | none => p
        match p.now.keptRegion x.core x.lr.ctx d.key with
        | some (k, m) =>
          if m.bufIndex = i && m.desc.sameShape d then (1, placeRegion sk slot k d.sbase d.bind p)
          else (0, newMapping sk slot x.core x.lr.ctx d i b (reclaimRegion k p))
        | none => (0, newMapping sk slot x.core x.lr.ctx d i b p)

/-- The descriptor in 64 bytes is checked and its mapping set up (07 R192). -/
def setupMap (sk slot e : Nat) (p : Plan) : Nat × Plan :=
  if descOk e then setupDesc sk slot (MapDesc.ofBits e) p else (0x12, p)

/-- `smap` (07 R192). Bits [63:51] of the address are ignored (log 23). -/
def execSmap (d a b : BitVec 6) (s : State) : Host.Outcome State Fault Refusal :=
  commit s (frontWord [a.toNat, b.toNat] anyone (fun k x p =>
    let slot := (x.front.reg b.toNat).toNat % 16
    let va := (x.front.reg a.toNat).toNat
    let give := fun (v : Nat) (q : Plan) => retire (modFront k (fun f => f.set d.toNat (BitVec.ofNat 64 v)) q)
    if (tget x.slots slot).isSome then give 0x10 p
    else if va % 64 != 0 then give 0x12 p
    else if !p.now.frontReleased x 0 then p
    else frontRead64 k x (va % 2 ^ 51) 64 (fun l q =>
      if q.now.bindingHeld x.core x.lr (MapDesc.ofBits (ofBytes l)).bind then p
      else
        let r := setupMap k slot (ofBytes l) q
        give r.1 r.2) p))

/-! ### The other words (07 R193 R194) -/

/-- A word that names a slot in s[sa]; a free slot has no effect. -/
def slotWord (a : BitVec 6) (body : Nat → Skein → Nat → Nat → Mapping → Act) : Act :=
  frontWord [a.toNat] anyone (fun k x p =>
    let slot := (x.front.reg a.toNat).toNat % 16
    match tget x.slots slot with
    | none => retire p
    | some m =>
      match tget p.now.maps m with
      | none => retire p
      | some y => body k x slot m y p)

/-- The bytes of a window become private stash bytes; one without a value is undefined (07 R193; log 6). -/
def keepBytes (sk : Nat) (m : Mapping) : Act := modSkein sk (fun x =>
  { x with stash := (List.range (m.desc.top - m.desc.sbase)).foldl (fun t o =>
      tput t (m.desc.sbase + o) (m.byte o)) x.stash })

/-- The writebacks of a slot are performed. -/
def State.writtenBack (s : State) (map : Nat) (m : Mapping) : Bool :=
  s.clean map && !(m.ilv == 3 && s.remoteStores m.core)

/-- `sunmap` (07 R193). -/
def execSunmap (a : BitVec 6) (s : State) : Host.Outcome State Fault Refusal :=
  commit s (slotWord a (fun k _ slot n m p =>
    let p := writeBackMap n p
    if p.now.writtenBack n m then
      let p := match tget p.now.maps n with
        | some y => keepBytes k y p
        | none => p
      let p := modSkein k (fun x => { x with slots := tdel x.slots slot }) p
      retire ((releaseMap n p).emit (.mapEnd n))
    else p))

/-- `swb` (07 R193). -/
def execSwb (a : BitVec 6) (s : State) : Host.Outcome State Fault Refusal :=
  commit s (slotWord a (fun _ _ _ n m p =>
    let p := writeBackMap n p
    if p.now.writtenBack n m then retire p else p))

/-- `sinv` (07 R193). -/
def execSinv (a : BitVec 6) (s : State) : Host.Outcome State Fault Refusal :=
  commit s (slotWord a (fun _ _ _ n _ p =>
    retire (modMap n (fun y =>
      { y with
        filled := []
        dirty := []
        loose := []
        poisoned := [] }) (releaseMap n p))))

/-- `sfind` (07 R194). -/
def execSfind (d a b : BitVec 6) (s : State) : Host.Outcome State Fault Refusal :=
  commit s (frontWord [a.toNat, b.toNat] anyone (fun k x p =>
    let slot := (x.front.reg b.toNat).toNat % 16
    let key := (x.front.reg a.toNat).toNat % 2 ^ 32
    let give := fun (v : Nat) (q : Plan) => retire (modFront k (fun f => f.set d.toNat (BitVec.ofNat 64 v)) q)
    if (tget x.slots slot).isSome then give 0x10 p
    else
      match p.now.keptRegion x.core x.lr.ctx key with
      | none => give 0 p
      | some (n, m) =>
        if p.now.windowFits x m.desc.sbase m.desc.top then
          give (1 + m.desc.sbase * 2 ^ 32) (placeRegion k slot n m.desc.sbase m.desc.bind p)
        else give 0x11 p))

/-- What `sinfo` reports of a mapping (07 R194). -/
def Mapping.info (m : Mapping) : Nat :=
  1 + m.desc.mode * 2 + m.found.toNat * 8 + (if m.dirty.isEmpty then 0 else 16) + m.filled.length * 2 ^ 32

/-- `sinfo` (07 R194). -/
def execSinfo (d a : BitVec 6) (s : State) : Host.Outcome State Fault Refusal :=
  commit s (frontWord [a.toNat] anyone (fun k x p =>
    let m := (tget x.slots ((x.front.reg a.toNat).toNat % 16)).bind (tget p.now.maps)
    retire (modFront k (fun f => f.set d.toNat (BitVec.ofNat 64 ((m.map Mapping.info).getD 0))) p)))

end Sys2Proof.Machine
end

