-- ==== Sys2Proof/Machine/Crypto.lean ====
section
/-! DEFINITION. AES-256 in Galois/counter mode, for `reel.dec`, and SHA-256, for measurements
(16 R385 R386 R389). The spec names the two standards; the model takes them from FIPS 197, SP 800-38D and
FIPS 180-4 (PRESUMED, log 24). -/

namespace Sys2Proof.Machine

open Sys2Proof

/-! ### AES-256 -/

/-- Multiplication in GF(2^8) modulo x^8 + x^4 + x^3 + x + 1. -/
def gfMul (a b : Nat) : Nat :=
  ((List.range 8).foldl (fun (e : Nat × Nat) i =>
    (if bitOf b i then e.1 ^^^ e.2 else e.1, (2 * e.2 % 256) ^^^ (if 128 ≤ e.2 then 0x1B else 0))) (0, a)).1

/-- The rows of the S-box, the first byte of a row most significant. -/
def sboxRows : List Nat :=
  [0x637c777bf26b6fc53001672bfed7ab76, 0xca82c97dfa5947f0add4a2af9ca472c0] ++
  [0xb7fd9326363ff7cc34a5e5f171d83115, 0x04c723c31896059a071280e2eb27b275] ++
  [0x09832c1a1b6e5aa0523bd6b329e32f84, 0x53d100ed20fcb15b6acbbe394a4c58cf] ++
  [0xd0efaafb434d338545f9027f503c9fa8, 0x51a3408f929d38f5bcb6da2110fff3d2] ++
  [0xcd0c13ec5f974417c4a77e3d645d1973, 0x60814fdc222a908846eeb814de5e0bdb] ++
  [0xe0323a0a4906245cc2d3ac629195e479, 0xe7c8376d8dd54ea96c56f4ea657aae08] ++
  [0xba78252e1ca6b4c6e8dd741f4bbd8b8a, 0x703eb5664803f60e613557b986c11d9e] ++
  [0xe1f8981169d98e949b1e87e9ce5528df, 0x8ca1890dbfe6426841992d0fb054bb16]

/-- The S-box. -/
def sbox (a : Nat) : Nat := sboxRows.getD (a / 16) 0 / 256 ^ (15 - a % 16) % 256

/-- Byte lists combined by exclusive or. -/
def xorBytes (a b : List Nat) : List Nat := List.zipWith (fun x y => x ^^^ y) a b

/-- One more word of the key schedule, after `i` words, the latest first. -/
def nextKeyWord (l : List (List Nat)) (i : Nat) : List Nat :=
  let t := l.headD []
  let t := if i % 8 = 0 then
      xorBytes ((t.drop 1 ++ t.take 1).map sbox) [(List.range (i / 8 - 1)).foldl (fun r _ => gfMul r 2) 1, 0, 0, 0]
    else if i % 8 = 4 then t.map sbox
    else t
  xorBytes (l.getD 7 []) t

/-- The 60 words of the key schedule. -/
def keySchedule (key : List Nat) : List (List Nat) :=
  let first := (List.range 8).map (fun i => (key.drop (4 * i)).take 4)
  ((List.range 52).foldl (fun l i => nextKeyWord l (i + 8) :: l) first.reverse).reverse

/-- The key of a round. -/
def roundKey (w : List (List Nat)) (r : Nat) : List Nat := ((w.drop (4 * r)).take 4).flatMap id

/-- The rows of a block shifted. -/
def shiftRows (b : List Nat) : List Nat :=
  (List.range 16).map (fun i => b.getD ((i % 4) + 4 * ((i / 4 + i % 4) % 4)) 0)

/-- The columns of a block mixed. -/
def mixColumns (b : List Nat) : List Nat :=
  (List.range 16).map (fun i =>
    let c := fun (k : Nat) => b.getD (4 * (i / 4) + (i + k) % 4) 0
    gfMul (c 0) 2 ^^^ gfMul (c 1) 3 ^^^ c 2 ^^^ c 3)

/-- One block enciphered. -/
def aesBlock (w : List (List Nat)) (b : List Nat) : List Nat :=
  let b := (List.range 13).foldl (fun b r =>
    xorBytes (mixColumns (shiftRows (b.map sbox))) (roundKey w (r + 1))) (xorBytes b (roundKey w 0))
  xorBytes (shiftRows (b.map sbox)) (roundKey w 14)

/-! ### Galois/counter mode -/

/-- The number that bytes make, the first most significant. -/
def beNat (l : List Nat) : Nat := l.foldl (fun a b => 256 * a + b) 0

/-- The `n` bytes of a number, the most significant first. -/
def beBytes (x n : Nat) : List Nat := ((List.range n).map (fun i => x / 256 ^ i % 256)).reverse

/-- Multiplication in GF(2^128) in the bit order of the mode. -/
def ghashMul (x y : Nat) : Nat :=
  ((List.range 128).foldl (fun (e : Nat × Nat) i =>
    (if bitOf x (127 - i) then e.1 ^^^ e.2 else e.1, (e.2 / 2) ^^^ (if e.2 % 2 = 1 then 0xE1 * 2 ^ 120 else 0)))
    (0, y)).1

/-- The blocks of a text, the last filled with zeros. -/
def blocksOf (l : List Nat) : List Nat :=
  (List.range ((l.length + 15) / 16)).map (fun i =>
    let b := (l.drop (16 * i)).take 16
    beNat (b ++ List.replicate (16 - b.length) 0))

/-- GHASH of a ciphertext without additional data. -/
def ghash (h : Nat) (c : List Nat) : Nat :=
  (blocksOf c ++ [8 * c.length]).foldl (fun y b => ghashMul (y ^^^ b) h) 0

/-- The plaintext and the tag that a key, a 96-bit IV and a ciphertext give. -/
def gcmOpen (key iv c : List Nat) : List Nat × List Nat :=
  let w := keySchedule key
  let h := beNat (aesBlock w (List.replicate 16 0))
  let ctr := fun (i : Nat) => aesBlock w (iv ++ beBytes (i % 2 ^ 32) 4)
  let plain := (List.range ((c.length + 15) / 16)).flatMap (fun i =>
    xorBytes ((c.drop (16 * i)).take 16) (ctr (i + 2)))
  (plain, xorBytes (ctr 1) (beBytes (ghash h c) 16))

/-! ### SHA-256 -/

/-- The round constants. -/
def shaK : List Nat :=
  [0x428a2f98, 0x71374491, 0xb5c0fbcf, 0xe9b5dba5, 0x3956c25b, 0x59f111f1, 0x923f82a4, 0xab1c5ed5] ++
  [0xd807aa98, 0x12835b01, 0x243185be, 0x550c7dc3, 0x72be5d74, 0x80deb1fe, 0x9bdc06a7, 0xc19bf174] ++
  [0xe49b69c1, 0xefbe4786, 0x0fc19dc6, 0x240ca1cc, 0x2de92c6f, 0x4a7484aa, 0x5cb0a9dc, 0x76f988da] ++
  [0x983e5152, 0xa831c66d, 0xb00327c8, 0xbf597fc7, 0xc6e00bf3, 0xd5a79147, 0x06ca6351, 0x14292967] ++
  [0x27b70a85, 0x2e1b2138, 0x4d2c6dfc, 0x53380d13, 0x650a7354, 0x766a0abb, 0x81c2c92e, 0x92722c85] ++
  [0xa2bfe8a1, 0xa81a664b, 0xc24b8b70, 0xc76c51a3, 0xd192e819, 0xd6990624, 0xf40e3585, 0x106aa070] ++
  [0x19a4c116, 0x1e376c08, 0x2748774c, 0x34b0bcb5, 0x391c0cb3, 0x4ed8aa4a, 0x5b9cca4f, 0x682e6ff3] ++
  [0x748f82ee, 0x78a5636f, 0x84c87814, 0x8cc70208, 0x90befffa, 0xa4506ceb, 0xbef9a3f7, 0xc67178f2]

/-- The initial hash value. -/
def shaH : List Nat :=
  [0x6a09e667, 0xbb67ae85, 0x3c6ef372, 0xa54ff53a, 0x510e527f, 0x9b05688c, 0x1f83d9ab, 0x5be0cd19]

/-- A word rotated right. -/
def rotr32 (x n : Nat) : Nat := (x / 2 ^ n + x * 2 ^ (32 - n)) % 2 ^ 32

/-- The message padded, as bytes. -/
def shaPad (l : List Nat) : List Nat :=
  l ++ [0x80] ++ List.replicate ((119 - l.length % 64) % 64) 0 ++ beBytes (8 * l.length) 8

/-- One more word of the message schedule; the words come latest first. -/
def shaWord (l : List Nat) : Nat :=
  let a := l.getD 14 0
  let b := l.getD 1 0
  (l.getD 15 0 + (rotr32 a 7 ^^^ rotr32 a 18 ^^^ (a / 8)) + l.getD 6 0 +
    (rotr32 b 17 ^^^ rotr32 b 19 ^^^ (b / 1024))) % 2 ^ 32

/-- The message schedule of a block. -/
def shaSchedule (b : List Nat) : List Nat :=
  let first := (List.range 16).map (fun i => beNat ((b.drop (4 * i)).take 4))
  ((List.range 48).foldl (fun l _ => shaWord l :: l) first.reverse).reverse

/-- One round. -/
def shaRound (v : List Nat) (kw : Nat) : List Nat :=
  let g := fun i => v.getD i 0
  let s1 := rotr32 (g 4) 6 ^^^ rotr32 (g 4) 11 ^^^ rotr32 (g 4) 25
  let ch := (g 4 &&& g 5) ^^^ ((2 ^ 32 - 1 - g 4) &&& g 6)
  let t1 := g 7 + s1 + ch + kw
  let s0 := rotr32 (g 0) 2 ^^^ rotr32 (g 0) 13 ^^^ rotr32 (g 0) 22
  let maj := (g 0 &&& g 1) ^^^ (g 0 &&& g 2) ^^^ (g 1 &&& g 2)
  [(t1 + s0 + maj) % 2 ^ 32, g 0, g 1, g 2, (g 3 + t1) % 2 ^ 32, g 4, g 5, g 6]

/-- One block. -/
def shaBlock (h b : List Nat) : List Nat :=
  let v := (List.zipWith (fun k w => k + w) shaK (shaSchedule b)).foldl shaRound h
  List.zipWith (fun x y => (x + y) % 2 ^ 32) h v

/-- The SHA-256 digest of some bytes. -/
def sha256 (l : List Byte) : List Byte :=
  let m := shaPad (l.map (fun b => b.toNat))
  let h := (List.range (m.length / 64)).foldl (fun h i => shaBlock h ((m.drop (64 * i)).take 64)) shaH
  (h.flatMap (fun w => beBytes w 4)).map (BitVec.ofNat 8)

end Sys2Proof.Machine
end

