-- ==== Sys2Proof/Machine/ReelPlan.lean ====
section
/-! DEFINITION. Shape records, the checks of a reel command at issue, and the pieces of stash lines that
a command moves (08 R216-R225, 09 R245, 01 R37 R38). -/

namespace Sys2Proof.Machine

open Sys2Proof

/-! ### Shape records (08 R217) -/

/-- The record in 192 bytes. -/
def Shape.ofRecord (l : List Byte) : Shape :=
  let u := fun (o n : Nat) => ofBytes ((l.drop o).take n)
  { ver := u 0 4, fmt := u 4 1, kind := u 5 1, rank := u 6 1, clamp := bitOf (u 7 1) 0,
    strided := bitOf (u 7 1) 1, bind := u 8 8 % 64, boff := u 0x10 8,
    size := (List.range 5).map (fun d => u (0x18 + 8 * d) 8),
    stride := (List.range 5).map (fun d => u (0x40 + 8 * d) 8),
    box := (List.range 5).map (fun d => u (0x68 + 4 * d) 4),
    layout := u 0x80 1, pitch := u 0x84 4, scoff := u 0x88 8,
    clean := u 7 1 < 4 && u 8 8 < 64 && u 0x7C 4 == 0 && u 0x81 3 == 0 && u 0x90 48 == 0 }

/-- The size, stride and box of a dimension. -/
def Shape.sizeAt (h : Shape) (d : Nat) : Nat := h.size.getD d 0
/-- The stride of a dimension. -/
def Shape.strideAt (h : Shape) (d : Nat) : Nat := h.stride.getD d 0
/-- The box of a dimension. -/
def Shape.boxAt (h : Shape) (d : Nat) : Nat := h.box.getD d 0

/-- A kind of storage records (01 R37). -/
def Shape.records (h : Shape) : Bool := 1 ≤ h.kind && h.kind ≤ 3

/-- The bytes of a storage record (01 R37). -/
def Shape.recordBytes (h : Shape) : Nat := if h.kind = 1 then 17 else if h.kind = 2 then 25 else 33

/-- The bytes of a type by code (01 R22 R24). -/
def typeBytes (fmt : Nat) : Nat := [1, 1, 2, 2, 4, 4, 8, 8, 2, 2, 4, 8, 1, 1].getD fmt 1

/-- The bytes of a box element in the stash (08 R218). -/
def Shape.es (h : Shape) : Nat := if h.kind = 4 || h.kind = 5 then 128 else typeBytes h.fmt

/-! ### The forms (08 R220) -/

/-- A form that reads memory into the stash: all but `put`, `pput` and `rred`. -/
def formLoads (form : Nat) : Bool := !(form == 1 || form == 3 || form == 7)
/-- A form that moves to or from the pool. -/
def formPool (form : Nat) : Bool := form == 2 || form == 3
/-- A form on a remote buffer. -/
def formRemote (form : Nat) : Bool := form == 6 || form == 7

/-- The combinations of form, kind, format and layout (08 R218 R224 R386). -/
def Shape.combines (h : Shape) (form : Nat) : Bool :=
  match h.kind with
  | 0 =>
    if form = 5 then
      h.fmt == 1 && h.rank == 1 && h.layout == 2 && 16 ≤ h.boxAt 0 && h.boxAt 0 ≤ 65536
    else form != 4 && h.fmt ≤ 13 && (h.layout == 2 ||
      (h.layout ≤ 1 && (h.fmt == 0 || h.fmt == 8 || h.fmt == 9 || h.fmt == 12 || h.fmt == 13)))
  | 4 => form ≤ 3 && h.fmt == 12 && h.layout == 2 && h.rank == 1
  | 5 => form ≤ 3 && (h.fmt == 9 || h.fmt == 10 || h.fmt == 12) && h.layout == 3 && h.rank == 1
  | k => k ≤ 3 && form == 4 && (h.fmt == 12 || h.fmt == 9) && h.layout ≤ 2

/-- The operation of `reel.rred` fits its type (08 R223). -/
def reduceOk (op fmt : Nat) : Bool :=
  (op == 0 && fmt == 10) || (op == 1 && fmt == 9) || (op == 2 && fmt == 4) || ((op == 3 || op == 4) && fmt == 10)

/-- RANK, SIZE and BOX (08 R227 detail 0x02). -/
def Shape.dimsOk (h : Shape) : Bool :=
  1 ≤ h.rank && h.rank ≤ 5 && (List.range 5).all (fun d =>
    if d < h.rank then h.sizeAt d != 0 && h.boxAt d != 0
    else h.sizeAt d == 0 && h.strideAt d == 0 && h.boxAt d == 0)

/-- The strides and PITCH (08 R219 R227 detail 0x04). -/
def Shape.stridesOk (h : Shape) : Bool :=
  (h.records || ((h.strided || h.strideAt 0 == h.es) && (List.range h.rank).all (fun d => h.strideAt d % h.es == 0))) &&
    (h.layout != 2 || (h.pitch % 16 == 0 && h.boxAt 0 * h.es ≤ h.pitch))

/-- The limits of a canonical box (09 R245). -/
def Shape.canonOk (h : Shape) : Bool :=
  2 ≤ h.layout || (h.boxAt 0 * h.es % 16 == 0 && h.boxAt 0 * h.es ≤ 256 && h.boxAt 1 ≤ 64 &&
    (List.range 3).all (fun d => h.boxAt (d + 2) ≤ 1))

/-- The second register of a command: stash offset, operation, valid rows and the rest (08 R216). -/
structure ReelArgs where
  stash : Nat
  rop : Nat
  vrows : Nat
  clean : Bool

/-- The register s[sa+1]. -/
def ReelArgs.of (v : Nat) : ReelArgs :=
  { stash := bitsOf v 19 0, rop := bitsOf v 23 20, vrows := bitsOf v 42 32,
    clean := bitsOf v 31 24 == 0 && bitsOf v 63 43 == 0 }

/-- The register checks that follow the record (08 R216 R222 R223 R227 detail 0x07). -/
def argsOk (form sb : Nat) (h : Shape) (r : ReelArgs) : Bool :=
  sb + h.rank ≤ 64 && (form != 5 || sb ≤ 61) && r.clean && r.vrows ≤ 1024 &&
    (r.vrows == 0 || (2 ≤ h.rank && r.vrows ≤ h.boxAt 1)) &&
    (if form = 7 then reduceOk r.rop h.fmt else r.rop == 0)

/-- A box that cuts a record (08 R218 R227 detail 0x06). -/
def Shape.cuts (h : Shape) (o0 : Int) : Bool :=
  h.records && (h.sizeAt 0 % 32 != 0 || h.boxAt 0 % 32 != 0 || o0 % 32 != 0)

/-- The checks of the record, in their order: the detail of REEL_FAULT; `keyed` tells that a `reel.dec` finds
a key slot (08 R220 R224). -/
def Shape.detail (h : Shape) (form sb : Nat) (r : ReelArgs) (o0 : Int) (keyed : Bool) : Option Nat :=
  if h.ver != 1 || !h.clean then some 1
  else if !h.dimsOk then some 2
  else if !argsOk form sb h r then some 7
  else if !h.combines form || !keyed then some 3
  else if !h.stridesOk then some 4
  else if h.cuts o0 then some 6
  else if !h.canonOk then some 2
  else none

/-- The end of the tensor from its base offset (08 R220 step 3). -/
def Shape.extent (h : Shape) : Nat :=
  let far := fun (d : Nat) => (h.sizeAt d - 1) * h.strideAt d
  let outer := (List.range (h.rank - 1)).foldl (fun t d => t + far (d + 1)) h.boff
  if h.records then outer + h.sizeAt 0 / 32 * h.recordBytes else outer + far 0 + h.es

/-- The footprint of a canonical box and where its scales stand (08 R218, 09 R245). -/
def Shape.canonBytes (h : Shape) : Nat := 64 * h.boxAt 0 * h.es

/-- The rows of a row-major box. -/
def Shape.rows (h : Shape) : Nat := (List.range (h.rank - 1)).foldl (fun t d => t * h.boxAt (d + 1)) 1

/-- The scales of a load: layout 0 has 64, layout 1 one (08 R218). -/
def Shape.scaleCount (h : Shape) (form : Nat) : Nat :=
  if h.scoff = 0 || !formLoads form then 0 else if h.layout = 0 then 64 else if h.layout = 1 then 1 else 0

/-- The stash ranges of a box (08 R220 step 4). -/
def Shape.ranges (h : Shape) (form off : Nat) : List (Nat × Nat) :=
  if h.layout ≤ 1 then
    (off, h.canonBytes) :: (if h.scaleCount form = 0 then []
      else [((off + h.canonBytes + 127) / 128 * 128, 4 * h.scaleCount form)])
  else if h.layout = 2 then (List.range h.rows).map (fun r => (off + r * h.pitch, h.boxAt 0 * h.es))
  else [(off, 128 * h.boxAt 0)]

/-! ### Pieces -/

/-- Where a piece of a stash line comes from or goes to: global memory or the pool at an address, an
element of a storage record, bytes of its own, or nowhere. -/
inductive PieceSrc where
  | mem (va : Nat)
  | record (va i lo : Nat)
  | fixed (bytes : List Byte)
  | skip
  deriving DecidableEq, Repr

/-- A piece of a stash line. -/
structure Piece where
  so : Nat
  n : Nat
  src : PieceSrc
  deriving DecidableEq, Repr

/-- The elements of a box in row-major order, dimension 0 fastest (08 R219). -/
def boxIndices : List Nat → List (List Nat)
  | [] => [[]]
  | b :: r => (boxIndices r).flatMap (fun t => (List.range b).map (fun i => i :: t))

/-- The stash offset of a box element (08 R218, 09 R245). -/
def ReelCmd.stashAt (c : ReelCmd) (j : List Nat) : Nat :=
  let h := c.shape
  let j0 := j.headD 0
  if h.layout ≤ 1 then
    c.stash + 1024 * (j0 * h.es / 16) + 16 * j.getD 1 0 + j0 * h.es % 16
  else if h.layout = 2 then
    let row := (List.range (h.rank - 1)).foldr (fun d t => j.getD (d + 1) 0 + h.boxAt (d + 1) * t) 0
    c.stash + j0 * h.es + row * h.pitch
  else c.stash + 128 * j0

/-- A coordinate taken to the tensor: itself, clamped, or none (08 R219). -/
def clampTo (clamp : Bool) (i : Int) (size : Nat) : Option Nat :=
  if 0 ≤ i && i < size then some i.toNat
  else if clamp then some (if i < 0 then 0 else size - 1)
  else none

/-- The coordinates of a box element in the tensor; none outside of it. -/
def ReelCmd.coords (c : ReelCmd) (j : List Nat) : Option (List Nat) :=
  (j.zipIdx).foldr (fun e l => match l, clampTo (c.shape.clamp && formLoads c.form)
      (c.origin.getD e.2 0 + e.1) (c.shape.sizeAt e.2) with
    | some r, some i => some (i :: r)
    | _, _ => none) (some [])

/-- The base of the tensor: in the buffer, or in the pool allocation. -/
def ReelCmd.base (c : ReelCmd) : Nat := if formPool c.form then 0 else bitsOf c.entry.toNat 63 0

/-- Where an element of the tensor lies (08 R217 R218). -/
def ReelCmd.elementAt (c : ReelCmd) (i : List Nat) : PieceSrc :=
  let h := c.shape
  let outer := (List.range (h.rank - 1)).foldl (fun t d => t + i.getD (d + 1) 0 * h.strideAt (d + 1)) (c.base + h.boff)
  let i0 := i.headD 0
  if h.records then .record (outer + i0 / 32 * h.recordBytes) (i0 % 32) 0
  else .mem (outer + i0 * h.strideAt 0)

/-- The piece of a box element (08 R219 R222). -/
def ReelCmd.piece (c : ReelCmd) (j : List Nat) : Piece :=
  let h := c.shape
  let none_ : PieceSrc := if formLoads c.form then .fixed (List.replicate h.es 0) else .skip
  { so := c.stashAt j, n := h.es,
    src := if c.vrows != 0 && c.vrows ≤ j.getD 1 0 then none_
      else match c.coords j with
        | some i => c.elementAt i
        | none => none_ }

/-- The rows of a canonical box from BOX1 to 63: zeros (09 R245). -/
def ReelCmd.restRows (c : ReelCmd) : List Piece :=
  let h := c.shape
  if 2 ≤ h.layout || !formLoads c.form then []
  else (List.range (64 - max 1 (h.boxAt 1))).flatMap (fun r => (List.range (h.boxAt 0)).map (fun j0 =>
    { so := c.stashAt [j0, r + max 1 (h.boxAt 1)], n := h.es, src := .fixed (List.replicate h.es 0) }))

/-- The bytes of the scale 1.0. -/
def oneScale : List Byte := bytesOf 0x3F800000 4

/-- The scales of a load. A record of RANK 1 counts as one row (08 R218; log 26). -/
def ReelCmd.scales (c : ReelCmd) : List Piece :=
  let h := c.shape
  let at_ := (c.stash + h.canonBytes + 127) / 128 * 128
  let o1 : Int := if h.rank = 1 then 0 else c.origin.getD 1 0
  let s1 := if h.rank = 1 then 1 else h.sizeAt 1
  let put := fun (k : Nat) (o : Option Nat) =>
    ({ so := at_ + 4 * k, n := 4, src := match o with
      | some i => .mem (c.base + h.scoff + 4 * i)
      | none => .fixed oneScale } : Piece)
  if h.scaleCount c.form = 0 then []
  else if h.layout = 0 then
    (List.range 64).map (fun r => put r
      (if max 1 (h.boxAt 1) ≤ r || (c.vrows != 0 && c.vrows ≤ r) then none
       else clampTo h.clamp (o1 + r) s1))
  else
    [put 0 (match clampTo h.clamp (c.origin.getD 0 0) (h.sizeAt 0), clampTo h.clamp o1 s1 with
      | some i0, some i1 => some (i0 / 128 + (h.sizeAt 0 + 127) / 128 * (i1 / 128))
      | _, _ => none)]

/-- A piece reaches a byte of memory. -/
def Piece.reaches (q : Piece) (a : Nat) : Bool :=
  match q.src with
  | .mem va => va ≤ a && a < va + q.n
  | _ => false

/-- The parts of a store's pieces, cut at the ends of lines and in box order, that are written: a byte that a later
element of the box, in an earlier line, has already written is not written again, so that elements that reach one
address are written in box order (08 R219). -/
def settleStores : List Piece → List Piece
  | [] => []
  | q :: r =>
    let late := r.filter (fun y => y.so / 128 < q.so / 128)
    (match q.src with
     | .mem va =>
       if (List.range q.n).any (fun i => late.any (fun y => y.reaches (va + i))) then
         (List.range q.n).map (fun i =>
           { so := q.so + i, n := 1, src := if late.any (fun y => y.reaches (va + i)) then .skip else .mem (va + i) })
       else [q]
     | _ => [q]) ++ settleStores r

/-- A piece cut at the end of its stash line. -/
def Piece.cut (q : Piece) : List Piece :=
  let k := 128 - q.so % 128
  if q.n ≤ k then [q]
  else
    let rest := match q.src with
      | .mem va => .mem (va + k)
      | .record va i lo => .record va i (lo + k)
      | .fixed b => .fixed (b.drop k)
      | .skip => .skip
    let first := match q.src with
      | .fixed b => .fixed (b.take k)
      | x => x
    [{ q with
       n := k
       src := first },
     { so := q.so + k, n := q.n - k, src := rest }]

/-- The pieces of a command. The elements of a reduction stay whole (08 R223; log 27). -/
def ReelCmd.pieces (c : ReelCmd) : List Piece :=
  let l := (boxIndices ((List.range c.shape.rank).map c.shape.boxAt)).map c.piece
  match c.plain with
  | some b => (l.zipIdx.map (fun e => { e.1 with src := .fixed [b.getD e.2 0] })).flatMap Piece.cut
  | none =>
    if c.form = 7 then l
    else
      if formLoads c.form then (l ++ c.restRows ++ c.scales).flatMap Piece.cut
      else settleStores (l.flatMap Piece.cut)

/-- The stash lines of some pieces, ascending. -/
def lineKeys (l : List Piece) : List Nat := l.foldl (fun m q => sadd m (q.so / 128)) []

/-- The pieces of the line that a command moves next; none when it has moved them all. -/
def ReelCmd.current (c : ReelCmd) : Option (List Piece) :=
  let l := c.pieces
  (lineKeys l)[c.line]?.map (fun k => l.filter (fun q => q.so / 128 == k))

/-! ### Expansion of records (01 R37 R38) -/

/-- Element `i` of a storage record. -/
def recordElement (kind : Nat) (b : List Byte) (i : Nat) : FV :=
  let whole := ofBytes (b.drop 1)
  let int := fun (z : Int) => FV.fin (z < 0) z.natAbs 0
  if kind = 1 then int (sextN (bitsOf whole (4 * i + 3) (4 * i)) 4)
  else if kind = 2 then int (sextN (bitsOf whole (6 * i + 5) (6 * i)) 6)
  else FV.of .fp8 (bitsOf whole (8 * i + 7) (8 * i))

/-- An element expanded, with its conditions. -/
def expandElement (kind fmt : Nat) (ovt : BitVec 16) (b : List Byte) (i : Nat) : FRes :=
  let scale := (b.headD 0).toNat
  let t : Fmt := if fmt = 12 then .fp8 else .bf16
  if scale / 8 = 0 then { bits := 0 }
  else
    match recordElement kind b i with
    | .fin neg m x =>
      narrowFin t (NType.entry (.flt t) ovt) .rne neg (m * (8 + scale % 8)) (x + (scale / 8 : Nat) - 19) false
    | _ => { bits := t.nanPat }

end Sys2Proof.Machine
end

