-- ==== Sys2Proof/Machine/Schedule.lean ====
section
/-! DEFINITION. The word that an issuing context takes from its clause, with the checks of 02 R57 that
come before its fields are read (02 R41 R44-R46 R54 R57). -/

namespace Sys2Proof.Machine

open Sys2Proof

/-! ### Taking a word -/

/-- A word as it stands in the clause buffer, with its prefix, and whether it is the last. -/
structure RawWord where
  word : Nat
  pfx : Option Nat
  last : Bool
  deriving DecidableEq, Repr

/-- The word of a clause at a place, with its prefix. A prefix that stands last or before another prefix
stands alone (02 R54). -/
def Clause.raw (c : Clause) (pos : Pos) : Option RawWord :=
  let i := (pos.pc - c.hdr).toNat / 4 - 1
  match c.words.drop i with
  | [] => none
  | w :: r =>
    if majorOf w.toNat = 0x3F then
      match r with
      | [] => some { word := w.toNat, pfx := none, last := true }
      | x :: t =>
        if majorOf x.toNat = 0x3F then some { word := w.toNat, pfx := none, last := false }
        else some { word := x.toNat, pfx := some w.toNat, last := t.isEmpty }
    else some { word := w.toNat, pfx := none, last := r.isEmpty }

/-- What the first checks make of a word: an instruction to execute, or a cause (02 R57). -/
noncomputable def checkWord (front : Bool) (cls : Nat) (w : RawWord) : Except Cause Instr :=
  if majorOf w.word = 0x3F then .error (if front then .contextMismatch else .illegalPrefix)
  else
    match decodeForm front w.word with
    | .error .zeroWord => .error .zeroWord
    | .error .illegalOpcode => .error .illegalOpcode
    | _ =>
      if (homeClass w.word != some cls && cls != 7) || (controlTransfer w.word && !w.last) then
        .error .clauseFormat
      else if (if front then !frontMay w.word || w.pfx.isSome else frontOnly w.word) then
        .error .contextMismatch
      else if w.pfx.isSome && !acceptsPrefix w.word then .error .illegalPrefix
      else if !((w.pfx.map (fun x => prefixFieldsLegal (Prefix.ofWord x) w.word)).getD true) then
        .error .illegalField
      else
        match decode front w.word with
        | .ok i => .ok i
        | .error .contextMismatch => .error .contextMismatch
        | .error _ => .error .illegalField

/-- What an issue comes to: an instruction to execute in the state that names its word, or a state that
has already taken the trap of a check. -/
inductive Taken where
  | exec (i : Instr) (s : State)
  | done (s : State)
  | nothing

/-- A strand may issue: its skeins run on their core, or the word that it stopped at waits for remote data
(05 R148, 06 R172). -/
def State.strandRuns (s : State) (x : Strand) : Bool :=
  let l := s.strandFibres x
  l.all (fun e => ((tget s.skeins e.2.sk).map (fun y => y.run == .resident)).getD false) ||
    l.any (fun e => e.2.loads.any Load.isRemote)

/-- A front context may issue, likewise. -/
def Skein.frontRuns (x : Skein) : Bool := x.run == .resident || x.front.loads.any Load.isRemote

/-- The place and the clause of an issuing context, and whether it is a front context. A strand issues
while it is active, a front context while it is ready, and both while their core is not stopped (06 R160 R162
R172). -/
def State.clauseOf (s : State) (w : Who) : Option (Pos × Clause × Bool) :=
  match w with
  | .strand n => (tget s.strands n).bind (fun x =>
      if x.active && s.strandRuns x then x.clause.map (fun c => (x.pos, c, false)) else none)
  | .front k => (tget s.skeins k).bind (fun x =>
      if x.front.run == .ready && x.frontRuns then x.front.clause.map (fun c => (x.front.pos, c, true)) else none)

/-- The lanes that a trap of a check names: every fibre of the strand (02 R57). -/
def State.issuerMask (s : State) (w : Who) : DWord :=
  match w with
  | .strand n => ((tget s.strands n).map (fun x => maskOf (s.lanes x))).getD 0
  | .front _ => 0

/-- The trap of a check of 02 R57, as an action. -/
def checkTrap (w : Who) (c : Cause) : Act := fun p =>
  trapWord { cause := c, mask := p.now.issuerMask w } p

/-- A context takes its next word (02 R44 R57). -/
noncomputable def takeWord (w : Who) (s : State) : Taken :=
  match s.clauseOf w with
  | none => .nothing
  | some (pos, c, front) =>
    match c.raw pos with
    | none => .nothing
    | some r =>
      let t := { s with cur := {
        who := some w
        word := BitVec.ofNat 32 r.word
        pfx := r.pfx.map (fun x => BitVec.ofNat 32 x) } }
      match checkWord front (Header.ofWord c.head.toNat).cls.toNat r with
      | .ok i => .exec i t
      | .error e => .done (applyAll (checkTrap w e { now := t, log := [] }).log.reverse t)

end Sys2Proof.Machine
end

