-- ==== Sys2Proof/Machine/Reel.lean ====
section
/-! DEFINITION. The reel: the issue of its commands, its lines, the verification of `reel.dec`, and
`reel.wp` (08 R216-R228, 06 R164 R168, 16 R386). -/

namespace Sys2Proof.Machine

open Sys2Proof

/-! ### Channels -/

/-- A channel; one not listed is as at admission. -/
def Skein.chan (x : Skein) (c : Nat) : Chan := tgetD x.chans c {}

/-- Change a channel. -/
def modChan (sk ch : Nat) (g : Chan → Chan) : Act :=
  modSkein sk (fun x => { x with chans := tput x.chans ch (g (x.chan ch)) })

/-- Change the oldest command of a channel. -/
def modHead (sk ch : Nat) (g : ReelCmd → ReelCmd) : Act :=
  modChan sk ch (fun y => { y with cmds := match y.cmds with
    | [] => []
    | c :: r => g c :: r })

/-- A command counts no longer: CP falls in issue order (06 R164). -/
def settleCp (sk id : Nat) : Act := modSkein sk (fun x =>
  let q := x.cpq.map (fun e => if e.1 = id then (id, true) else e)
  { x with cpq := q.dropWhile (fun e => e.2) })

/-! ### Errors (08 R228) -/

/-- The word at which a fibre waits: of the clause that it holds, else as memory holds it (log 22). -/
def State.waitingWord (s : State) (f : Fibre) (x : Skein) : Word :=
  match f.clause.bind (fun c => c.raw f.pos) with
  | some r => BitVec.ofNat 32 r.word
  | none => s.wordAt x.core x.lr.ctx f.pos.pc

/-- The fibres that wait at a knot whose error bit is set each raise KNOT with detail 0x07 at their word
(06 R167). -/
def trapWaiters (sk k : Nat) : Act := fun p =>
  forEach (p.now.fibresOf sk) (fun j q =>
    match tget q.now.fibres j, tget q.now.skeins sk with
    | some f, some x =>
      let here : Bool := match f.run with
        | .parked (.knot i) _ => i == k
        | .parked (.reopen i) _ => i == k
        | _ => false
      if here then
        trapFibre j { cause := .knot, detail := 7, mask := laneBit f.lane.toNat } f.pos
          (q.now.waitingWord f x) none q
      else q
    | _, _ => q) p

/-- A knot has an error: its waiting fibres trap. -/
def knotError (sk k : Nat) : Act := fun p =>
  trapWaiters sk k (modKnot sk k (fun y => { y with error := true }) p)

/-- The objects that a skein's fibres wait at let them go on, where what they wait for has come; at a knot that
has met an error they trap. -/
def retestWaits (sk : Nat) : Act := fun p =>
  match tget p.now.skeins sk with
  | none => p
  | some x =>
    wakeBarriers x.launch (pokeQueues sk (forEach x.knots (fun e q =>
      actIf e.2.error (trapWaiters sk e.1) (wakeKnot sk e.1 q)) p))

/-- A command that failed or is discarded: its knot has an error, and it completes for CP. -/
def discardCommand (sk : Nat) (c : ReelCmd) : Act := fun p =>
  settleCp sk c.id (match c.knot with
    | some k => knotError sk k p
    | none => p)

/-- The oldest command of a channel ends in error, and the later ones are discarded. -/
def failCommand (sk ch : Nat) (code : BitVec 8) : Act := fun p =>
  match tget p.now.skeins sk with
  | none => p
  | some x =>
    let y := x.chan ch
    let p := modChan sk ch (fun z =>
      { z with
        cmds := []
        err := true
        code := if z.code = 0 then code else z.code
        failed := true
        held := false }) p
    dropFills (.chan sk ch) (forEach y.cmds (discardCommand sk) p)

/-- The oldest command of a channel has completed. -/
def endCommand (sk ch : Nat) (c : ReelCmd) : Act := fun p =>
  settleCp sk c.id (modChan sk ch (fun y => { y with cmds := y.cmds.drop 1 }) p)

/-! ### Issue (08 R216 R220 R225) -/

/-- The shape record of a command: the core's copy, or read and kept, at most 32 of them (08 R225). -/
def withShape (k : Nat) (x : Skein) (va : Nat) (go : Shape → Act) : Act := fun p =>
  match (p.now.core x.core).shapes.find? (fun e => e.ctx == x.lr.ctx && e.va == va) with
  | some e => go e.shape p
  | none => frontRead64 k x va 192 (fun l q =>
      let h := Shape.ofRecord l
      go h (modCore x.core (fun c =>
        let l := c.shapes ++ [{ ctx := x.lr.ctx, va := va, shape := h }]
        { c with shapes := l.drop (l.length - 32) }) q)) p

/-- REEL_FAULT with a detail (08 R227). -/
def reelFault (d : Nat) : Trap := { cause := .reelFault, detail := d }

/-- The rights of a form (08 R220). -/
def Buf.mayReel (b : Buf) (form : Nat) : Bool :=
  b.rl && (if form = 7 then b.rd && b.wr && b.at_ else if formLoads form then b.rd else b.wr)

/-- The detail bits of a form (05 R133). -/
def reelDetail (form : Nat) : Nat := if form = 7 then 3 else if formLoads form then 0 else 1

/-- The buffer-table entry that a record names. -/
def State.shapeBuffer (s : State) (x : Skein) (h : Shape) : Option Buf :=
  (x.lr.binding h.bind).bind (fun i => s.buf x.core x.lr.ctx i)

/-- The checks of the binding (08 R220 step 2). -/
def bindingTrap (x : Skein) (form : Nat) (h : Shape) (b : Option Buf) : Option Trap :=
  let d := reelDetail form
  match b with
  | none => some { cause := .binding, detail := d, addr := h.boff }
  | some b =>
    let at_ := (b.base + h.boff) % 2 ^ 64
    if b.owner != x.lr.ctx then some { cause := .owner, detail := d, addr := at_ }
    else if !b.mayReel form then some { cause := .rights, detail := d, addr := at_ }
    else if (b.ilv == 3) != formRemote form then some (reelFault 3)
    else if b.len < h.extent then some { cause := .bounds, detail := d, addr := at_ }
    else none

/-- The first byte of some ranges that answers to a test. -/
def firstByte (l : List (Nat × Nat)) (g : Nat → Bool) : Option Nat :=
  l.findSome? (fun e => ((List.range e.2).find? (fun i => g (e.1 + i))).map (fun i => e.1 + i))

/-- The stash range of a box; the trap of a window names the box's first byte in it (08 R220 step 4). -/
def rangeTrap (s : State) (sk : Nat) (x : Skein) (form off : Nat) (h : Shape) : Option Trap :=
  let l := h.ranges form off
  if l.any (fun e => x.lr.stash < e.1 + e.2) then some (reelFault 5)
  else
    match firstByte l (fun o => s.mapDetail sk o 1 (formLoads form) != 0) with
    | none => none
    | some o =>
      let window := fun (i : Nat) => (s.windowAt sk i).map (fun e => e.1)
      some { cause := .stashMap, detail := s.mapDetail sk o 1 (formLoads form),
             addr := (firstByte l (fun i => window i == window o)).getD o }

/-- The checks of a command in their order (08 R220). -/
def commandTrap (s : State) (sk : Nat) (x : Skein) (form sb : Nat) (h : Shape) (r : ReelArgs) (o0 : Int) :
    Option Trap :=
  let b := if formPool form then none else s.shapeBuffer x h
  match h.detail form sb r o0 (form != 5 || (b.map (fun y => y.kslot != 0)).getD true) with
  | some d => some (reelFault d)
  | none =>
    let t := if formPool form then
        (if x.lr.pool < h.extent then some { cause := .poolBounds, addr := h.boff } else none)
      else bindingTrap x form h b
    match t with
    | some u => some u
    | none => rangeTrap s sk x form r.stash h

/-- A command issues: it joins its channel, or is discarded on one that has failed (08 R228). -/
def issueCommand (sk ch : Nat) (c : ReelCmd) : Act := fun p =>
  match tget p.now.skeins sk with
  | none => p
  | some x =>
    let p := modSkein sk (fun y =>
      { y with
        cpq := y.cpq ++ [(c.id, false)]
        nextId := y.nextId + 1 }) p
    if (x.chan ch).failed then discardCommand sk c p
    else modChan sk ch (fun y => { y with cmds := y.cmds ++ [c] }) p

/-- A reel command of a front context. It follows the context's earlier loads and stores, those to remote devices
once they are answered, and waits while the entry of its binding is held (08 R211 R216 R220, 15 R362). -/
def reelWord (form : Nat) (a b : BitVec 6) (kn : BitVec 4) (e : BitVec 1) (c : BitVec 3) : Act :=
  frontWord [] anyone (fun k x p =>
    let reg := fun (i : Nat) => x.front.reg i
    if x.lr.reels ≤ c.toNat || (e == 1 && x.lr.knots ≤ kn.toNat) || (e == 0 && kn != 0) then
      trapWord { cause := .illegalField } p
    else if 7 ≤ x.cp || !p.now.frontReleased x 0 ||
        p.now.remotes.any (fun e => e.2.use.isStore x.lr.ctx x.core) then p
    else if a = 63 then trapWord (reelFault 7) p
    else
      let va := (reg a.toNat).toNat % 2 ^ 51
      if va % 64 != 0 then trapWord (reelFault 8) p
      else withShape k x va (fun h p =>
        let r := ReelArgs.of (reg (a.toNat + 1)).toNat
        let o0 := (reg b.toNat).toInt
        let bind := if formPool form then none else x.lr.binding h.bind
        if (bind.map (fun i => p.now.entryHeld x.core x.lr.ctx i)).getD false then p
        else
        match commandTrap p.now k x form b.toNat h r o0 with
        | some t => trapWord t p
        | none =>
          let entry := match bind with
            | some i => BitVec.ofNat 512 (p.now.bufBits x.core x.lr.ctx i)
            | none => 0
          let p := match bind with
            | some i => cacheBuf x.core x.lr.ctx i p
            | none => p
          retire (issueCommand k c.toNat
            { id := x.nextId, form := form, shape := h, stash := r.stash, rop := r.rop, vrows := r.vrows,
              origin := (List.range h.rank).map (fun d => (reg (b.toNat + d)).toInt),
              knot := if e = 1 then some kn.toNat else none, ovt := ctlOvt x.ctl,
              stream := (reg (b.toNat + 1)).toNat % 2 ^ 32, counter := (reg (b.toNat + 2)).toNat,
              entry := entry } p)) p)

/-- `reel.get` (08 R220). -/
def execReelGet (a b : BitVec 6) (k : BitVec 4) (e : BitVec 1) (c : BitVec 3) (s : State) :
    Host.Outcome State Fault Refusal := commit s (reelWord 0 a b k e c)

/-- `reel.put` (08 R220). -/
def execReelPut (a b : BitVec 6) (k : BitVec 4) (e : BitVec 1) (c : BitVec 3) (s : State) :
    Host.Outcome State Fault Refusal := commit s (reelWord 1 a b k e c)

/-- `reel.pget` (08 R220). -/
def execReelPget (a b : BitVec 6) (k : BitVec 4) (e : BitVec 1) (c : BitVec 3) (s : State) :
    Host.Outcome State Fault Refusal := commit s (reelWord 2 a b k e c)

/-- `reel.pput` (08 R220). -/
def execReelPput (a b : BitVec 6) (k : BitVec 4) (e : BitVec 1) (c : BitVec 3) (s : State) :
    Host.Outcome State Fault Refusal := commit s (reelWord 3 a b k e c)

/-- `reel.exp` (08 R221). -/
def execReelExp (a b : BitVec 6) (k : BitVec 4) (e : BitVec 1) (c : BitVec 3) (s : State) :
    Host.Outcome State Fault Refusal := commit s (reelWord 4 a b k e c)

/-- `reel.dec` (08 R224). -/
def execReelDec (a b : BitVec 6) (k : BitVec 4) (e : BitVec 1) (c : BitVec 3) (s : State) :
    Host.Outcome State Fault Refusal := commit s (reelWord 5 a b k e c)

/-- `reel.rget` (08 R223). -/
def execReelRget (a b : BitVec 6) (k : BitVec 4) (e : BitVec 1) (c : BitVec 3) (s : State) :
    Host.Outcome State Fault Refusal := commit s (reelWord 6 a b k e c)

/-- `reel.rred` (08 R223). -/
def execReelRred (a b : BitVec 6) (k : BitVec 4) (e : BitVec 1) (c : BitVec 3) (s : State) :
    Host.Outcome State Fault Refusal := commit s (reelWord 7 a b k e c)

/-- The status word of a channel (08 R226). -/
def Chan.status (y : Chan) : Nat :=
  (if y.cmds.isEmpty then 0 else 1) + y.err.toNat * 2 + y.code.toNat * 2 ^ 8 + y.inv.toNat * 2 ^ 16 +
    y.ovf.toNat * 2 ^ 17 + y.unf.toNat * 2 ^ 18 + y.sat.toNat * 2 ^ 19 + y.crlost.toNat * 2 ^ 20

/-- `reel.wp`: it clears what it reports, and commands issue again (08 R226 R228). -/
def execReelWp (a b : BitVec 6) (c : BitVec 3) (s : State) : Host.Outcome State Fault Refusal :=
  commit s (frontWord [] anyone (fun k x p =>
    if x.lr.reels ≤ c.toNat || a == b then trapWord { cause := .illegalField } p
    else
      let y := x.chan c.toNat
      let p := modFront k (fun f => (f.set a.toNat y.wp).set b.toNat (BitVec.ofNat 64 y.status)) p
      retire (modChan k c.toNat (fun z =>
        { z with
          err := false
          code := 0
          inv := false
          ovf := false
          unf := false
          sat := false
          crlost := false
          failed := false }) p)))

/-! ### Lines (08 R226 R228) -/

/-- Why a line is not moved now. -/
inductive ReelStop where
  /-- A fault that system software has to resume: SRC, cause, address, and whether it writes. -/
  | hold (src : Nat) (cause : WalkCause) (va : Nat) (write : Bool)
  /-- The command ends in error. -/
  | code (c : BitVec 8)
  /-- The line waits. -/
  | later
  deriving DecidableEq, Repr

/-- The entry that a command uses. -/
def ReelCmd.buffer (c : ReelCmd) : Option Buf := Buf.ofBits c.entry.toNat

/-- One access of a line, within a page (08 R226 R228, 16 R378). -/
def State.reelAccess (s : State) (x : Skein) (b : Buf) (va n : Nat) (write : Bool) :
    Except ReelStop Access :=
  let v := va % 2 ^ 51
  if s.xlateHeld x.core x.lr.ctx v write then .error .later
  else
  match s.xlateNow x.core x.lr.ctx v write (some b.ilv) with
  | .error .writeProtect => .error (.code 7)
  | .error c => .error (.hold 2 c v write)
  | .ok t =>
    let pa := t.pa v
    let pte := t.pte.toNat
    if isRegister pa then .error (.code 8)
    else if bitOf pte 11 && b.kslot == 0 then .error (.code (Config.refusedCode s.fresh))
    else .ok
      { ctx := x.lr.ctx, va := v, pa := pa, n := n,
        tracked := b.trk && bitOf pte 5 && b.ilv != 3 && !isHost pa, policy := max b.ceil 1,
        cls := classOf pte b.lcls, remote := if b.ilv = 3 then some b.rdev else none,
        scope := 0, ascope := b.ascope, watch := false, rdup := bitOf pte 3 }

/-- The accesses of a range, with the offset of each in it: one for each global line, but an element of a reduction
stays whole within its page (12 R305, 08 R223). -/
def State.reelRange (s : State) (x : Skein) (b : Buf) (va n : Nat) (whole write : Bool) :
    Except ReelStop (List (Nat × Access)) :=
  (if whole then piecesOf va n else linePieces va n).foldr (fun e r => match s.reelAccess x b e.1 e.2 write, r with
    | .error t, _ => .error t
    | .ok _, .error t => .error t
    | .ok a, .ok l => .ok ((e.1 - va, a) :: l)) (.ok [])

/-- The accesses of a piece: of its bytes, or of the record it is expanded from. -/
def State.pieceAccess (s : State) (x : Skein) (c : ReelCmd) (write : Bool) (q : Piece) :
    Except ReelStop (Piece × List (Nat × Access)) :=
  match c.buffer, q.src with
  | some b, .mem va =>
    if formPool c.form then .ok (q, []) else (s.reelRange x b va q.n (c.form == 7) write).map (fun l => (q, l))
  | some b, .record va _ _ => (s.reelRange x b va c.shape.recordBytes false write).map (fun l => (q, l))
  | _, _ => .ok (q, [])

/-- The accesses of all pieces of a line; the first that stops decides. -/
def State.lineAccess (s : State) (x : Skein) (c : ReelCmd) (write : Bool) :
    List Piece → Except ReelStop (List (Piece × List (Nat × Access)))
  | [] => .ok []
  | q :: r =>
    match s.pieceAccess x c write q, s.lineAccess x c write r with
    | .error t, _ => .error t
    | .ok _, .error t => .error t
    | .ok e, .ok l => .ok (e :: l)

/-- All accesses of a line. -/
def accessesOf (l : List (Piece × List (Nat × Access))) : List Access := l.flatMap (fun e => e.2.map (fun u => u.2))

/-- The fabric lets the accesses of a line be performed. A write to another die's line is a packet that is sent,
accepted and applied at once (15 R361 R362 R364; log 61). -/
def State.lineOpen (s : State) (core : Nat) (write : Bool) (l : List Access) : Bool :=
  l.all (fun a => a.remote.isSome || !isPackage a.pa ||
    (if write then s.atomicOpen core a && (!a.tracked || s.crossOpen (core / 64) (s.server a))
     else !s.readHeld core a))

/-- What a stash fill's fault does to a command (08 R228; log 60). -/
def stopOfFill (fresh : Nat) : FillFault → ReelStop
  | .walk c va => .hold 3 c va false
  | .poison _ => .code 2
  | .rights _ => .code 8
  | .refused _ => .code (Config.refusedCode fresh)
  | .lost _ => .code 3

/-- An engine's touch of the stash lines of a reel line, as it stops the line. -/
def touchReel (sk ch : Nat) (write : Bool) (ps : List Piece) (p : Plan) : Option ReelStop × Plan :=
  match touchAll false (.chan sk ch) sk write (ps.map (fun q => (q.so, q.n))) p with
  | (.done, q) => (none, q)
  | (.wait, q) => (some .later, q)
  | (.fault e, q) => (some (stopOfFill q.now.fresh e), q)

/-- Bytes of the pool are poisoned. -/
def State.poolPoisoned (s : State) (sk off n : Nat) : Bool :=
  match s.poolOf sk with
  | none => false
  | some (_, q) => (List.range n).any (fun i => q.poisoned.contains ((off + i) / 32))

/-- The bytes of a range as its accesses read them, or as its remote answers gave them. -/
def readUnits (s : State) (c : ReelCmd) (so : Nat) (l : List (Nat × Access)) : List Byte :=
  l.flatMap (fun u => if c.form = 6 then tgetD c.got (so + u.1) [] else s.readAt u.2)

/-- The bytes that a load writes for a piece, with the conditions of an expansion. -/
def loadBytes (s : State) (sk : Nat) (c : ReelCmd) (e : Piece × List (Nat × Access)) : List Byte × Cond :=
  match e.1.src with
  | .fixed b => (b, {})
  | .skip => ([], {})
  | .mem a => (if formPool c.form then s.poolBytes sk a e.1.n else readUnits s c e.1.so e.2, {})
  | .record _ i lo =>
    let r := expandElement c.shape.kind c.shape.fmt c.ovt (readUnits s c e.1.so e.2) i
    (((bytesOf r.bits c.shape.es).drop lo).take e.1.n, r.cond)

/-- The channel keeps the conditions of an expansion (08 R221 R226). -/
def Chan.note (y : Chan) (d : Cond) : Chan :=
  { y with
    inv := y.inv || d.inv
    ovf := y.ovf || d.ovf
    unf := y.unf || d.unf
    sat := y.sat || d.sat }

/-- The operation of a remote request for a unit of a line: a read, or the reduction of an element. -/
def unitOp (s : State) (sk : Nat) (c : ReelCmd) (so n : Nat) : RemoteOp :=
  if c.form = 6 then .read n
  else .reduce (BitVec.ofNat 4 c.rop) [ofBytes (s.touchBytes sk so n)]

/-- What the answer of a request for a unit of a line is for. -/
def pieceUse (sk ch : Nat) (c : ReelCmd) (so ctx : Nat) : RemoteUse :=
  if c.form = 7 then .reduce sk ch c.id so ctx else .reel sk ch c.id so

/-- The remote requests of a line go out, or are waited for; none when every answer is there
(08 R223, 16 R390). -/
def askLine (sk ch : Nat) (c : ReelCmd) (l : List (Piece × List (Nat × Access))) (p : Plan) :
    Option ReelStop × Plan :=
  let units := l.flatMap (fun e => e.2.map (fun u => (e.1.so + u.1, u.2)))
  if !c.asked then
    (some .later, forEach units (fun u q =>
      sendRemote (u.2.remote.getD 0) u.2.pa (unitOp q.now sk c u.1 u.2.n) (pieceUse sk ch c u.1 u.2.ctx) q)
      (modHead sk ch (fun y => { y with asked := true }) p))
  else
    match c.bad with
    | some e => (some (.code e), p)
    | none => if units.all (fun u => (tget c.got u.1).isSome) then (none, p) else (some .later, p)

/-- A line of a load form is moved into the stash. -/
def loadLine (sk ch : Nat) (x : Skein) (c : ReelCmd) (ps : List Piece) (p : Plan) : Option ReelStop × Plan :=
  match p.now.lineAccess x c false ps with
  | .error t => (some t, p)
  | .ok l =>
    match (if c.form = 6 then askLine sk ch c l p else (none, p)) with
    | (some t, q) => (some t, q)
    | (none, p) =>
      if !p.now.lineOpen x.core false (accessesOf l) then (some .later, p)
      else
        match touchReel sk ch true ps p with
        | (some t, q) => (some t, q)
        | (none, p) =>
          let p := forEach l (fun e => match e.1.src with
            | .mem a => actIf (formPool c.form) (meetPoolError sk a)
            | _ => id) p
          let bad := (accessesOf l).any (fun a => a.remote.isNone && (p.now.readsPoison a || p.now.hostError a)) ||
            l.any (fun e => match e.1.src with
              | .mem a => formPool c.form && p.now.poolPoisoned sk a e.1.n
              | _ => false)
          if bad then (some (.code 2), p)
          else
            let p := forEach ((accessesOf l).filter (fun a => a.remote.isNone)) (fun a q =>
              performRead (x.core / 64) a (usedXlat x.core a.ctx a.va false q)) p
            let outs := l.map (fun e => (e.1.so, loadBytes p.now sk c e))
            let p := forEach outs (fun o => engineWrite false sk x.core o.1 o.2.1) p
            (none, modChan sk ch (fun y => outs.foldl (fun z o => z.note o.2.2) y) p)

/-- One access of a store line is performed at its holder (08 R226). -/
def storeUnit (sk core so : Nat) (a : Access) : Act := fun p =>
  let data := p.now.touchBytes sk so a.n
  let p := sendOut a (performUnit (core / 64) a data) (usedXlat core a.ctx a.va true p)
  dropL1 core (lineOf a.pa) (seenByCore core (0, a.pa, a.n) data p)

/-- A line of a store form is performed at its destination. -/
def storeLine (sk ch : Nat) (x : Skein) (c : ReelCmd) (ps : List Piece) (p : Plan) : Option ReelStop × Plan :=
  let moved := ps.filter (fun q => q.src != .skip)
  match p.now.lineAccess x c true moved with
  | .error t => (some t, p)
  | .ok l =>
    if c.form = 7 && c.asked then askLine sk ch c l p
    else if !p.now.lineOpen x.core true (accessesOf l) then (some .later, p)
    else
      match touchReel sk ch false moved p with
      | (some t, q) => (some t, q)
      | (none, p) =>
        if moved.any (fun q => p.now.stashPoisoned sk q.so q.n) then (some (.code 2), p)
        else if c.form = 7 then askLine sk ch c l p
        else
          (none, forEach l (fun e q => match e.1.src with
            | .mem a =>
              if formPool c.form then poolWrite sk a (q.now.touchBytes sk e.1.so e.1.n) q
              else forEach e.2 (fun u => storeUnit sk x.core (e.1.so + u.1) u.2) q
            | _ => q) p)

/-- A channel credits a knot with the bytes of a line; a member-mode knot discards them (06 R168). -/
def creditLine (sk ch : Nat) (knot : Option Nat) (n : Nat) : Act := fun p =>
  match knot, tget p.now.skeins sk with
  | some k, some x =>
    if (x.knot k).memberMode then modChan sk ch (fun y => { y with crlost := true }) p else creditKnot sk k n p
  | _, _ => p

/-- A line has completed: the write pointer advances and the knot is credited (08 R226). -/
def endLine (sk ch : Nat) (c : ReelCmd) (ps : List Piece) : Act := fun p =>
  let n := ps.foldl (fun t q => t + q.n) 0
  let p := modChan sk ch (fun y => { y with wp := y.wp + BitVec.ofNat 64 n }) p
  let p := creditLine sk ch c.knot n p
  let d := { c with
    line := c.line + 1
    asked := false
    got := [] }
  if d.current.isNone then endCommand sk ch c p else modHead sk ch (fun _ => d) p

/-- A channel stops at a line until system software resumes it (08 R228, 12 R310). -/
def holdChannel (sk ch : Nat) (x : Skein) (src : Nat) (cause : WalkCause) (va : Nat) (write : Bool) : Act := fun p =>
  meetFault (x.core / 64)
    { ctx := x.lr.ctx, va := va, cause := cause, src := src, write := write, core := x.core % 64,
      chan := if src = 2 then ch else 0, agent := .chan sk ch, tr := {}, pos := posAt 0 }
    (modChan sk ch (fun y => { y with held := true }) p)

/-- What a stop does to the channel. -/
def stopLine (sk ch : Nat) (x : Skein) (t : ReelStop) : Act :=
  match t with
  | .hold src cause va write => holdChannel sk ch x src cause va write
  | .code e => failCommand sk ch e
  | .later => id

/-- The command at the head of a channel that runs. A skein that is stopped moves only a line whose remote
requests are out and a plaintext that has verified (06 R172, 16 R386). -/
def Skein.reelHead (x : Skein) (ch : Nat) : Option ReelCmd :=
  if (x.chan ch).held then none
  else
    match (x.chan ch).cmds.head?, x.run with
    | some c, .resident => some c
    | some c, .stopping => if c.asked || c.plain.isSome then some c else none
    | _, _ => none

/-- REEL_LINE_COMPLETE: the next line of a channel is moved (08 R226 R228). -/
def reelLine (sk ch : Nat) : Act := fun p =>
  match tget p.now.skeins sk with
  | none => p
  | some x =>
    match x.reelHead ch with
    | none => p
    | some c =>
      if c.form = 5 && c.plain.isNone then p
      else
        match c.current with
        | none => endCommand sk ch c p
        | some ps =>
          match (if formLoads c.form then loadLine sk ch x c ps p else storeLine sk ch x c ps p) with
          | (none, q) => endLine sk ch c ps q
          | (some t, q) => stopLine sk ch x t q

/-- REEL_LINE_COMPLETE (08 R226). -/
def execReelLineComplete (sk ch : Nat) (s : State) : Host.Outcome State Fault Refusal :=
  commit s (reelLine sk ch)

/-! ### Verification of `reel.dec` (16 R386) -/

/-- Where the tag of a command stands: behind the last byte of its box (08 R224). -/
def ReelCmd.tagAt (c : ReelCmd) : Nat :=
  let last : Int := (c.base + c.shape.boff : Nat) +
    (c.origin.getD 0 0 + c.shape.boxAt 0 - 1) * c.shape.strideAt 0 + 1
  (last % (2 ^ 51 : Nat)).toNat

/-- The bytes of the IV: the stream identifier and the counter, each little-endian (08 R224; log 25). -/
def ReelCmd.iv (c : ReelCmd) : List Nat :=
  (bytesOf c.stream 4 ++ bytesOf c.counter 8).map (fun b => b.toNat)

/-- The checks of a verification in their order, against the slot as it stands: a status, or the plaintext
(16 R386). -/
def decOutcome (ctx : Nat) (slot : KeySlot) (c : ReelCmd) (text tag : List Byte) : BitVec 8 × List Byte :=
  let r := gcmOpen ((bytesOf slot.key.toNat 32).map (fun b => b.toNat)) c.iv (text.map (fun b => b.toNat))
  if !slot.inst || slot.ctx.toNat != ctx || BitVec.ofNat 32 c.stream != slot.stream then (6, [])
  else if c.counter ≤ slot.lastctr.toNat then (5, [])
  else if r.2 != tag.map (fun b => b.toNat) then (4, [])
  else (0, r.1.map (BitVec.ofNat 8))

/-- A key slot changed. -/
def modSlot (n : Nat) (g : KeySlot → KeySlot) : Act :=
  modRest (fun s => { s with slots := tput s.slots n (g (tgetD s.slots n {})) })

/-- REEL_DEC_VERIFY: the ciphertext and the tag are read, and the plaintext is released or discarded
(16 R386). -/
def verifyDec (sk ch : Nat) : Act := fun p =>
  match tget p.now.skeins sk with
  | none => p
  | some x =>
    match x.reelHead ch with
    | none => p
    | some c =>
      if c.form != 5 || c.plain.isSome then p
      else
        let tag : Piece := { so := 0, n := 16, src := .mem c.tagAt }
        let ps := (boxIndices [c.shape.boxAt 0]).map c.piece ++ [tag]
        match p.now.lineAccess x c false ps with
        | .error t => stopLine sk ch x t p
        | .ok l =>
          if !p.now.lineOpen x.core false (accessesOf l) then p
          else if (accessesOf l).any (fun a => p.now.readsPoison a || p.now.hostError a) then failCommand sk ch 2 p
          else
            let p := forEach (accessesOf l) (fun a q =>
              performRead (x.core / 64) a (usedXlat x.core a.ctx a.va false q)) p
            let all := l.flatMap (fun e => (loadBytes p.now sk c e).1)
            let n := all.length - 16
            let k := (c.buffer.map (fun b => b.kslot)).getD 0
            match decOutcome x.lr.ctx (tgetD p.now.slots k {}) c (all.take n) (all.drop n) with
            | (0, plain) =>
              modHead sk ch (fun y => { y with plain := some plain })
                (modSlot k (fun y => { y with lastctr := BitVec.ofNat 64 c.counter }) p)
            | (4, _) => failCommand sk ch 4 (modSlot k (fun y => { y with fails := y.fails + 1 }) p)
            | (e, _) => failCommand sk ch e p

/-- REEL_DEC_VERIFY (16 R386). -/
def execReelDecVerify (sk ch : Nat) (s : State) : Host.Outcome State Fault Refusal :=
  commit s (verifyDec sk ch)

end Sys2Proof.Machine
end

