-- ==== Sys2Proof/Machine/Mvc.lean ====
section
/-! DEFINITION. `mvc` and `mvc.acc`: a network layer from the constant store on the registers of a fibre
(08 R229-R231). -/

namespace Sys2Proof.Machine

open Sys2Proof

/-- The descriptor of a layer (08 R230). -/
structure MvcLayer where
  rows : Nat
  cols : Nat
  woff : Nat
  boff : Nat
  act : Nat
  reserved : Nat
  deriving DecidableEq, Repr

/-- The layer that 16 bytes describe. -/
def MvcLayer.ofRecord (x : Nat) : MvcLayer :=
  { rows := bitsOf x 15 0, cols := bitsOf x 31 16, woff := bitsOf x 63 32, boff := bitsOf x 95 64,
    act := bitsOf x 103 96, reserved := bitsOf x 127 104 }

/-- The layer has no biases. -/
def MvcLayer.unbiased (l : MvcLayer) : Bool := l.boff == 0xFFFFFFFF

/-- The fields of the descriptor are legal (08 R231, detail 0x03). -/
def MvcLayer.legal (l : MvcLayer) : Bool :=
  1 ≤ l.rows && l.rows ≤ 32 && 1 ≤ l.cols && l.cols ≤ 32 && l.act ≤ 2 && l.reserved == 0

/-- Weights and biases lie in the image (08 R231, detail 0x02). -/
def MvcLayer.within (l : MvcLayer) (clen : Nat) : Bool :=
  l.woff % 4 == 0 && l.woff + 4 * l.rows * l.cols ≤ clen &&
    (l.unbiased || (l.boff % 4 == 0 && l.boff + 4 * l.rows ≤ clen))

/-- The f32 at an offset of the constant store of a core. -/
def State.constFloat (s : State) (core off : Nat) : Nat := ofBytes (s.constBytes core off 4)

/-- The fused steps of an output, in ascending input, from an accumulator (08 R231). An accumulator that
a step has computed is no source that the lane reads. -/
def mvcSum : List (Nat × Nat) → FRes → FRes
  | [], r => r
  | (w, x) :: l, r =>
    let y := fFma .f32 {} (FV.of .f32 w) (FV.of .f32 x) (FV.of .f32 r.bits)
    mvcSum l { y with cond := { y.cond.merge r.cond with nfi := r.cond.nfi } }

/-- The activation of a layer applied to an output (08 R231). -/
def mvcActivate (act : Nat) (r : FRes) : FRes :=
  match act with
  | 0 => r
  | 1 =>
    let y := fTanh .f32 {} (FV.of .f32 r.bits)
    { y with cond := { y.cond.merge r.cond with nfi := r.cond.nfi } }
  | _ =>
    { r with bits := match FV.of .f32 r.bits with
      | .nan => Fmt.f32.nanPat
      | .inf n => if n then 0 else r.bits
      | .fin n m _ => if n || m = 0 then 0 else r.bits }

/-- Where an output starts: the old destination, the bias, or +0 (08 R231). -/
def State.mvcStart (s : State) (acc : Bool) (l : MvcLayer) (y : Lane) (d i : Nat) : Nat :=
  if acc then (y.f.reg (d + i)).toNat
  else if l.unbiased then 0
  else s.constFloat y.x.core (l.boff + 4 * i)

/-- One output of a lane, with the conditions of its steps and of the sources that it reads. -/
def State.mvcRow (s : State) (acc : Bool) (l : MvcLayer) (y : Lane) (d a i : Nat) : FRes :=
  let start := s.mvcStart acc l y d i
  let pairs := (List.range l.cols).map (fun j =>
    (s.constFloat y.x.core (l.woff + 4 * (i * l.cols + j)), (y.f.reg (a + j)).toNat))
  let reads := start :: pairs.flatMap (fun e => [e.1, e.2])
  mvcActivate l.act (mvcSum pairs
    { bits := start, cond := { nfi := reads.any (fun w => (FV.of .f32 w).nonfinite) } })

/-- All outputs of a lane, the first in the low bits. -/
def State.mvcRows (s : State) (acc : Bool) (l : MvcLayer) (y : Lane) (d a : Nat) : List Nat → FRes
  | [] => { bits := 0 }
  | i :: r =>
    let x := s.mvcRow acc l y d a i
    let t := s.mvcRows acc l y d a r
    { bits := x.bits + 2 ^ 32 * t.bits, cond := x.cond.merge t.cond }

/-- The trap of a descriptor (08 R231). -/
def mvcTrap (lanes : List Lane) (detail : Nat) : Act :=
  trapWord { cause := .constBounds, detail := detail, mask := maskOf lanes }

/-- A word of this family: the checks of the descriptor in their order, then every active lane computes.
Where no lane is active nothing reads the descriptor, and no check of it fails. -/
def mvcWord (acc : Bool) (d a layer : Nat) : Act :=
  fibreWord {} anyone (fun _ lanes p =>
    match lanes with
    | [] => p
    | y :: _ =>
      let on := lanes.filter (fun l => l.on)
      let fits : Bool := decide (16 * layer + 16 ≤ y.x.lr.clen)
      let l := MvcLayer.ofRecord (ofBytes (p.now.constBytes y.x.core (16 * layer) 16))
      let bad : Option Nat := if !fits then some 1 else if !l.legal then some 3 else none
      match bad with
      | some e => if on.isEmpty then retire p else mvcTrap on e p
      | none =>
        let src : List Opd := [{ r := a, n := l.cols, al := 1 }]
        let rg : Regs :=
          { src := if acc then { r := d, n := l.rows, al := 1 } :: src else src
            dst := [{ r := d, n := l.rows, al := 1 }] }
        if (rg.check y.x.lr.regs false).isSome then
          trapWord { cause := .illegalField, mask := maskOf lanes } p
        else if !l.within y.x.lr.clen && !on.isEmpty then mvcTrap on 2 p
        else
          laneWord rg (fun s y => floatOut y d l.rows (s.mvcRows acc l y d a (List.range l.rows))) p)

/-- `mvc` (08 R231). -/
def execMvc (d a : BitVec 7) (l : BitVec 8) (s : State) : Host.Outcome State Fault Refusal :=
  commit s (mvcWord false d.toNat a.toNat l.toNat)

/-- `mvc.acc` (08 R231). -/
def execMvcAcc (d a : BitVec 7) (l : BitVec 8) (s : State) : Host.Outcome State Fault Refusal :=
  commit s (mvcWord true d.toNat a.toNat l.toNat)

end Sys2Proof.Machine
end

