-- ==== Sys2Proof/Machine/Fetch.lean ====
section
/-! DEFINITION. The fetch of a clause through the cluster's instruction cache, the checks of its header and
its counter thresholds (02 R41-R43 R46 R47, 04 R97 R112 R118, 11 R282 R283). -/

namespace Sys2Proof.Machine

open Sys2Proof

/-! ### The instruction cache -/

/-- The key of a line of code: its physical line, with the device of a remote one above it. -/
def codeLine (dev : Option Nat) (pa : Nat) : Nat := lineOf pa + ((dev.map (fun d => d + 1)).getD 0) * 2 ^ 45

/-- The bytes of a line of code as a fill reads them from this package or the host. Poisoned bytes, and those of host
memory whose completion returns an error, are free values (log 22, log 40). -/
def State.codeBytes (s : State) (line : Nat) : List Byte :=
  (List.range 128).map (fun i =>
    let a := line * 128 + i
    if isPackage a then (if s.poisonedAt a then Config.poisonByte (s.fresh + i) else s.cohByte a)
    else if isHost a && Config.hostFails s.fresh then Config.poisonByte (s.fresh + i)
    else s.byte a)

/-- The cluster of a core, as an index over the package. -/
def clusterOf (core : Nat) : Nat := core / 8

/-- A line of code that the cache of a cluster holds. -/
def State.cachedCode (s : State) (clus line : Nat) : Option (List Byte) :=
  tget ((tget s.icache clus).getD []) line

/-- The cache of a cluster is asked for a line. -/
def askCode (clus line : Nat) : Act := modRest (fun s =>
  let l := (tget s.ifetch clus).getD []
  { s with ifetch := tput s.ifetch clus (sadd l line) })

/-- A line that the cache of a cluster asked for is held, and at most 2,048 lines are. Another line may be replaced
(11 R282; log 5). -/
def keepCode (clus line : Nat) (bytes : List Byte) : Act := fun p =>
  let old := (tget p.now.icache clus).getD []
  let room := decide (old.length < 2048) && !Config.flip p.now.fresh
  let old := if room then old else old.eraseIdx (Config.choose p.now.fresh % old.length)
  let p := modRest (fun s =>
    { s with
      ifetch := tput s.ifetch clus (sdel ((tget s.ifetch clus).getD []) line)
      fresh := s.fresh + 1 }) p
  p.emit (.icache clus (tput old line bytes))

/-- A line of code that a fetch finds in error is discarded, and the fetch misses it; otherwise the clause is there
(11 R282; log 62). -/
def useLine (clus line : Nat) (miss there : Act) : Act := fun p =>
  let q := bumpFresh p
  if Config.softError p.now.fresh then
    miss (q.emit (.icache clus (tdel ((tget p.now.icache clus).getD []) line)))
  else there q

/-- A fill ends: the line is held with the bytes it has now. A line of a remote device is asked for, and comes
with the answer (16 R390; log 13). -/
def fillCode (clus line : Nat) : Act := fun p =>
  if !((tget p.now.ifetch clus).getD []).contains line then p
  else if 2 ^ 45 ≤ line then
    if p.now.remotes.any (fun e => e.2.use == .code clus line) then p
    else sendRemote (line / 2 ^ 45 - 1) (line % 2 ^ 45 * 128) (.read 128) (.code clus line) p
  else if isPackage (line * 128) && p.now.lineHeld none line then p
  else noteUnitRead (clus / 8) (line * 128) 128 (keepCode clus line (p.now.codeBytes line) p)

/-- The answer for a line of code; one that brings no bytes is asked for again (16 R390; log 13). -/
def answerCode (clus line : Nat) (r : RemoteResp) : Act := fun p =>
  match r with
  | .data b => actIf (((tget p.now.ifetch clus).getD []).contains line) (keepCode clus line b) p
  | _ => p

/-- INSTRUCTION_CACHE_FILL (11 R283). -/
def execInstructionCacheFill (clus line : Nat) (s : State) : Host.Outcome State Fault Refusal :=
  commit s (fillCode clus line)

/-! ### The checks of a fetch (04 R97) -/

/-- What the checks of a fetch give. -/
inductive Fetch where
  /-- The line that holds the bytes. -/
  | line (key : Nat)
  | walk (n : Need)
  /-- The line of the code buffer's entry is held (15 R362). -/
  | wait
  | trap (t : Trap)

/-- The checks of R131 through the code buffer, at an address; a failure names `at_`. -/
def State.fetchAt (s : State) (agent : Agent) (core : Nat) (lr : LaunchRec) (va n at_ : Nat) : Fetch :=
  if s.entryHeld core lr.ctx lr.codebuf then .wait
  else
  match s.buf core lr.ctx lr.codebuf with
  | none => .trap { cause := .binding, addr := at_ }
  | some e =>
    if e.owner != lr.ctx then .trap { cause := .owner, addr := at_ }
    else if !e.ex then .trap { cause := .rights, addr := at_ }
    else if va < e.base || e.base + e.len < va + n then .trap { cause := .bounds, addr := at_ }
    else
      match s.translate agent core lr.ctx va false (some e.ilv) with
      | .missing => .walk { ctx := lr.ctx, va := va, write := false, ilv := some e.ilv }
      | .fault c => .trap (walkTrap c at_ 0 0)
      | .page x =>
        if isRegister (x.pa va) || (bitOf x.pte.toNat 11 && e.kslot == 0) then
          .trap { cause := .rights, addr := at_ }
        else .line (codeLine (if e.ilv = 3 then some e.rdev else none) (x.pa va))

/-- A clause as it stands in a line, at an address. -/
def clauseIn (bytes : List Byte) (hdr : VAddr) : Clause :=
  let word := fun i => BitVec.ofNat 32 (ofBytes ((bytes.drop (hdr.toNat % 128 + 4 * i)).take 4))
  let head := word 0
  { hdr := hdr, head := head,
    words := (List.range (Header.ofWord head.toNat).n.toNat).map (fun i => word (i + 1)) }

/-- The header of a clause. -/
def Clause.header (c : Clause) : Header := Header.ofWord c.head.toNat

/-- A place lies behind the header of the clause and within it. -/
def Clause.holds (c : Clause) (pc : VAddr) : Bool :=
  (c.hdr.toNat < pc.toNat && pc.toNat ≤ c.hdr.toNat + 4 * c.header.n.toNat)

/-- How far the fetch of a clause has come. -/
inductive Fetched2 where
  /-- The clause, and the line that holds it. -/
  | clause (c : Clause) (line : Nat)
  | walk (n : Need)
  | wait
  | miss (line : Nat)
  | trap (t : Trap)

/-- The clause at a place: its header and its words are fetched with the checks of R97. -/
def State.fetchClause (s : State) (agent : Agent) (core : Nat) (lr : LaunchRec) (pos : Pos) : Fetched2 :=
  if pos.pc.toNat % 4 != 0 then .trap { cause := .misaligned, addr := pos.pc.toNat }
  else
    match s.fetchAt agent core lr pos.hdr.toNat 4 pos.pc.toNat with
    | .trap t => .trap t
    | .walk n => .walk n
    | .wait => .wait
    | .line key =>
      match s.cachedCode (clusterOf core) key with
      | none => .miss key
      | some b =>
        let c := clauseIn b pos.hdr
        if !c.header.formOk pos.hdr.toNat then .clause c key
        else
          match s.fetchAt agent core lr pos.hdr.toNat (4 * (c.header.n.toNat + 1)) pos.pc.toNat with
          | .trap t => .trap t
          | _ => .clause c key

/-! ### CLAUSE_ISSUE of a strand -/

/-- Fibres of a strand take a trap that is met before any word issues; `word` is the header, or 0 for a
fetch (04 R97, 02 R41). -/
def trapAtHeader (n : Nat) (ks : List Nat) (t : Trap) (pos : Pos) (word : Word) : Act := fun p =>
  let mask := maskOf ((p.now.strandFibres ((tget p.now.strands n).getD
      { core := 0, slot := 0, active := false, fibs := [], pos := pos })).filterMap (fun e =>
    if ks.contains e.1 then (tget p.now.skeins e.2.sk).map (fun x =>
      ({ k := e.1, f := e.2, x := x, act := .active } : Lane)) else none))
  forEach ks (fun k => trapFibre k { t with mask := mask } pos word none) (leaveStrand n ks p)

/-- A miss holds a strand: every fibre of it counts one, once for a clause (01 R17, 11 R283). -/
def missLine (n : Nat) (x : Strand) (line : Nat) : Act := fun p =>
  let p := askCode (clusterOf x.core) line p
  if x.missed then p
  else
    forEach (nub x.fibs) (fun k => modFibre k (fun f => { f with slip := f.slip + 1 }))
      (modStrand n (fun y => { y with missed := true }) (waitStrand n p))

/-- The strand stands at a place with a clause, or with none. -/
def placeStrand (n : Nat) (x : Strand) (pos : Pos) (c : Option Clause) : Act := fun p =>
  forEach x.fibs (fun k => modFibre k (fun f => { f with pos := pos }))
    (modStrand n (fun y =>
      { y with
        pos := pos
        clause := c
        missed := false
        waits := false }) p)

/-- The lanes that stopped at the word of their wait, for which the thresholds now hold, wait there again
(04 R127; log 45). -/
def rejoinLanes (n : Nat) (lanes : List Lane) (pc : VAddr) (c : Clause) : Act := fun p =>
  let ls := lanes.filter (fun l => (l.f.rejoin.map (fun r => r.at_ == pc)).getD false)
  if ls.isEmpty then p
  else
    let p := forEach ls (fun l => modFibre l.k (fun f =>
      match f.rejoin with
      | none => f
      | some r =>
        if l.x.halted then { f with run := .halted (some (r.wait, r.next)), rejoin := none }
        else { f with run := .parked r.wait r.next, clause := some c, rejoin := none }))
      (leaveStrand n (ls.map (fun l => l.k)) p)
    forEach (ls.foldl (fun m l => sadd m l.f.sk) []) retestWaits p

/-- A fibre that goes on elsewhere, outside its handler, has no wait to take up again. -/
def dropRejoin (lanes : List Lane) (pc : VAddr) : Act :=
  forEach (lanes.filter (fun l => !l.f.h && (l.f.rejoin.map (fun r => r.at_ != pc)).getD false))
    (fun l => modFibre l.k (fun f => { f with rejoin := none }))

/-- Every fibre of the strand meets the thresholds of a clause (02 R42). -/
def headerAdmits (h : Header) (f : Fibre) (x : Skein) : Bool :=
  withinBounds f x h.ldt.toNat h.stt.toNat h.cpt.toNat h.tlt.toNat

/-- The clause of a strand is there: it is skipped, waits for its thresholds, or begins (02 R41 R42 R46).
A place outside the clause of a resumed word is the next header (04 R123). -/
def beginClause (n : Nat) (x : Strand) (lanes : List Lane) (c : Clause) : Act := fun p =>
  let h := c.header
  let bad := fun (ks : List Nat) => trapAtHeader n ks { cause := .clauseFormat } (posAt x.pos.hdr) c.head
  if !h.formOk x.pos.hdr.toNat then bad x.fibs p
  else if fibreSkips h.cls.toNat then
    match lanes.filter (fun l => l.f.pos.jumped) with
    | [] => placeStrand n x (posAt c.fall) none p
    | l => bad (l.map (fun y => y.k)) p
  else
    match lanes.filterMap (fun y => (y.f.poisonBlocks h.ldt.toNat).map (fun e => (y, e))) with
    | y :: l => trapPoison n (y :: l) p
    | [] =>
      if !lanes.all (fun y => headerAdmits h y.f y.x) then waitStrand n p
      else if x.pos.pc == x.pos.hdr then
        placeStrand n x { pc := x.pos.hdr + 4, hdr := x.pos.hdr } (some c) (dropRejoin lanes x.pos.pc p)
      else if c.holds x.pos.pc then
        rejoinLanes n lanes x.pos.pc c
          (placeStrand n x { pc := x.pos.pc, hdr := x.pos.hdr } (some c) (dropRejoin lanes x.pos.pc p))
      else
        placeStrand n x (if x.pos.pc == c.fall then posAt x.pos.pc else posTo x.pos.pc) none p

/-- CLAUSE_ISSUE for a strand that stands before a clause. Fibres of a halted skein stop at a header
(04 R118). -/
def strandClause (n : Nat) : Act := fun p =>
  match tget p.now.strands n with
  | none => p
  | some x =>
    if x.clause.isSome || !p.now.strandRuns x then p
    else
      let lanes := p.now.lanes x
      let hs := lanes.filter (fun l => l.x.halted && x.pos.pc == x.pos.hdr)
      match hs, lanes with
      | l :: r, _ =>
        forEach (l :: r) (fun y => haltFibre y.k none) (leaveStrand n ((l :: r).map (fun y => y.k)) p)
      | [], [] => p
      | [], l :: _ =>
        let agent : Agent := .who (.strand n)
        let die := x.core / 64
        match p.now.fetchClause agent x.core l.x.lr x.pos with
        | .walk d => postWalk die agent d p
        | .wait => p
        | .trap t => trapAtHeader n x.fibs t x.pos 0 (dropWalks die agent p)
        | .miss line => missLine n x line (dropWalks die agent p)
        | .clause c line =>
          useLine (clusterOf x.core) line (missLine n x line)
            (fun p => beginClause n x lanes c (cacheBuf x.core l.x.lr.ctx l.x.lr.codebuf p)) (dropWalks die agent p)

/-! ### CLAUSE_ISSUE of a front context -/

/-- A front context stands at a place with a clause, or with none. -/
def placeFront (k : Nat) (pos : Pos) (c : Option Clause) : Act :=
  modFront k (fun f =>
    { f with
      pos := pos
      clause := c })

/-- The clause of a front context is there (02 R41 R42 R46). -/
def beginFront (k : Nat) (x : Skein) (c : Clause) : Act := fun p =>
  let h := c.header
  let pos := x.front.pos
  let bad := trapFront k { cause := .clauseFormat } { posAt pos.hdr with jumped := pos.jumped } c.head
  if !h.formOk pos.hdr.toNat then bad p
  else if frontSkips h.cls.toNat then
    if pos.jumped then bad p else placeFront k (posAt c.fall) none p
  else if h.ldt != 15 || h.stt != 15 then bad p
  else if !(x.cp ≤ h.cpt.toNat && x.tl ≤ h.tlt.toNat) then p
  else if pos.pc == pos.hdr then placeFront k { pc := pos.hdr + 4, hdr := pos.hdr } (some c) p
  else if c.holds pos.pc then placeFront k { pc := pos.pc, hdr := pos.hdr } (some c) p
  else placeFront k (if pos.pc == c.fall then posAt pos.pc else posTo pos.pc) none p

/-- CLAUSE_ISSUE for a front context that stands before a clause (06 R162). -/
def frontClause (k : Nat) : Act := fun p =>
  match tget p.now.skeins k with
  | none => p
  | some x =>
    if x.front.run != .ready || x.run != .resident || x.front.clause.isSome then p
    else if x.halted && x.front.pos.pc == x.front.pos.hdr then
      modFront k (fun f => { f with run := .halted }) p
    else
      let agent : Agent := .who (.front k)
      let die := x.core / 64
      match p.now.fetchClause agent x.core x.lr x.front.pos with
      | .walk d => postWalk die agent d p
      | .wait => p
      | .trap t => trapFront k t x.front.pos 0 (dropWalks die agent p)
      | .miss line => askCode (clusterOf x.core) line (dropWalks die agent p)
      | .clause c line =>
        useLine (clusterOf x.core) line (askCode (clusterOf x.core) line)
          (fun p => beginFront k x c (cacheBuf x.core x.lr.ctx x.lr.codebuf p)) (dropWalks die agent p)

/-- CLAUSE_ISSUE (02 R42). -/
def execClauseIssue (who : Who) (s : State) : Host.Outcome State Fault Refusal :=
  commit s (match who with
    | .strand n => strandClause n
    | .front k => frontClause k)

/-! ### ipf (04 R112) -/

/-- The line of an address for the cache of a cluster, where the code binding and a translation give it. -/
def prefetch (core : Nat) (lr : LaunchRec) (va : Nat) : Act := fun p =>
  match p.now.buf core lr.ctx lr.codebuf with
  | none => p
  | some e =>
    if e.owner != lr.ctx || !e.ex || va < e.base || e.base + e.len < va + 4 then p
    else
      match p.now.xlateNow core lr.ctx va false (some e.ilv) with
      | .error _ => p
      | .ok x =>
        let line := codeLine (if e.ilv = 3 then some e.rdev else none) (x.pa va)
        if isRegister (x.pa va) || (p.now.cachedCode (clusterOf core) line).isSome then p
        else askCode (clusterOf core) line (usedXlat core lr.ctx va false p)

/-- `ipf` (04 R112). -/
def execIpf (o : BitVec 22) (s : State) : Host.Outcome State Fault Refusal :=
  commit s (branchWord (fun _ x lanes p =>
    match lanes with
    | [] => p
    | l :: _ => retire (prefetch x.core l.x.lr (x.target o).toNat p)))

end Sys2Proof.Machine
end

