-- ==== Sys2Proof/Machine/System.lean ====
section
/-! DEFINITION. System words of major 0x3E but `launch`: special registers, the overflow table, the
clock, the return from a handler, and `halt` (01 R15-R21, 04 R113-R118 R123). -/

namespace Sys2Proof.Machine

open Sys2Proof

/-! ### Special registers (01 R15) -/

/-- The values of the work-identifier fields: fibre-level fields count in sr.fibre, the others in
sr.skein, fields of lower number vary fastest (06 R154). -/
def widValues : List WidField → Nat → Nat → List Nat
  | [], _, _ => []
  | w :: r, fi, si =>
    if w.level = 0 then fi % w.extent :: widValues r (fi / w.extent) si
    else si % w.extent :: widValues r fi (si / w.extent)

/-- The fields concatenated from bit 0 upward at their widths (01 R15). -/
def widPack : List WidField → List Nat → Nat
  | w :: r, v :: q => v % 2 ^ w.width + 2 ^ w.width * widPack r q
  | _, _ => 0

/-- A special register of more than 32 bits, moved through a pair (01 R15 R21). -/
def specialWide (n : Nat) : Bool :=
  n == 0x08 || n == 0x10 || n == 0x12 || n == 0x13 || (0x18 ≤ n && n ≤ 0x1F) ||
    (0x21 ≤ n && n ≤ 0x25)

/-- A special register that only supervisor code writes: sr.ctl and the trap record (01 R15). -/
def specialRS (n : Nat) : Bool := n == 0x12 || (0x20 ≤ n && n ≤ 0x25)

/-- A special register as a fibre reads it (01 R15). -/
def readSpecial (s : State) (f : Fibre) (x : Skein) (n : Nat) : DWord :=
  let wv := widValues x.lr.wid f.idx.toNat x.idx
  match n with
  | 0x00 => f.lane.zeroExtend 64
  | 0x01 => f.idx.zeroExtend 64
  | 0x02 => BitVec.ofNat 64 x.idx
  | 0x03 => BitVec.ofNat 64 (x.core % 64)
  | 0x04 => BitVec.ofNat 64 (x.core % 64 / 8)
  | 0x05 => BitVec.ofNat 64 (x.core / 64)
  | 0x06 => s.devnum.zeroExtend 64
  | 0x08 => BitVec.ofNat 64 (widPack x.lr.wid wv)
  | 0x09 => BitVec.ofNat 64 (wv.getD 0 0)
  | 0x0A => BitVec.ofNat 64 (wv.getD 1 0)
  | 0x0B => BitVec.ofNat 64 (wv.getD 2 0)
  | 0x0C => BitVec.ofNat 64 (wv.getD 3 0)
  | 0x0D => BitVec.ofNat 64 (wv.getD 4 0)
  | 0x0E => BitVec.ofNat 64 (wv.getD 5 0)
  | 0x10 => s.clk
  | 0x11 => f.fpc.zeroExtend 64
  | 0x12 => x.ctl
  | 0x13 => f.dtag.zeroExtend 64
  | 0x14 => f.spass.zeroExtend 64
  | 0x15 => f.slip.zeroExtend 64
  | 0x18 => laneBlock x.lane0 x.lr.span
  | 0x19 => tgetD f.m 1 0
  | 0x1A => tgetD f.m 2 0
  | 0x1B => tgetD f.m 3 0
  | 0x1C => tgetD f.m 4 0
  | 0x1D => tgetD f.m 5 0
  | 0x1E => tgetD f.m 6 0
  | 0x1F => tgetD f.m 7 0
  | 0x20 => f.tr.cause.zeroExtend 64
  | 0x21 => f.tr.pc.zeroExtend 64
  | 0x22 => f.tr.mask
  | 0x23 => f.tr.addr
  | 0x24 => f.tr.aux
  | 0x25 => f.tr.word
  | _ => 0

/-- A special register as a front context reads it (04 R115). -/
def readFrontSpecial (s : State) (x : Skein) (n : Nat) : DWord :=
  match n with
  | 0x02 => BitVec.ofNat 64 x.idx
  | 0x03 => BitVec.ofNat 64 (x.core % 64)
  | 0x04 => BitVec.ofNat 64 (x.core % 64 / 8)
  | 0x05 => BitVec.ofNat 64 (x.core / 64)
  | 0x06 => s.devnum.zeroExtend 64
  | 0x10 => s.clk
  | 0x12 => x.ctl
  | _ => 0

/-- A member mask written: the value AND m0; m0 itself is read-only (01 R16). -/
def Fibre.setMask (f : Fibre) (block : DWord) (i : Nat) (w : DWord) : Fibre :=
  if i = 0 then f else { f with m := tputD f.m i 0 (w &&& block) }

/-- A value that a `wsr` refuses with ILLEGAL_FIELD (01 R19 R20). -/
def specialRefused (n : Nat) (w : DWord) : Bool :=
  if n = 0x11 then !fpcLegal (w.setWidth 32)
  else if n = 0x12 then bitsOf w.toNat 29 24 == 0 || bitsOf w.toNat 39 32 == 0
  else false

/-- A special register of a fibre written, but for sr.ctl, which belongs to the skein (01 R15). -/
def writeSpecial (f : Fibre) (block : DWord) (n : Nat) (w : DWord) : Fibre :=
  if n = 0x11 then { f with fpc := w.setWidth 32 }
  else if n = 0x14 then { f with spass := w.setWidth 32 }
  else if n = 0x15 then { f with slip := w.setWidth 32 }
  else if 0x19 ≤ n && n ≤ 0x1F then f.setMask block (n - 0x18) w
  else if n = 0x20 then { f with tr := { f.tr with cause := w.setWidth 8 } }
  else if n = 0x21 then { f with tr := { f.tr with pc := w.setWidth 51 } }
  else if n = 0x22 then { f with tr := { f.tr with mask := w } }
  else if n = 0x23 then { f with tr := { f.tr with addr := w } }
  else if n = 0x24 then { f with tr := { f.tr with aux := w } }
  else if n = 0x25 then { f with tr := { f.tr with word := w } }
  else f

/-- sr.ctl written: ROUTE, DEMOTE, MTC, BINFULL and BINAGE; OVT and SUP stay (04 R115). -/
def writeCtl (ctl w : DWord) : DWord :=
  (ctl &&& ~~~ 0x000000FF3FFF0000) ||| (w &&& 0x000000FF3FFF0000)

/-! ### rsr, wsr, rdclk -/

/-- `rsr` of register `n` in a fibre (04 R115). -/
def readWord (d : BitVec 7) (n : Nat) : Act :=
  laneWord { dst := [if specialWide n then two d else one d] } (fun s l =>
    let w := readSpecial s l.f l.x n
    .ok (if specialWide n then l.f.setPair d.toNat w else l.f.set d.toNat (w.setWidth 32)))

/-- A special-register number that is not listed (01 R15). -/
def unlisted : Act :=
  fibreWord {} anyone (fun _ lanes => trapWord { cause := .illegalField, mask := maskOf lanes })

/-- `rsr` in a fibre (04 R115). -/
def execRsr (d : BitVec 7) (r : BitVec 8) (s : State) : Host.Outcome State Fault Refusal :=
  commit s (if specialListed r.toNat then readWord d r.toNat else unlisted)

/-- `rsr` in a front context, of a register that it may read (04 R115). -/
def frontRead (d : BitVec 6) (n : Nat) : Act :=
  frontWord [] anyone (fun k x p =>
    if (n == 2 || n == 3 || n == 4 || n == 5 || n == 6 || n == 0x10 || n == 0x12) then
      retire (modFront k (fun f => f.set d.toNat (readFrontSpecial p.now x n)) p)
    else trapWord { cause := .illegalField } p)

/-- `rsr` in a front context (04 R115). -/
def execRsrFront (d : BitVec 6) (r : BitVec 8) (s : State) : Host.Outcome State Fault Refusal :=
  commit s (frontRead d r.toNat)

/-- `rdclk`: `rsr` of sr.clk (04 R115). -/
def execRdclk (d : BitVec 7) (s : State) : Host.Outcome State Fault Refusal :=
  commit s (readWord d 0x10)

/-- `rdclk` in a front context (04 R115). -/
def execRdclkFront (d : BitVec 6) (s : State) : Host.Outcome State Fault Refusal :=
  commit s (frontRead d 0x10)

/-- The value that a `wsr` of register `n` writes. -/
def specialValue (f : Fibre) (a n : Nat) : DWord :=
  if specialWide n then f.pair a else (f.reg a).zeroExtend 64

/-- `wsr` in a fibre: user code may not write an RS register, a refused value traps the lanes that hold
it, a write to a read-only register is ignored (01 R15, 04 R115). Where lanes of one skein hold different values
for sr.ctl, the last lane's stands (log 47). -/
def execWsr (a : BitVec 7) (r : BitVec 8) (s : State) : Host.Outcome State Fault Refusal :=
  let n := r.toNat
  commit s (if !specialListed n then unlisted else fibreWord { src := [if specialWide n then two a else one a] }
    (fun x => specialRS n && !x.lr.sup) (fun _ lanes p =>
      let val := fun (l : Lane) => specialValue l.f a.toNat n
      match worstTrap ((lanes.filter (fun l => specialRefused n (val l))).map (fun l =>
        { cause := .illegalField, mask := l.bit })) with
      | some t => trapWord t p
      | none =>
        let p := forEach lanes (fun l => modFibre l.k (fun f =>
          writeSpecial f (laneBlock l.x.lane0 l.x.lr.span) n (val l))) p
        retire (actIf (n == 0x12) (forEach lanes (fun l =>
          modSkein l.f.sk (fun x => { x with ctl := writeCtl x.ctl (val l) }))) p)))

/-- `wsr` in a front context: it may write sr.ctl alone (04 R115). -/
def execWsrFront (a : BitVec 6) (r : BitVec 8) (s : State) : Host.Outcome State Fault Refusal :=
  commit s (frontWord [a.toNat] anyone (fun k x p =>
    if r != 0x12 then trapWord { cause := .illegalField } p
    else if !x.lr.sup then trapWord { cause := .privileged } p
    else if specialRefused 0x12 (x.front.reg a.toNat) then trapWord { cause := .illegalField } p
    else retire (modSkein k (fun y => { y with ctl := writeCtl y.ctl (x.front.reg a.toNat) }) p)))

/-! ### lovt -/

/-- The overflow table of a skein loaded (04 R116). -/
def loadOvt (k : Nat) (w : Word) : Act :=
  modSkein k (fun x => { x with
    ctl := (x.ctl &&& ~~~ 0xFFFF) ||| ((w &&& 0xFFFF).zeroExtend 64) })

/-- A `tst` or a `reel.exp` of the skein has not completed: `lovt` waits for it (04 R116). -/
def Skein.converting (x : Skein) : Bool :=
  x.tops.any (fun o => o.minor == 4) || x.chans.any (fun e => e.2.cmds.any (fun c => c.form == 4))

/-- `lovt` in a fibre (04 R116). Where lanes of one skein hold different tables, the last lane's stands
(log 47). -/
def execLovt (a : BitVec 7) (s : State) : Host.Outcome State Fault Refusal :=
  commit s (fibreWord { src := [one a] } supervisorOnly (fun _ lanes p =>
    let bad := lanes.filter (fun l => !ovtLegal ((l.f.reg a.toNat).setWidth 16))
    if !bad.isEmpty then trapWord { cause := .illegalField, mask := maskOf bad } p
    else if lanes.any (fun l => l.x.converting) then hold p
    else retire (forEach lanes (fun l => loadOvt l.f.sk (l.f.reg a.toNat)) p)))

/-- `lovt` in a front context (04 R116). -/
def execLovtFront (a : BitVec 6) (s : State) : Host.Outcome State Fault Refusal :=
  commit s (frontWord [a.toNat] supervisorOnly (fun k x p =>
    if !ovtLegal ((x.front.reg a.toNat).setWidth 16) then trapWord { cause := .illegalField } p
    else if x.converting then p
    else retire (loadOvt k ((x.front.reg a.toNat).setWidth 32) p)))

/-! ### tret and halt -/

/-- `tret`: with H set each fibre goes back to tr.pc through a card bin; with H clear it is PRIVILEGED,
as it is in a front context (04 R123). A tr.pc off the words is refused as an indirect target (log 11). -/
def execTret (s : State) : Host.Outcome State Fault Refusal :=
  commit s (bothWord
    (fibreWord {} anyone (fun n lanes p =>
      match worstTrap (lanes.filterMap (fun l =>
        if !l.f.h then some { cause := .privileged, mask := l.bit }
        else if l.f.tr.pc.toNat % 4 != 0 then
          some { cause := .misaligned, mask := l.bit, addr := l.f.tr.pc.toNat }
        else none)) with
      | some t => trapWord t p
      | none =>
        let ks := lanes.map (fun l => l.k)
        forEach ks returnFibre (leaveStrand n ks (kickStrand n p))))
    (frontWord [] anyone (fun _ _ => trapWord { cause := .privileged })))

/-- The fibres and the front context of a halted skein that wait stop where they wait; the skein is
reported (04 R118), again at each further `halt` of a context that finishes its clause (log 48). -/
def haltSkein (k : Nat) : Act := fun p =>
  match tget p.now.skeins k with
  | none => p
  | some x =>
    let p := modSkein k (fun y => { y with halted := true }) p
    let p := forEach (p.now.fibresOf k) (fun j q =>
      match tget q.now.fibres j with
      | none => q
      | some f =>
        match f.run with
        | .parked w next => haltFibre j (some (w, next)) q
        | .gather _ => haltFibre j none q
        | _ => q) p
    queueStop x.core (stopRecord x 2 0 0 {}) p

/-- `halt`: the issuer stops after the word; every skein of the issuing strand is halted (04 R118). -/
def execHalt (s : State) : Host.Outcome State Fault Refusal :=
  commit s (bothWord
    (fibreWord {} supervisorOnly (fun n lanes p =>
      let p := retireStrand n p
      let p := forEach lanes (fun l => haltFibre l.k none)
        (leaveStrand n (lanes.map (fun l => l.k)) p)
      forEach (lanes.foldl (fun m l => sadd m l.f.sk) []) haltSkein p))
    (frontWord [] supervisorOnly (fun k _ p =>
      haltSkein k (modFront k (fun f => { f with run := .halted, clause := none }) (retireFront k p)))))

end Sys2Proof.Machine
end

