-- ==== Sys2Proof/Machine/Banks.lean ====
section
/-! DEFINITION. The banks of package memory: segments, the near-row cache, row buffers, refresh, alerts,
replays, lane repair, scrub, and the registers that act at once (14 R336-R352, 12 R300). -/

namespace Sys2Proof.Machine

open Sys2Proof

/-! ### Slots and the clock (14 R336 R339) -/

/-- Slot `i` of a bank. -/
def Bank.slot (b : Bank) (i : Nat) : RowSlot := tgetD b.slots i { row := i, pin := false, ref := false }

/-- The fast slot that holds a row, if any. -/
def Bank.slotOf (b : Bank) (row : Nat) : Option Nat :=
  match b.slots.find? (fun e => e.2.row == row) with
  | some e => some e.1
  | none => if row < 2048 && (tget b.slots row).isNone then some row else none

/-- The pin count. -/
def Bank.pins (b : Bank) : Nat := (b.slots.filter (fun e => e.2.pin)).length

/-- A slot set. -/
def Bank.setSlot (b : Bank) (i : Nat) (x : RowSlot) : Bank := { b with slots := tput b.slots i x }

/-- The victim slot of the clock, with the bank after the sweep: at most two turns (14 R339). -/
def Bank.sweep (b : Bank) : Nat → Nat × Bank
  | 0 => (b.hand, b)
  | n + 1 =>
    let e := b.slot b.hand
    let next := (b.hand + 1) % 2048
    if !e.pin && !e.ref then (b.hand, { b with hand := next })
    else if e.pin then ({ b with hand := next } : Bank).sweep n
    else ({ b.setSlot b.hand { e with ref := false } with hand := next } : Bank).sweep n

/-- Activations of a row are counted (14 R347). -/
def Bank.count (b : Bank) (row n : Nat) : Bank := { b with acts := tput b.acts row (tgetD b.acts row 0 + n) }

/-- A row swapped into the fast segment; the swap closes the rows it touches, and its four activations count, two for
each of the two rows (14 R341 R345; log 63). -/
def Bank.swapIn (b : Bank) (row : Nat) (pin : Bool) : Bank :=
  let v := b.sweep 4097
  let c := (v.2.count row 2).count (b.slot v.1).row 2
  { c.setSlot v.1 { row := row, pin := pin, ref := !pin } with isOpen := false }

/-- What a request does to its bank: the bank, whether it swapped, and whether a pin was refused. -/
structure BankAct where
  bank : Bank
  swaps : Nat := 0
  refused : Nat := 0

/-- A row acts under a latency class (14 R337). A swap is not begun while a mitigation is due in its pseudo-channel
(14 R341 R347), and then no pin is asked for. A row that is pinned already keeps its pin and is refused none
(log 63). -/
def Bank.touch (b : Bank) (pinmax : Nat) (row : Nat) (cls : LClass) (due : Bool) : BankAct :=
  match cls, b.slotOf row with
  | .s, _ => { bank := b }
  | .c, some i => { bank := b.setSlot i { b.slot i with ref := true } }
  | .c, none => if due then { bank := b } else { bank := b.swapIn row false, swaps := 1 }
  | .f, some i =>
    if b.pins < pinmax then { bank := b.setSlot i { b.slot i with pin := true } }
    else
      { bank := b.setSlot i { b.slot i with ref := true }
        refused := if (b.slot i).pin then 0 else 1 }
  | .f, none =>
    if due then { bank := b }
    else
      let pin : Bool := decide (b.pins < pinmax)
      { bank := b.swapIn row pin, swaps := 1, refused := if pin then 0 else 1 }

/-- `demote` of a row (14 R343). -/
def Bank.release (b : Bank) (row : Nat) : Bank :=
  match b.slotOf row with
  | some i => b.setSlot i { b.slot i with pin := false, ref := false }
  | none => b

/-- A request acts: 0 an access, 1 promote.pin, 2 promote.cache, 3 demote (14 R337 R343). -/
def Bank.serve (b : Bank) (k : Stack) (r : BankReq) (due : Bool) : BankAct :=
  match r.op with
  | 0 => b.touch k.pinmax.toNat r.row r.cls due
  | 1 => b.touch k.pinmax.toNat r.row (if k.pinen then .f else .c) due
  | 2 => b.touch k.pinmax.toNat r.row .c due
  | _ => { bank := b.release r.row }

/-! ### Row buffers (14 R345) -/

/-- The index of the row-buffer counter of a row. -/
def counterIndex (pseudo bank row : Nat) : Nat :=
  2048 * pseudo + 128 * bank + (bitsOf row 6 0 ^^^ bitsOf row 13 7 ^^^ bitsOf row 15 14)

/-- A saturating step of a two-bit counter. -/
def stepCounter (c : BitVec 2) (up : Bool) : BitVec 2 :=
  if up then (if c = 3 then 3 else c + 1) else (if c = 0 then 0 else c - 1)

/-- An access arrives at a bank: the counter of the previous row moves, its row is activated unless it is open, and
it stays open or closes. -/
def noteRow (bank row : Nat) : Act := fun p =>
  let b := tgetD p.now.banks bank {}
  let ch := bank / 32
  let pseudo := bank / 16 % 2
  let c := tgetD p.now.channels ch {}
  let counters := match b.last with
    | none => c.counters
    | some r =>
      let i := counterIndex pseudo (bank % 16) r
      tputD c.counters i 2 (stepCounter (tgetD c.counters i 2) (r == row))
  let stays : Bool := decide (2 ≤ (tgetD counters (counterIndex pseudo (bank % 16) row) 2).toNat)
  let bursts := (c.bursts + 1) % 2 ^ 20
  modBank bank (fun y =>
    { (if y.isOpen && y.last == some row then y else y.count row 1) with
      last := some row
      isOpen := stays })
    (modRest (fun s =>
      let d : Channel :=
        { c with
          counters := counters
          bursts := bursts
          errors := if bursts = 0 then [] else c.errors }
      { s with channels := tput s.channels ch d }) p)

/-! ### Refresh and alerts (14 R346-R348) -/

/-- The banks of a pseudo-channel that have state, with their keys. -/
def State.pseudoBanks (s : State) (ps : Nat) : Table Bank := s.banks.filter (fun e => e.1 / 16 == ps)

/-- Change a channel. -/
def modChannel (ch : Nat) (g : Channel → Channel) : Act :=
  modRest (fun s => { s with channels := tput s.channels ch (g (tgetD s.channels ch {})) })

/-- A mitigation is due in a pseudo-channel (14 R347). -/
def State.alerted (s : State) (ps : Nat) : Bool := (s.pseudoBanks ps).any (fun e => e.2.alert)

/-- A bank that a refresh covers: its row closes, and its alert is mitigated. -/
def Bank.covered (b : Bank) : Bank :=
  { b with
    isOpen := false
    alert := false
    acts := if b.alert then [] else b.acts }

/-- Change a pseudo-channel. -/
def modPseudo (ps : Nat) (g : Pseudo → Pseudo) : Act :=
  modRest (fun s => { s with pseudos := tput s.pseudos ps (g (tgetD s.pseudos ps {})) })

/-- A refresh carries a step of the retraining of its channel, if one is left (14 R348). -/
def carryStep (mitigates : Bool) (c : Channel) : Channel :=
  { c with
    train := if mitigates then c.train else c.train - 1
    stepping := !mitigates && c.train != 0 }

/-- An owed all-bank refresh issues: the rows of the pseudo-channel close, its alerts are covered, and one step of
the channel's retraining runs unless the refresh is a mitigation (14 R346-R348). -/
def issueRefresh (ps : Nat) (mitigates : Bool) : Act := fun p =>
  if (tgetD p.now.pseudos ps {}).owed = 0 then p
  else
    let p := modChannel (ps / 2) (carryStep mitigates) (modPseudo ps (fun x => { x with owed := x.owed - 1 }) p)
    forEach (p.now.pseudoBanks ps) (fun e => modBank e.1 Bank.covered) p

/-- Several refreshes back to back. -/
def issueRefreshes (ps : Nat) : Nat → Act
  | 0, p => p
  | n + 1, p => issueRefreshes ps n (issueRefresh ps false p)

/-- The controller mitigates the alerts of a pseudo-channel by the refreshes owed (14 R347). -/
def mitigate (ps : Nat) : Act := fun p =>
  if !p.now.alerted ps then p
  else
    match (tgetD p.now.pseudos ps {}).owed with
    | 0 => forEach ((p.now.pseudoBanks ps).filter (fun e => e.2.alert)) (fun e => modBank e.1 Bank.covered) p
    | n + 1 =>
      let p := issueRefresh ps true p
      if 7 ≤ n then issueRefreshes ps n p else p

/-- A refresh issues; it is a mitigation where one is due (14 R346 R347). -/
def refreshNow (ps : Nat) : Act := fun p =>
  if p.now.alerted ps && (tgetD p.now.pseudos ps {}).owed != 0 then mitigate ps p else issueRefresh ps false p

/-- The stack of a bank. -/
def stackOfBank (bank : Nat) : Nat := bank / 1024

/-- What a pseudo-channel does before another command: the refresh that 8 owed ones force, or the
mitigation that an access waits for unless its row is open (14 R346 R347). The command ends a step of the
retraining. -/
def beforeAccess (bank row : Nat) : Act := fun p =>
  let ps := bank / 16
  let b := tgetD p.now.banks bank {}
  let p := if 8 ≤ (tgetD p.now.pseudos ps {}).owed then refreshNow ps p
    else if b.isOpen && b.last == some row then p
    else mitigate ps p
  if (tgetD p.now.channels (ps / 2) {}).stepping then modChannel (ps / 2) (fun c => { c with stepping := false }) p
  else p

/-- The oldest request of a bank acts. -/
def serveBank (bank : Nat) : Act := fun p =>
  match (tgetD p.now.banks bank {}).queue with
  | [] => p
  | r :: _ =>
    let p := modBank bank (fun b => { b with queue := b.queue.drop 1 }) p
    let p := beforeAccess bank r.row p
    let p := if r.op = 0 then noteRow bank r.row p else p
    let a := (tgetD p.now.banks bank {}).serve (p.now.stack (stackOfBank bank)) r (p.now.alerted (bank / 16))
    modStack (stackOfBank bank) (fun k =>
      { k with
        swaps := k.swaps + BitVec.ofNat 64 a.swaps
        pinfail := k.pinfail + BitVec.ofNat 32 a.refused }) (p.emit (.bank bank a.bank))

/-- Every request that waits at a bank acts, in bank order (14 R344). -/
def drainBank (bank : Nat) : Act := fun p =>
  forEach (tgetD p.now.banks bank {}).queue (fun _ => serveBank bank) p

/-- BANK_ACCESS (14 R337). -/
def execBankAccess (bank : Nat) (s : State) : Host.Outcome State Fault Refusal :=
  commit s (serveBank bank)

/-- REFRESH (14 R346). -/
def execRefresh (pseudo : Nat) (s : State) : Host.Outcome State Fault Refusal :=
  commit s (refreshNow pseudo)

/-- A retraining starts every RTINT tREFI of the channel (14 R348). -/
def countRefi (rtint : Nat) (c : Channel) : Channel :=
  let due : Bool := rtint != 0 && decide (rtint ≤ c.issued + 1)
  { c with
    issued := if due then 0 else c.issued + 1
    train := if due then 16 else c.train }

/-- REFRESH_OWED (14 R346 R348). The tREFI of a channel are those of its first pseudo-channel (log 63). -/
def execRefreshOwed (pseudo : Nat) (s : State) : Host.Outcome State Fault Refusal :=
  commit s (if 1024 ≤ pseudo / 64 * 128 then id else fun p =>
    let rtint := (p.now.stack (pseudo / 64)).rtint.toNat
    let p := if 8 ≤ (tgetD p.now.pseudos pseudo {}).owed then refreshNow pseudo p else p
    actIf (pseudo % 2 = 0) (modChannel (pseudo / 2) (countRefi rtint))
      (modPseudo pseudo (fun x => { x with owed := x.owed + 1 }) p))

/-- A step of a retraining ends unfinished, and is to run again (14 R348). -/
def breakStep (ch : Nat) : Act := fun p =>
  if (tgetD p.now.channels ch {}).stepping && Config.flip (p.now.fresh + 1) then
    modChannel ch (fun c =>
      { c with
        stepping := false
        train := c.train + 1 }) p
  else p

/-- ACTIVATION_ALERT (14 R347 R348). It falls within a step of the retraining or after it, and the mitigation runs at
once, or before the next activation of the pseudo-channel (log 5). -/
def execActivationAlert (bank : Nat) (s : State) : Host.Outcome State Fault Refusal :=
  commit s (if 8192 ≤ bank then id else fun p =>
    let p := modBank bank (fun b => { b with alert := true })
      (modStack (stackOfBank bank) (fun k => { k with alerts := k.alerts + 1 }) p)
    let now := Config.flip p.now.fresh
    actIf now (mitigate (bank / 16)) (bumpFresh (breakStep (bank / 32) p)))

/-- The stack of a bank raises an alert of its own accord (14 R341 R347; log 63). -/
noncomputable def Bank.alarmed (b : Bank) : Bool := !b.alert && b.acts.any (fun e => Config.alertAt < e.2)

/-! ### Replays, lanes and scrub (14 R349-R351) -/

/-- The channel of an address over the package. -/
def State.channelOf (s : State) (pa : Nat) : Nat := s.bankOf pa / 32

/-- The 32-byte sectors of the burst over a sector (14 R349; log 64). -/
def burstOf (sector : Nat) : List Nat :=
  let n := 2 ^ (Config.burstSize % 3)
  (List.range n).map (fun i => sector / n * n + i)

/-- The last attempt of a burst has failed. The target sectors of a write are poisoned; those of a read are poisoned
as they are returned, and stay sound in memory (14 R349; log 64). -/
def poisonBurst (sector : Nat) : Act := fun p =>
  let read := Config.flip (p.now.fresh + 2)
  forEach (burstOf sector) (fun k q =>
    if !read then poisonSector k q
    else if (tget q.now.poison k).isSome then q
    else modRest (fun s => { s with flown := sadd s.flown k }) (q.emit (.poison k (some 0)))) p

/-- A burst over a 32-byte sector fails its CRC on a lane. A first, second or third failure is replayed;
the fourth poisons its sectors. `again` tells that the replay is still outstanding (14 R349). -/
def failBurst (sector lane : Nat) (again : Bool) : Act := fun p =>
  if !isPackage (sector * 32) then p
  else
    let ch := p.now.channelOf (sector * 32)
    let fails := tgetD (tgetD p.now.channels ch {}).replays sector 0 + 1
    let p := modChannel ch (fun c =>
      { c with
        errors := tput c.errors lane (tgetD c.errors lane 0 + 1)
        replays := if again && fails ≤ 3 then tput c.replays sector fails else tdel c.replays sector }) p
    if 3 < fails then bumpFresh (poisonBurst sector p)
    else modStack (ch / 32) (fun k => { k with replays := k.replays + 1 }) p

/-- BURST_CRC_FAIL (14 R349). -/
def execBurstCrcFail (sector lane : Nat) (again : Bool) (s : State) :
    Host.Outcome State Fault Refusal :=
  commit s (failBurst sector lane again)

/-- The repair of a lane is due (14 R350). -/
def State.repairDue (s : State) (ch lane : Nat) : Bool :=
  max 1 (s.stack (ch / 32)).lthr.toNat ≤ tgetD (tgetD s.channels ch {}).errors lane 0

/-- The outstanding replays of a channel drain on the old lane map; one that reaches its limit poisons its data, and
its failures count on the lane (14 R349 R350; log 5). -/
def drainReplays (ch lane : Nat) : Act := fun p =>
  let p := forEach (tgetD p.now.channels ch {}).replays (fun e q =>
    let bad := Config.flip q.now.fresh
    let q := modStack (ch / 32) (fun k =>
      { k with replays := k.replays + BitVec.ofNat 32 (if bad then 3 - e.2 else 0) }) q
    let q := actIf bad (modChannel ch (fun c =>
      { c with errors := tput c.errors lane (tgetD c.errors lane 0 + (4 - e.2)) })) q
    bumpFresh (actIf bad (poisonBurst e.1) q)) p
  modChannel ch (fun c => { c with replays := [] }) p

/-- A lane whose repair is due is mapped to a spare; without one the channel goes out of service. -/
def repairLane (ch lane : Nat) : Act := fun p =>
  if !p.now.repairDue ch lane then p
  else
    let p := drainReplays ch lane (modChannel ch (fun c => { c with stepping := false }) p)
    let c := tgetD p.now.channels ch {}
    if c.spares = 0 then
      modStack (ch / 32) (fun k => { k with chdown := k.chdown ||| BitVec.ofNat 32 (2 ^ (ch % 32)) }) p
    else
      modStack (ch / 32) (fun k => { k with repairs := k.repairs + 1 })
        (modChannel ch (fun c =>
          { c with
            spares := c.spares - 1
            map := tput c.map lane (8 - c.spares)
            errors := tdel c.errors lane }) p)

/-- LANE_REPAIR (14 R350). -/
def execLaneRepair (channel lane : Nat) (s : State) : Host.Outcome State Fault Refusal :=
  commit s (repairLane channel lane)

/-- PATROL_SCRUB (14 R351): what the scrub meets in a sector. -/
def execPatrolScrub (sector : Nat) (correctable : Bool) (s : State) :
    Host.Outcome State Fault Refusal :=
  commit s (if !isPackage (sector * 32) then id else fun p =>
    let st := p.now.stackOf (sector * 32)
    if correctable then modStack st (fun k => { k with cecnt := k.cecnt + 1 }) p
    else modStack st (fun k => { k with uecnt := k.uecnt + 1 }) (poisonSector sector p))

/-! ### Registers that act at once (14 R352) -/

/-- Every pin bit in the banks of a stack is cleared. -/
def clearPins (st : Nat) : Act := fun p =>
  forEach (p.now.banks.filter (fun e => stackOfBank e.1 == st)) (fun e =>
    modBank e.1 (fun b => { b with slots := b.slots.map (fun x => (x.1, { x.2 with pin := false })) })) p

/-- UNPIN. -/
def execUnpin (stack : BitVec 3) (s : State) : Host.Outcome State Fault Refusal :=
  commit s (clearPins stack.toNat)

/-- A half of IDTAB after a write: an entry written with code 3 keeps its value. -/
def idtabHalf (old new : Nat) : Nat :=
  (List.range 32).foldl (fun x j =>
    let c := bitsOf new (2 * j + 1) (2 * j)
    x + (if c = 3 then bitsOf old (2 * j + 1) (2 * j) else c) * 4 ^ j) 0

/-- IDTAB_WRITE. -/
def execIdtabWrite (half : BitVec 1) (value : BitVec 64) (s : State) :
    Host.Outcome State Fault Refusal :=
  commit s (modRest (fun t =>
    if t.idlock then t
    else
      let lo := t.idtab.toNat % 2 ^ 64
      let hi := t.idtab.toNat / 2 ^ 64
      { t with idtab := BitVec.ofNat 128 (
          if half = 0 then idtabHalf lo value.toNat + hi * 2 ^ 64
          else lo + idtabHalf hi value.toNat * 2 ^ 64) }))

/-- IDLOCK: a write of 1 locks IDTAB until package reset. -/
def execIdlock (value : BitVec 1) (s : State) : Host.Outcome State Fault Refusal :=
  commit s (modRest (fun t => { t with idlock := t.idlock || value != 0 }))

/-! ### Errors of the L2 and the directory (12 R300) -/

/-- The skeins that have a mapping in their slots. -/
def State.skeinsWith (s : State) (map : Nat) : List Nat :=
  (s.skeins.filter (fun e => e.2.slots.any (fun x => x.2 == map))).map (fun e => e.1)

/-- A directory entry in error: the registration is lost, its stash line and its bytes are poisoned, and
every skein with a mapping of the line is stopped and reported. -/
def loseEntry (line : Nat) : Act := fun p =>
  match tget p.now.regs line with
  | none => p
  | some r =>
    let p := forEach (r.offs.foldl (fun l o => sadd l (4 * line + o.1 / 32)) []) poisonSector p
    let p := modMap r.map (fun m => { m with poisoned := sadd m.poisoned r.sline }) (p.emit (.regEnd line))
    forEach ((p.now.skeinsWith r.map).filter (fun k =>
      ((tget p.now.skeins k).map (fun x => !x.halted)).getD false)) haltSkein p

/-- A line of the L2 in error: a clean one is discarded, a dirty one is poisoned. -/
def loseLine (line : Nat) : Act := fun p =>
  match tget p.now.l2 line with
  | none => p
  | some x =>
    if x.dirty != 0 then forEach (List.range 4) (fun i => poisonSector (4 * line + i)) p
    else evictLine line p

/-- A single-bit error is corrected, and only the die's counter shows it (12 R300; log 5). -/
def correctOne (die : Nat) : Act := fun p =>
  actIf (Config.flip p.now.fresh) (modDie die (fun d => { d with corrected := d.corrected + 1 })) (bumpFresh p)

/-- L2_UNCORRECTABLE_ERROR (12 R300). Errors of one bit that the die has corrected meanwhile are counted. -/
def execL2UncorrectableError (line : Nat) (entry : Bool) (s : State) :
    Host.Outcome State Fault Refusal :=
  commit s (fun p => (if entry then loseEntry line else loseLine line) (correctOne (p.now.holderDie (line * 128)) p))

end Sys2Proof.Machine
end

