-- ==== Sys2Proof/Machine/Steering.lean ====
section
/-! DEFINITION. The steering words: `promote.pin`, `promote.cache`, `demote` and `pfl2`
(14 R342-R344). -/

namespace Sys2Proof.Machine

open Sys2Proof

/-! ### The words (14 R343) -/

/-- The checks of a lane; none where it retires with no effect. -/
def State.checkSteer (q : Ask) (op len : Nat) (s : State) : Except LaneFail (Option Steer) :=
  let fail := fun (c : Cause) (addr : Int) =>
    (.error (.trap { cause := c, detail := q.detail, addr := zextI addr 64 }) :
      Except LaneFail (Option Steer))
  match q.lr.binding q.b with
  | none => fail .binding q.off
  | some idx =>
    if s.entryHeld q.core q.lr.ctx idx then .error (.needs [.settle])
    else
    match s.buf q.core q.lr.ctx idx with
    | none => fail .binding q.off
    | some e =>
      let va : Int := (e.base : Int) + q.off
      if e.owner != q.lr.ctx then fail .owner va
      else if !e.rd then fail .rights va
      else if len = 0 then .ok none
      else if q.off < 0 || (e.len : Int) < q.off + len then fail .bounds va
      else if e.ilv = 3 then .ok none
      else .ok (some
        { id := 0, op := op, ctx := q.lr.ctx, base := va.toNat, len := len, ilv := e.ilv,
          lcls := e.lcls, trk := e.trk })

/-- A steering word begins in a fibre: it counts one on ST. -/
def issueSteer (k : Nat) (t : Option Steer) : Act :=
  match t with
  | none => id
  | some t => modFibre k (fun f =>
      { f with
        steers := f.steers ++ [{ t with id := f.nextId }]
        nextId := f.nextId + 1 })

/-- A steering word. -/
def steerWord (op : Nat) (d a : BitVec 7) (b : Nat) : Act :=
  fibreWord { src := [one a, one d] } anyone (fun n lanes p =>
    if countersFull lanes false true then hold p
    else
      let ask := fun (l : Lane) => laneAsk n l a b p.now.prefixOffset 1 true false false 0 7
      let act := lanes.filter (fun l => l.on)
      settle n (coreOfLanes lanes) false
        (act.map (fun l => (l, p.now.checkSteer (ask l) op (l.f.reg d.toNat).toNat)))
        (fun ok p =>
          let p := forEach ok (fun e => useEntry (ask e.1)) p
          retire (forEach ok (fun e => issueSteer e.1.k e.2) p)) p)

/-- `promote.pin` (14 R343). -/
def execPromotePin (d a : BitVec 7) (b : BitVec 6) (s : State) : Host.Outcome State Fault Refusal :=
  commit s (steerWord 0 d a b.toNat)

/-- `promote.cache` (14 R343). -/
def execPromoteCache (d a : BitVec 7) (b : BitVec 6) (s : State) : Host.Outcome State Fault Refusal :=
  commit s (steerWord 1 d a b.toNat)

/-- `demote` (14 R343). -/
def execDemote (d a : BitVec 7) (b : BitVec 6) (s : State) : Host.Outcome State Fault Refusal :=
  commit s (steerWord 2 d a b.toNat)

/-- `pfl2` (14 R343). -/
def execPfl2 (d a : BitVec 7) (b : BitVec 6) (s : State) : Host.Outcome State Fault Refusal :=
  commit s (steerWord 3 d a b.toNat)

/-! ### The work in the background -/

/-- The lines of a physical range. -/
def linesIn (pa n : Nat) : List Nat :=
  (List.range (lineOf (pa + n - 1) + 1 - lineOf pa)).map (fun i => lineOf pa + i)

/-- The rows that hold a byte of a physical range: (bank, row) pairs, each once. -/
def State.rowsIn (s : State) (pa n : Nat) : List (Nat × Nat) :=
  (linesIn pa n).foldl (fun l x =>
    let r := (s.bankOf (x * 128), rowOfPa (x * 128))
    if l.contains r then l else l ++ [r]) []

/-- A request takes its place in the order of its bank and acts there (14 R344). -/
def steerRow (op : Nat) (r : Nat × Nat) : Act := fun p =>
  drainBank r.1 (modBank r.1 (fun b =>
    { b with queue := b.queue ++ [{ row := r.2, op := op, cls := .c }] }) p)

/-- A line is read into an L2 as a tracked read, or for an untracked page at its home. -/
def steerLine (core : Nat) (t : Steer) (x : Xlat) (line : Nat) : Act := fun p =>
  let tracked : Bool := t.trk && bitOf x.pte.toNat 5
  performRead (core / 64)
    { ctx := t.ctx, va := 0, pa := line * 128, n := 128, tracked := tracked, policy := 1,
      cls := classOf x.pte.toNat t.lcls, remote := none, scope := 0, ascope := 0, watch := false,
      rdup := bitOf x.pte.toNat 3 } p

/-- What a steering word acts on in the part of its range in one page: for `pfl2` each line of the range, for the
others each row that holds a byte of the page. A page that does not translate, or that is not of package memory,
is skipped. -/
inductive SteerItem where
  | row (r : Nat × Nat)
  | line (l : Nat)

/-- The items of a page, with its translation. -/
def State.steerItems (s : State) (core : Nat) (t : Steer) (va n : Nat) : Option (Xlat × List SteerItem) :=
  match s.xlateNow core t.ctx va false (some t.ilv) with
  | .error _ => none
  | .ok x =>
    let pa := x.pa va
    if !isPackage pa then none
    else if t.op = 3 then some (x, (linesIn pa n).map .line)
    else some (x, (s.rowsIn (pa / 32768 * 32768) 32768).map .row)

/-- The access of `pfl2` to a line has to wait (15 R359 R362). -/
def State.steerHeld (s : State) (core : Nat) (t : Steer) (x : Xlat) (i : SteerItem) : Bool :=
  match i with
  | .row _ => false
  | .line l => s.readHeld core { unitAccess (l * 128) 128 with tracked := t.trk && bitOf x.pte.toNat 5 }

/-- One item is acted on. -/
def steerItem (core : Nat) (t : Steer) (x : Xlat) (i : SteerItem) : Act :=
  match i with
  | .row r => steerRow (t.op + 1) r
  | .line l => steerLine core t x l

/-- The work of a steering word stands elsewhere; it ends behind its last page, and ST falls. -/
def moveSteer (fib : Nat) (t : Steer) (page item : Nat) : Act := modFibre fib (fun f =>
  { f with steers :=
      if (piecesOf t.base t.len).length ≤ page then f.steers.filter (fun y => y.id != t.id)
      else f.steers.map (fun y => if y.id = t.id then { y with page := page, item := item } else y) })

/-- The work of a steering word goes on with its next row or line, so that other accesses and other steering words
may come between (14 R343 R344). -/
def stepSteer (fib core : Nat) (t : Steer) : Act := fun p =>
  match (piecesOf t.base t.len)[t.page]? with
  | none => moveSteer fib t t.page 0 p
  | some (va, n) =>
    if p.now.xlateHeld core t.ctx va false then p
    else
      match p.now.steerItems core t va n with
      | none => moveSteer fib t (t.page + 1) 0 p
      | some (x, l) =>
        match l[t.item]? with
        | none => moveSteer fib t (t.page + 1) 0 p
        | some i =>
          if p.now.steerHeld core t x i then p
          else
            let p := steerItem core t x i (usedXlat core t.ctx va false p)
            if t.item + 1 < l.length then moveSteer fib t t.page (t.item + 1) p
            else moveSteer fib t (t.page + 1) 0 p

/-- STEERING_COMPLETE: the next row or line of the range has been acted on; behind the last one ST falls. -/
def endSteer (fib id : Nat) : Act := fun p =>
  match tget p.now.fibres fib with
  | none => p
  | some f =>
    match f.steers.find? (fun t => t.id == id), tget p.now.skeins f.sk with
    | some t, some x => stepSteer fib x.core t p
    | _, _ => p

/-- STEERING_COMPLETE (14 R343). -/
def execSteeringComplete (fib id : Nat) (s : State) : Host.Outcome State Fault Refusal :=
  commit s (endSteer fib id)

end Sys2Proof.Machine
end

