-- ==== Sys2Proof/Machine/LaunchQueues.lean ====
section
/-! DEFINITION. Launch queues: their registers, the `launch` word, the lottery, and the acceptance or
rejection of a launch record (06 R150-R153, 13 R316-R323). -/

namespace Sys2Proof.Machine

open Sys2Proof

/-! ### Rings and registers (13 R318 R319) -/

/-- The records that a ring holds: 2^QSIZE, with 0 acting as 1 and 13-15 as 12. -/
def LQueue.entries (q : LQueue) : Nat :=
  2 ^ (if q.size = 0 then 1 else if 12 < q.size.toNat then 12 else q.size.toNat)

/-- The occupancy of a ring. -/
def LQueue.occupancy (q : LQueue) : Nat := (q.widx - q.ridx).toNat

/-- The physical address of the slot of an index. -/
def LQueue.slotAddr (q : LQueue) (i : BitVec 16) : Nat :=
  q.base.toNat * 4096 + 256 * (i.toNat % q.entries)

/-- QCERR: the queue is enabled and its context is invalid (13 R317 R318). -/
def State.qcerr (s : State) (n : Nat) : Bool :=
  (s.queue n).en && (s.descriptor (s.queue n).ctx.toNat).isNone

/-- A host write of WIDX: ignored while QDEV = 1, and ignored with QWERR when the ring could not hold the
records or the index would pass RIDX backwards. -/
def writeWidx (n : Nat) (v : BitVec 16) : Act :=
  modQueue n (fun q =>
    if q.dev then q
    else if q.entries < (v - q.ridx).toNat then { q with qwerr := true }
    else { q with widx := v })

/-- WIDX_WRITE (13 R319). -/
def execWidxWrite (queue : BitVec 6) (value : BitVec 16) (s : State) :
    Host.Outcome State Fault Refusal :=
  commit s (writeWidx queue.toNat value)

/-- The control word of a queue after a write: the QEN held before it decides (13 R318). -/
def LQueue.control (q : LQueue) (v : Nat) : LQueue :=
  let t := { q with tickets := BitVec.ofNat 12 (bitsOf v 43 32) }
  if q.en then { t with en := bitOf v 8 }
  else
    let size := BitVec.ofNat 4 (bitsOf v 3 0)
    { t with
      en := bitOf v 8
      sup := bitOf v 9
      dev := bitOf v 10
      ctx := BitVec.ofNat 16 (bitsOf v 31 16)
      size := size
      widx := if size = q.size then q.widx else 0
      ridx := if size = q.size then q.ridx else 0 }

/-- A write to a register of a queue, by its offset. -/
def writeQueue (n off : Nat) (v : Nat) : Act :=
  match off with
  | 0x00 => modQueue n (fun q => if q.en then q else { q with base := BitVec.ofNat 40 (bitsOf v 51 12) })
  | 0x08 => modQueue n (fun q => q.control v)
  | 0x10 => writeWidx n (BitVec.ofNat 16 v)
  | 0x30 => modQueue n (fun q =>
      { q with
        clmask := BitVec.ofNat 32 v
        coremask := BitVec.ofNat 8 (bitsOf v 39 32) })
  | 0x38 => modQueue n (fun q =>
      { q with
        qwerr := q.qwerr && !bitOf v 0
        qirq := bitOf v 8 })
  | _ => id

/-- QUEUE_CONTROL_WRITE (13 R318). -/
def execQueueControlWrite (queue : BitVec 6) (off : BitVec 6) (value : BitVec 64) (s : State) :
    Host.Outcome State Fault Refusal :=
  commit s (writeQueue queue.toNat off.toNat value.toNat)

/-- A write of LSEED; 0 is ignored (13 R316 R321). -/
def writeLseed (v : BitVec 32) : Act :=
  modRest (fun s => if v = 0 then s else { s with lseed := v })

/-- LSEED_WRITE (13 R321). -/
def execLseedWrite (value : BitVec 32) (s : State) : Host.Outcome State Fault Refusal :=
  commit s (writeLseed value)

/-! ### launch (13 R320) -/

/-- The detail of PRIVILEGED for a queue, none where the context may use it. -/
def launchDetail (q : LQueue) (x : Skein) : Option Nat :=
  if q.sup && !x.lr.sup then some 1
  else if !q.en || !q.dev then some 2
  else if q.ctx.toNat != x.lr.ctx && !x.lr.sup then some 3
  else none

/-- `launch` (13 R320, 04 R117). -/
def execLaunch (a : BitVec 6) (s : State) : Host.Outcome State Fault Refusal :=
  commit s (frontWord [a.toNat] anyone (fun k x p =>
    let v := (x.front.reg a.toNat).toNat
    let n := v % 64
    let q := p.now.queue n
    match launchDetail q x with
    | some d => trapWord { cause := .privileged, detail := d } p
    | none =>
      if q.entries ≤ q.occupancy || !p.now.frontReleased x 3 then stallAt p
      else frontRead64 k x (bitsOf v 50 8 * 256) 256 (fun bytes p =>
        let p := physWrite (q.slotAddr q.widx) bytes p
        let p := modQueue n (fun q => { q with widx := q.widx + 1 }) p
        retire (raiseIvl (.front k) 3 p)) p))

/-! ### The record (06 R150) -/

/-- The core whose translation the work distributor uses: of the front-end die, which holds no cache. -/
def distributor : Nat := 256

/-- A 64-bit word of a record. -/
def recWord (b : List Byte) (off : Nat) : Nat := ofBytes ((b.drop off).take 8)

/-- The field descriptor of a work-identifier field. -/
def widDesc (b : List Byte) (i : Nat) : Nat := ofBytes ((b.drop (0x28 + 2 * i)).take 2)

/-- The extent of a work-identifier field. -/
def widExt (b : List Byte) (i : Nat) : Nat := ofBytes ((b.drop (0x38 + 4 * i)).take 4)

/-- The work-identifier fields that are present. -/
def recWid (b : List Byte) : List WidField :=
  (List.range 6).filterMap (fun i =>
    let d := widDesc b i
    if bitsOf d 5 0 = 0 then none
    else some { width := bitsOf d 5 0, level := bitsOf d 10 8, extent := widExt b i })

/-- The record in 256 bytes, with what its tables hold. -/
def recOf (ctx : Nat) (b : List Byte) (binds : List Word) (relay : List RelayEntry)
    (maps : List MapDesc) : LaunchRec :=
  let w := recWord b
  { ctx := ctx, relayMode := bitOf (w 0) 8, sup := bitOf (w 0) 9, fentry := w 8, sentry := w 16,
    tentry := w 24, codebuf := bitsOf (w 32) 11 0, regs := bitsOf (w 32) 23 16,
    span := 8 * 2 ^ bitsOf (w 32) 25 24, fibres := bitsOf (w 32) 42 32, wid := recWid b,
    stash := bitsOf (w 80) 31 0, pool := bitsOf (w 80) 63 32, tiles := bitsOf (w 88) 4 0,
    knots := bitsOf (w 88) 12 8, queues := bitsOf (w 88) 20 16, reels := bitsOf (w 88) 27 24,
    draft := bitOf (w 88) 32, caddr := w 96, clen := bitsOf (w 104) 31 0,
    ckey := bitsOf (w 104) 63 32, cbind := bitsOf (w 112) 5 0, cscope := bitsOf (w 112) 10 8,
    cvalid := bitOf (w 112) 15, coff := w 120, relay := relay, binds := binds, maps := maps }

/-- A reserved field of a record is nonzero. The bits [7:6] and [15:11] of a field descriptor, which the table
calls zero, are taken as such a field (06 R150; log 53). -/
def recReserved (b : List Byte) : Bool :=
  let w := recWord b
  bitsOf (w 0) 63 10 != 0 || bitsOf (w 32) 15 12 != 0 || bitsOf (w 32) 31 26 != 0 ||
    bitsOf (w 32) 63 43 != 0 ||
    (List.range 6).any (fun i => bitsOf (widDesc b i) 7 6 != 0 || bitsOf (widDesc b i) 15 11 != 0) ||
    ofBytes ((b.drop 0x34).take 4) != 0 ||
    bitsOf (w 88) 7 5 != 0 || bitsOf (w 88) 15 13 != 0 || bitsOf (w 88) 23 21 != 0 ||
    bitsOf (w 88) 31 28 != 0 || bitsOf (w 88) 63 33 != 0 ||
    bitsOf (w 112) 7 6 != 0 || bitsOf (w 112) 14 11 != 0 || bitsOf (w 112) 63 16 != 0 ||
    bitsOf (w 136) 63 9 != 0 || (b.drop 0xA0).any (fun x => x != 0)

/-- The product of some extents. -/
def extents (l : List WidField) : Nat := l.foldl (fun n w => n * w.extent) 1

/-- The number of skeins of a launch (06 R154). -/
def LaunchRec.skeins (r : LaunchRec) : Nat := extents (r.wid.filter (fun w => w.level != 0))

/-- Levels never decrease. -/
def levelsRise : List WidField → Bool
  | a :: b :: r => a.level ≤ b.level && levelsRise (b :: r)
  | _ => true

/-- The work-identifier fields keep R153. -/
def widOk (b : List Byte) (f : Nat) : Bool :=
  let l := recWid b
  let n := l.length
  let fl := extents (l.filter (fun w => w.level == 0))
  (List.range 6).all (fun i =>
    if i < n then bitsOf (widDesc b i) 5 0 != 0 else widDesc b i == 0 && widExt b i == 0) &&
  l.all (fun w => w.width ≤ 32 && w.level ≤ 6 && 1 ≤ w.extent && w.extent ≤ 2 ^ w.width) &&
  l.foldl (fun t w => t + w.width) 0 ≤ 64 && levelsRise l && (fl == 1 || fl == f) &&
  extents (l.filter (fun w => w.level != 0)) < 2 ^ 32

/-- The rows of a skein (06 R155). -/
def LaunchRec.rows (r : LaunchRec) : Nat := (r.fibres + r.span - 1) / r.span

/-- The requests lie within their limits and an empty core (06 R152 R156). -/
def LaunchRec.within (r : LaunchRec) : Bool :=
  r.stash % 128 == 0 && r.stash ≤ 524288 && r.pool % 128 == 0 && r.pool ≤ 8388608 &&
    r.tiles ≤ 16 && r.knots ≤ 16 && r.queues ≤ 16 && r.reels ≤ 8 && r.rows * r.regs ≤ 4096

/-- An address that may be an entry: in the code buffer and a multiple of 4. -/
def entryOk (e : Buf) (a : Nat) : Bool := a % 4 == 0 && a < 2 ^ 51 && e.base ≤ a && a < e.base + e.len

/-- The mapping descriptors are those that `smap` would set up one after another; their bindings are checked
where the binding array was read (06 R151, 07 R181 R192). -/
def State.mapsOk (s : State) (bound : Bool) (lr : LaunchRec) : List Nat → List MapDesc → Bool
  | [], _ => true
  | e :: r, before =>
    let d := MapDesc.ofBits e
    descOk e && d.top ≤ lr.stash && before.all (fun b => !rangesMeet d.sbase d.top b.sbase b.top) &&
      (!bound || (s.mapBuffer distributor lr d).isSome) && s.mapsOk bound lr r (d :: before)

/-- What the distributor has read for a launch: the record and its tables, each none after a fault. -/
structure LaunchRead where
  record : List Byte
  binds : Option (List Word)
  relay : Option (List RelayEntry)
  block : Option Nat
  maps : Option (List Nat)
  deriving DecidableEq, Repr

/-- A read through the owner context's translation; an address beyond 51 bits faults (06 R151). -/
def State.launchRead (s : State) (ctx va n : Nat) : Option (List Byte) :=
  if 2 ^ 51 < va + n then none else s.unitRead distributor ctx va n

/-- The reads of R151. -/
def State.readLaunch (s : State) (n : Nat) : LaunchRead :=
  let q := s.queue n
  let ctx := q.ctx.toNat
  let b := s.physBytes (q.slotAddr q.ridx) 256
  let rc := min (bitsOf (recWord b 136) 8 0) 256
  let smap := recWord b 152
  let block := if smap = 0 then some 0 else (s.launchRead ctx smap 64).map ofBytes
  let count := min (bitsOf (block.getD 0) 4 0) 16
  { record := b
    binds := (s.launchRead ctx (recWord b 144) 256).map (fun l =>
      (elements 4 l 64).map (fun x => BitVec.ofNat 32 x))
    relay := (if rc = 0 then some [] else s.launchRead ctx (recWord b 128) (32 * rc)).map (fun l =>
      (elements 32 l rc).map (fun x =>
        { entry := bitsOf x 63 0, keep := BitVec.ofNat 128 (bitsOf x 255 128) }))
    block := block
    maps := if block.isNone then none
      else if count = 0 then some []
      else (s.launchRead ctx (smap + 64) (64 * count)).map (fun l => elements 64 l count) }

/-- The record of a launch as read; what could not be read is empty. -/
def LaunchRead.rec_ (d : LaunchRead) (ctx : Nat) : LaunchRec :=
  recOf ctx d.record (d.binds.getD []) (d.relay.getD []) ((d.maps.getD []).map MapDesc.ofBits)

/-- The checks of R151 but for the fit, in their order: the first status that fails. -/
def State.launchStatus (s : State) (sup : Bool) (ctx : Nat) (d : LaunchRead) : Option Nat :=
  let b := d.record
  let r := d.rec_ ctx
  let rcount := bitsOf (recWord b 136) 8 0
  let rtab := recWord b 128
  let barray := recWord b 144
  let smap := recWord b 152
  let code := s.buf distributor ctx r.codebuf
  let entry := fun a => (code.map (fun e => entryOk e a)).getD false
  let checks : List (Nat × Bool) :=
    [ (0x01, bitsOf (recWord b 0) 7 0 == 1),
      (0x02, !recReserved b && r.binds.all (fun w => bitsOf w.toNat 30 12 == 0)),
      (0x03, 16 ≤ r.regs && r.regs ≤ 128 && r.regs % 8 == 0 && 1 ≤ r.fibres && r.fibres ≤ 1024 &&
        r.fibres ≤ 32 * r.span),
      (0x04, widOk b r.fibres),
      (0x05, r.within),
      (0x06, (code.map (fun e => e.ex && e.owner == ctx)).getD false && entry r.fentry &&
        entry r.sentry && (r.tentry == 0 || entry r.tentry)),
      (0x07, (r.relayMode || (r.cvalid && rcount == 0)) &&
        (!r.cvalid || (r.cscope ≤ 5 && r.coff % 8 == 0))),
      (0x08, rcount ≤ 256 && rtab % 32 == 0 && barray % 64 == 0 && smap % 64 == 0 &&
        rtab < 2 ^ 51 && barray < 2 ^ 51 && smap < 2 ^ 51 &&
        (rcount == 0 || (code.map (fun e =>
          e.base ≤ rtab && rtab + 32 * rcount ≤ e.base + e.len)).getD false) &&
        r.relay.all (fun e => entry e.entry) && (d.block.getD 0) / 2 ^ 5 == 0 &&
        bitsOf (d.block.getD 0) 4 0 ≤ 16 && s.mapsOk d.binds.isSome r (d.maps.getD []) []),
      (0x09, r.caddr % 128 == 0 && r.caddr < 2 ^ 51 && r.clen % 128 == 0 && r.clen ≤ 262144),
      (0x0A, d.binds.isSome && d.relay.isSome && d.block.isSome && d.maps.isSome),
      (0x0B, !r.sup || sup) ]
  (checks.find? (fun e => !e.2)).map (fun e => e.1)

/-! ### The fit of a launch (11 R275, 12 R296) -/

/-- How often an amount goes into a capacity; a request of nothing has no bound. -/
def fold_ (cap need : Nat) (bound : Nat) : Nat := if need = 0 then bound else min bound (cap / need)

/-- The skeins of a record that an empty core holds (06 R156). -/
def LaunchRec.perCore (r : LaunchRec) : Nat :=
  let block := if r.span < 64 then 1 else fold_ 4096 (r.rows * r.regs) (fold_ 32 r.rows 64)
  let n := min 64 (block * (64 / max r.span 1))
  let n := fold_ 524288 r.stash (fold_ 16 r.tiles (fold_ 128 r.knots (fold_ 16 r.queues (fold_ 8 r.reels n))))
  let n := if r.draft then min n 1 else n
  if r.clen != 0 && (r.ckey == 0 || r.caddr == 0) then min n 1 else n

/-- A queue's masks allow a cluster of a die. -/
def LQueue.mayCluster (q : LQueue) (clus : Nat) : Bool := q.clmask = 0 || q.clmask.getLsbD clus

/-- A queue's masks allow a core. -/
def LQueue.mayCore (q : LQueue) (core : Nat) : Bool :=
  q.mayCluster (core / 8) && (q.coremask = 0 || q.coremask.getLsbD (core % 8))

/-- The cluster groups of a record that an empty cluster holds. -/
def clusterHolds (q : LQueue) (r : LaunchRec) (clus : Nat) : Nat :=
  let cores := ((List.range 8).filter (fun j => q.mayCore (8 * clus + j))).length
  let per := extents (r.wid.filter (fun w => w.level == 1))
  fold_ 8388608 r.pool (cores * r.perCore / max per 1)

/-- Some empty die takes a whole die group within the masks. -/
def LaunchRec.fits (r : LaunchRec) (q : LQueue) : Bool :=
  let groups := extents (r.wid.filter (fun w => w.level == 2))
  (List.range 4).any (fun d =>
    groups ≤ (List.range 8).foldl (fun t c => t + clusterHolds q r (8 * d + c)) 0)

/-! ### Acceptance and rejection (13 R323) -/

/-- The address of the completion counter of a rejected launch, when every check of the add passes. -/
def State.rejectAccess (s : State) (r : LaunchRec) : Option (Access × Nat) :=
  match (if r.cvalid && r.cscope ≤ 5 then r.binding r.cbind else none) with
  | none => none
  | some i =>
    match s.buf distributor r.ctx i with
    | none => none
    | some e =>
      let va := e.base + r.coff
      if e.owner != r.ctx || !(e.rd && e.wr && e.at_) || r.coff % 8 != 0 || e.len < r.coff + 8 then none
      else
        match s.xlateNow distributor r.ctx va true (some e.ilv) with
        | .error _ => none
        | .ok x =>
          let pa := x.pa va
          let pte := x.pte.toNat
          if isRegister pa || (bitOf pte 11 && e.kslot == 0) then none
          else some (
            { ctx := r.ctx, va := va, pa := pa, n := 8,
              tracked := e.trk && bitOf pte 5 && e.ilv != 3 && !isHost pa, policy := 0,
              cls := classOf pte e.lcls, remote := if e.ilv = 3 then some e.rdev else none,
              scope := r.cscope, ascope := e.ascope, watch := false, rdup := false }, va)

/-- The PTEs that the distributor's own walk reads, and the A and D bits that it sets; it holds no translation. -/
def markWalk (ctx va : Nat) (write : Bool) : Act := fun p =>
  let p := forEach (p.now.walkReads (distributor / 64) ctx va) (fun a => noteUnitRead 4 a 8) p
  match p.now.walk (distributor / 64) ctx va with
  | .ok l => markPte 4 l.at_ l.pte write p
  | .error _ => p

/-- The status of a rejected launch added to its completion counter, or nothing. An atomic on poisoned
bytes leaves memory unchanged (log 16). -/
def addRejection (r : LaunchRec) (status : Nat) : Act := fun p =>
  match p.now.rejectAccess r with
  | none => p
  | some (a, va) =>
    let p := markWalk r.ctx va true p
    let add := (2 ^ 63 + status * 2 ^ 48) % 2 ^ 64
    match a.remote with
    | some dev => sendRemote dev a.pa (.atomic 1 8 add 0 false) (.store r.ctx distributor none) p
    | none =>
      let p := performRead 4 a p
      if p.now.readsPoison a then p
      else sendOut a (performUnit 4 a (bytesOf (ofBytes (p.now.readAt a) + add) 8)) p

/-- A launch is rejected: the registers of its queue record the status. -/
def rejectLaunch (n : Nat) (idx : BitVec 16) (r : LaunchRec) (status : Nat) : Act := fun p =>
  let p := modQueue n (fun q =>
    { q with
      lrej := BitVec.ofNat 8 status
      rjidx := idx
      rjcnt := q.rjcnt + 1 }) p
  raiseQueue n (addRejection r status p)

/-- A launch is accepted: it takes its place in the order of acceptance. -/
def acceptLaunch (n : Nat) (idx : BitVec 16) (r : LaunchRec) : Act := fun p =>
  let k := p.now.nextKey
  let l : Launch :=
    { lr := r, queue := n, ringIdx := idx, order := k, waiting := List.range r.skeins,
      placed := p.now.time }
  let p := (bumpKey p).emit (.launch k l)
  modRest (fun s => { s with inflight := s.inflight + 1 }) p

/-- The ranges that the distributor reads through the owner context's translation: the binding array, the relay
table and the mapping list (06 R151). -/
def LaunchRead.reads (d : LaunchRead) : List (Nat × Nat) :=
  let rc := min (bitsOf (recWord d.record 136) 8 0) 256
  let smap := recWord d.record 152
  let list := match d.block with
    | none => [(smap, 64)]
    | some b => [(smap, 64 + 64 * min (bitsOf b 4 0) 16)]
  [(recWord d.record 144, 256)] ++ (if rc = 0 then [] else [(recWord d.record 128, 32 * rc)]) ++
    (if smap = 0 then [] else list)

/-- The accesses of one such read, up to the page that faults, set A (05 R134). -/
def markRead (ctx va n : Nat) : Act := fun p =>
  if 2 ^ 51 < va + n then p
  else forEach ((piecesOf va n).takeWhile (fun e => (p.now.unitRead distributor ctx e.1 e.2).isSome))
    (fun e => markWalk ctx e.1 false) (notePieces distributor ctx (piecesOf va n) p)

/-- The distributor takes the next record of a queue (13 R323). -/
def takeRecord (n : Nat) : Act := fun p =>
  let q := p.now.queue n
  let ctx := q.ctx.toNat
  let d := p.now.readLaunch n
  let r := d.rec_ ctx
  let status := match p.now.launchStatus q.sup ctx d with
    | some e => some e
    | none => if r.fits q then none else some 5
  let p := forEach d.reads (fun e => markRead ctx e.1 e.2) (noteUnitRead 4 (q.slotAddr q.ridx) 256 p)
  let p := modQueue n (fun q => { q with ridx := q.ridx + 1 }) (bumpFresh p)
  match status with
  | some e => rejectLaunch n q.ridx r e p
  | none => acceptLaunch n q.ridx r p

/-! ### The lottery (13 R321) -/

/-- A queue is eligible. Contexts of an unlocked TDI take no launch (16 R384). -/
def State.eligible (s : State) (n : Nat) : Bool :=
  let q := s.queue n
  !s.tdis.any (fun e => e.2.state == .unlocked && e.2.ctxs.contains q.ctx.toNat) && q.en && q.tickets != 0 &&
    q.occupancy != 0 && (s.descriptor q.ctx.toNat).isSome

/-- The generator's next value. -/
def nextSeed (x : BitVec 32) : BitVec 32 :=
  let x := x ^^^ (x <<< 13)
  let x := x ^^^ (x >>> 17)
  x ^^^ (x <<< 5)

/-- The queue that a draw value names. -/
def pickQueue (s : State) : List Nat → Nat → Option Nat
  | [], _ => none
  | n :: r, d =>
    let t := (s.queue n).tickets.toNat
    if d < t then some n else pickQueue s r (d - t)

/-- LOTTERY_DRAW (13 R321): the distributor draws when it can read memory (log 61). -/
def drawLottery : Act := fun p =>
  let l := (List.range 64).filter p.now.eligible
  if l.isEmpty || 256 ≤ p.now.inflight.toNat || !p.now.settled then p
  else
    let x := nextSeed p.now.lseed
    let p := modRest (fun s => { s with lseed := x }) p
    let total := l.foldl (fun t n => t + (p.now.queue n).tickets.toNat) 0
    match pickQueue p.now l (x.toNat % total) with
    | some n => takeRecord n p
    | none => p

/-- LOTTERY_DRAW (13 R321). -/
def execLotteryDraw (s : State) : Host.Outcome State Fault Refusal := commit s drawLottery

end Sys2Proof.Machine
end

