-- ==== Sys2Proof/Machine/Placement.lean ====
section
/-! DEFINITION. The placement of die groups on dies, clusters and cores, and the admission of a skein
(06 R155-R157, 07 R181 R188 R189 R196, 11 R275 R276, 12 R296, 13 R325-R327). -/

namespace Sys2Proof.Machine

open Sys2Proof

/-! ### What a core has given away (06 R156) -/

/-- A skein's hold on a core: its record, its lane block and its front context. -/
structure Hold where
  launch : Nat
  core : Nat
  lane0 : Nat
  slot : Nat
  idx : Nat
  lr : LaunchRec
  deriving DecidableEq, Repr

/-- A pool allocation in a cluster. -/
structure PoolHold where
  clus : Nat
  size : Nat
  deriving DecidableEq, Repr

/-- What is held in the package. -/
structure Layout where
  holds : List Hold
  pools : List PoolHold
  deriving DecidableEq, Repr

/-- A skein holds resources of its core unless it is switched out. -/
def Skein.holding (x : Skein) : Bool :=
  match x.run with
  | .switchedOut _ => false
  | .lost => false
  | _ => true

/-- The layout of a state. -/
def State.layout (s : State) : Layout :=
  { holds := (s.skeins.filter (fun e => e.2.holding)).map (fun e =>
      { launch := e.2.launch, core := e.2.core, lane0 := e.2.lane0, slot := e.2.slot, idx := e.2.idx, lr := e.2.lr })
    pools := (s.pools.filter (fun e => s.skeins.any (fun x =>
      x.2.launch == e.2.launch && x.2.cgrp == e.2.cgrp && x.2.holding))).map (fun e =>
        { clus := e.2.clus, size := e.2.size }) }

/-- The holds on a core. -/
def Layout.on (y : Layout) (core : Nat) : List Hold := y.holds.filter (fun h => h.core == core)

/-- A sum over holds. -/
def sumOf (l : List Hold) (g : Hold → Nat) : Nat := l.foldl (fun t h => t + g h) 0

/-- The holds that cover a lane. -/
def onLane (l : List Hold) (lane : Nat) : List Hold :=
  l.filter (fun h => h.lane0 ≤ lane && lane < h.lane0 + h.lr.span)

/-- A lane bank takes the rows of one more skein (06 R155). -/
def laneTakes (l : List Hold) (r : LaunchRec) (lane : Nat) : Bool :=
  let m := onLane l lane
  sumOf m (fun h => h.lr.rows) + r.rows ≤ 32 &&
    sumOf m (fun h => h.lr.rows * h.lr.regs) + r.rows * r.regs ≤ 4096

/-- The lowest free aligned block that fits; skeins of one launch with span below 64 lie in distinct blocks
(06 R155 R157). -/
def freeBlock (l : List Hold) (launch : Nat) (r : LaunchRec) : Option Nat :=
  ((List.range (64 / max r.span 1)).map (fun i => i * r.span)).find? (fun b =>
    (64 ≤ r.span || !l.any (fun h => h.launch == launch && h.lane0 == b)) &&
      (List.range r.span).all (fun i => laneTakes l r (b + i)))

/-- The constant store takes the image of a record: none is used, or the same one (06 R156). -/
def imageTakes (l : List Hold) (r : LaunchRec) : Bool :=
  r.clen = 0 || (l.filter (fun h => h.lr.clen != 0)).all (fun h =>
    r.ckey != 0 && r.caddr != 0 && h.lr.ckey == r.ckey && h.lr.caddr == r.caddr)

/-- The counted resources of a core take one more skein. -/
def countsTake (l : List Hold) (r : LaunchRec) : Bool :=
  l.length < 64 && sumOf l (fun h => h.lr.stash) + r.stash ≤ 524288 &&
    sumOf l (fun h => h.lr.tiles) + r.tiles ≤ 16 && sumOf l (fun h => h.lr.knots) + r.knots ≤ 128 &&
    sumOf l (fun h => h.lr.queues) + r.queues ≤ 16 && sumOf l (fun h => h.lr.reels) + r.reels ≤ 8 &&
    sumOf l (fun h => h.lr.draft.toNat) + r.draft.toNat ≤ 1 && imageTakes l r

/-- The lowest free front context. -/
def freeSlot (l : List Hold) : Nat :=
  ((List.range 64).find? (fun i => !l.any (fun h => h.slot == i))).getD 0

/-- A core takes a skein: its hold, if it does. -/
def Layout.take (y : Layout) (launch core idx : Nat) (r : LaunchRec) : Option Hold :=
  let l := y.on core
  if !countsTake l r then none
  else (freeBlock l launch r).map (fun b => { launch := launch, core := core, lane0 := b, slot := freeSlot l, idx := idx, lr := r })

/-- The free fibre slots of a core. -/
def Layout.free (y : Layout) (core : Nat) : Nat :=
  64 * 32 - sumOf (y.on core) (fun h => h.lr.rows * h.lr.span)

/-- The free fibre slots of some cores. -/
def Layout.freeOf (y : Layout) (cores : List Nat) : Nat := cores.foldl (fun t c => t + y.free c) 0

/-- The best of some candidates by a measure, the first of equals. -/
def bestBy {α : Type} (m : α → Nat) : List α → Option α
  | [] => none
  | a :: r =>
    match bestBy m r with
    | none => some a
    | some b => if m a < m b then some b else some a

/-! ### The choices of R326 -/

/-- A core may be used by a queue: its masks allow it and it is in service. -/
def State.mayPlace (s : State) (q : LQueue) (core : Nat) : Bool :=
  q.mayCore core && (s.die (core / 64)).coresvc.getLsbD (core % 64) && s.inService (core / 64)

/-- The skeins of a cluster group go to cores one after another, each to the core that keeps the most free
fibre slots. -/
def placeSkeins (s : State) (k : Nat) (q : LQueue) (r : LaunchRec) (clus : Nat) :
    List Nat → Layout → Option Layout
  | [], y => some y
  | i :: l, y =>
    let cores := ((List.range 8).map (fun j => 8 * clus + j)).filter (s.mayPlace q)
    match bestBy (fun (h : Hold) => y.free h.core) (cores.filterMap (fun c => y.take k c i r)) with
    | none => none
    | some h => placeSkeins s k q r clus l { y with holds := y.holds ++ [h] }

/-- A cluster takes a cluster group, with its pool allocation. -/
def placeInCluster (s : State) (k : Nat) (q : LQueue) (r : LaunchRec) (clus : Nat) (l : List Nat) (y : Layout) :
    Option Layout :=
  let used := (y.pools.filter (fun p => p.clus == clus)).foldl (fun t p => t + p.size) 0
  if 8388608 < used + r.pool then none
  else placeSkeins s k q r clus l { y with pools := y.pools ++ [{ clus := clus, size := r.pool }] }

/-- The cores of a cluster. -/
def coresOf (clus : Nat) : List Nat := (List.range 8).map (fun j => 8 * clus + j)

/-- The cluster groups of a die group go to clusters of a die, each to the one with the most free fibre
slots that can take it. -/
def placeInDie (s : State) (k : Nat) (q : LQueue) (r : LaunchRec) (die : Nat) :
    List (List Nat) → Layout → Option Layout
  | [], y => some y
  | g :: l, y =>
    let opts := (List.range 8).filterMap (fun c =>
      (placeInCluster s k q r (8 * die + c) g y).map (fun z => (8 * die + c, z)))
    match bestBy (fun (e : Nat × Layout) => y.freeOf (coresOf e.1)) opts with
    | none => none
    | some e => placeInDie s k q r die l e.2

/-- The cores of a die. -/
def dieCores (die : Nat) : List Nat := (List.range 64).map (fun j => 64 * die + j)

/-- The die that takes a die group: the one with the most free fibre slots. -/
def placeGroups (s : State) (k : Nat) (q : LQueue) (r : LaunchRec) (gs : List (List Nat)) : Option Layout :=
  let y := s.layout
  let opts := (List.range 4).filterMap (fun d => (placeInDie s k q r d gs y).map (fun z => (d, z)))
  (bestBy (fun (e : Nat × Layout) => y.freeOf (dieCores e.1)) opts).map (fun e => e.2)

/-! ### Groups -/

/-- The die group of a skein of a record. -/
def LaunchRec.dieGroup (r : LaunchRec) (idx : Nat) : Nat := groupKey 3 r.wid idx

/-- The cluster group of a skein of a record. -/
def LaunchRec.clusGroup (r : LaunchRec) (idx : Nat) : Nat := groupKey 2 r.wid idx

/-- Some skeins cut into their cluster groups, in ascending order of the lowest member. -/
def cutGroups (r : LaunchRec) : Nat → List Nat → List (List Nat)
  | 0, _ => []
  | _ + 1, [] => []
  | n + 1, i :: l =>
    let same := fun j => r.clusGroup j == r.clusGroup i
    (i :: l.filter same) :: cutGroups r n (l.filter (fun j => !same j))

/-- The waiting skeins of the die group that a launch places next. -/
def Launch.nextGroup (l : Launch) : List Nat :=
  match l.waiting with
  | [] => []
  | i :: _ => l.waiting.filter (fun j => l.lr.dieGroup j == l.lr.dieGroup i)

/-! ### Regions that give way (07 R188 R189) -/

/-- The granules of a region. -/
def Mapping.granules (m : Mapping) : Nat := m.desc.top - m.desc.sbase

/-- A region that one of some records' mappings will find again. -/
def wanted (l : List Hold) (m : Mapping) : Bool :=
  m.desc.key != 0 && l.any (fun h => h.lr.ctx == m.ctx && h.lr.maps.any (fun d =>
    d.key == m.desc.key && m.desc.sameShape d))

/-- The stash that a core needs for its skeins and `extra` bytes, and for the regions that are not to be found
again. -/
def State.stashNeed (s : State) (core : Nat) (new : List Hold) (extra : Nat) : Nat :=
  extra + sumOf (s.layout.on core) (fun h => h.lr.stash) +
    (((s.core core).regions.filterMap (tget s.maps)).filter (fun m => !wanted new m)).foldl
      (fun t m => t + m.granules) 0

/-- The core reclaims its regions, oldest first, until the granules suffice; one whose writeback meets a fault
holds the others up (07 R187 R189; log 55). -/
def makeRoom (core : Nat) (new : List Hold) (extra : Nat) : Nat → Act
  | 0, p => p
  | n + 1, p =>
    if p.now.stashNeed core new extra ≤ 524288 then p
    else
      match (p.now.core core).regions with
      | [] => p
      | k :: _ =>
        let q := reclaimRegion k p
        if (q.now.core core).regions.contains k then q else makeRoom core new extra n q

/-- The holds on a core whose skeins have not begun to run: their mappings may find regions (07 R188). -/
def State.newHolds (s : State) (core : Nat) : List Hold :=
  (s.skeins.filter (fun e => e.2.core == core && (match e.2.run with
    | .admitting _ => true
    | .held _ => true
    | _ => false))).map (fun e =>
      { launch := e.2.launch, core := core, lane0 := e.2.lane0, slot := e.2.slot, idx := e.2.idx, lr := e.2.lr })

/-! ### Placement -/

/-- A new writer identity of a core (15 R374). -/
def State.newIdent (s : State) (core : Nat) : Ident :=
  { die := core / 64, core := core % 64, serial := (s.core core).serial }

/-- The serial of a core advances. -/
def bumpSerial (core : Nat) : Act := modCore core (fun c => { c with serial := c.serial + 1 })

/-- A skein takes its resources and waits for its admission (06 R157 step 1). Its front context starts at SENTRY
as one that came there by no control transfer (log 46). -/
def reserve (k : Nat) (h : Hold) : Act := fun p =>
  let n := p.now.nextKey
  let x : Skein :=
    { launch := k, lr := h.lr, idx := h.idx, core := h.core, lane0 := h.lane0, slot := h.slot,
      run := .admitting 2, cgrp := h.lr.clusGroup h.idx, ctl := ctlReset, stashSerial := n,
      front := { pos := posAt (BitVec.ofNat 51 h.lr.sentry), ident := p.now.newIdent h.core,
                 run := .saved } }
  bumpSerial h.core ((bumpKey p).emit (.skein n x))

/-- The pool allocation of a cluster group (11 R276). -/
def allocPool (k : Nat) (h : Hold) : Act := fun p =>
  let g := h.lr.clusGroup h.idx
  if h.lr.pool = 0 || p.now.pools.any (fun e => e.2.launch == k && e.2.cgrp == g) then p
  else
    let n := p.now.nextKey
    (bumpKey p).emit (.pool n
      { launch := k, cgrp := g, clus := h.core / 8, size := h.lr.pool, serial := n })

/-- The skeins of a placed die group take their places. -/
def settleGroup (k : Nat) (new : List Hold) : Act := forEach new (fun h q => allocPool k h (reserve k h q))

/-- A launch places its next die group, if it fits. -/
def placeNext (k : Nat) (l : Launch) (p : Plan) : Option Plan :=
  let g := l.nextGroup
  let before := p.now.layout.holds.length
  match (if g.isEmpty || l.aborting then none
      else placeGroups p.now k (p.now.queue l.queue) l.lr (cutGroups l.lr g.length g)) with
  | none => none
  | some y =>
    let d := l.lr.dieGroup (g.headD 0)
    some (modLaunch k (fun z =>
      { z with
        waiting := z.waiting.filter (fun j => !g.contains j)
        placed := p.now.time
        blocking := false
        quanta := tput z.quanta d p.now.time }) (settleGroup k (y.holds.drop before) p))

/-- A launch keeps later ones from placing: it has waited BLOCKAGE cycles since it last placed a group, and
blocking is not disabled (13 R316 R325). -/
def State.blocks (s : State) (l : Launch) : Bool :=
  s.blockage != 0 && !l.waiting.isEmpty && !l.aborting &&
    (l.blocking || l.placed + s.blockage.toNat ≤ s.time)

/-- The launches are considered in order of acceptance; one that blocks and cannot place ends the round
(13 R325). -/
def placeRound : List (Nat × Launch) → Act
  | [], p => p
  | (k, l) :: r, p =>
    match placeNext k l p with
    | some q => q
    | none => if p.now.blocks l then p else placeRound r p

/-- PLACEMENT (13 R325): one die group is placed. -/
def execPlacement (s : State) : Host.Outcome State Fault Refusal :=
  commit s (fun p => placeRound p.now.launches p)

/-- A launch has waited BLOCKAGE cycles since it last placed a group (13 R325). -/
def blockLaunch (k : Nat) : Act := fun p =>
  modLaunch k (fun l =>
    if p.now.blockage != 0 && !l.waiting.isEmpty && l.placed + p.now.blockage.toNat ≤ p.now.time then
      { l with blocking := true }
    else l) p

/-- BLOCKAGE_EXPIRY (13 R325). -/
def execBlockageExpiry (launch : Nat) (s : State) : Host.Outcome State Fault Refusal :=
  commit s (blockLaunch launch)

/-! ### Admission (06 R157) -/

/-- A skein is held unstarted at a step of its admission and reported (04 R126, 13 R317). -/
def holdSkein (sk : Nat) (x : Skein) (step cause va : Nat) : Act := fun p =>
  queueStop x.core (stopRecord x 3 0 0 { cause := BitVec.ofNat 8 cause, addr := BitVec.ofNat 64 va })
    (modSkein sk (fun y => { y with run := .held step }) p)

/-- The mappings of the list are set up in their slots (07 R181). -/
def setupMaps (sk : Nat) : Nat → List MapDesc → Act
  | _, [], p => p
  | i, d :: r, p => setupMaps sk (i + 1) r (setupDesc sk i d p).2

/-- The image that a record names is resident (06 R156, 07 R196). -/
def State.imageResident (s : State) (core : Nat) (r : LaunchRec) : Bool :=
  match (s.core core).const with
  | none => false
  | some c => r.ckey != 0 && r.caddr != 0 && c.key == r.ckey && c.addr == r.caddr

/-- The page of a range that a read meets a fault at. -/
def State.faultIn (s : State) (core ctx va n : Nat) : Option Nat :=
  ((piecesOf va n).find? (fun e => (s.unitRead core ctx e.1 e.2).isNone)).map (fun e => e.1)

/-- Bytes as a table from 0. -/
def tableOf (l : List Byte) : Table Byte := l.zipIdx.map (fun e => (e.2, e.1))

/-- The fibres of a skein, from one index on: each takes its reset values and is filed at FENTRY, as one that came
there by no control transfer (06 R157; log 46). -/
def startFibres (sk : Nat) (x : Skein) (i : Nat) : Nat → Act
  | 0, p => p
  | n + 1, p =>
    let k := p.now.nextKey
    let f : Fibre :=
      { sk := sk, idx := BitVec.ofNat 10 i, lane := BitVec.ofNat 6 (x.lane0 + i % x.lr.span),
        pos := posAt (BitVec.ofNat 51 x.lr.fentry), ident := p.now.newIdent x.core }
    startFibres sk x (i + 1) n (fileFibre k (bumpSerial x.core ((bumpKey p).emit (.fibre k f))))

/-- Steps 5 to 7: the contexts of a skein start. -/
def startSkein (sk : Nat) : Act := fun p =>
  let p := modSkein sk (fun x => { x with run := .resident, front := { x.front with run := .ready } }) p
  match tget p.now.skeins sk with
  | none => p
  | some x => startFibres sk x 0 x.lr.fibres p

/-- Step 4: the constant image is loaded unless its key is resident. -/
def loadImage (sk : Nat) (x : Skein) : Act := fun p =>
  if x.lr.clen = 0 || p.now.imageResident x.core x.lr then startSkein sk p
  else
    match p.now.unitRead x.core x.lr.ctx x.lr.caddr x.lr.clen with
    | some l =>
      let img : ConstImage :=
        { key := x.lr.ckey, addr := x.lr.caddr, bytes := tableOf l }
      startSkein sk (modCore x.core (fun c => { c with const := some img })
        (bumpFresh (usedRange x.core x.lr.ctx x.lr.caddr x.lr.clen p)))
    | none =>
      holdSkein sk x 4 Cause.translation.code
        ((p.now.faultIn x.core x.lr.ctx x.lr.caddr x.lr.clen).getD x.lr.caddr) p

/-- The skeins of a die group of a launch. -/
def State.groupSkeins (s : State) (launch grp : Nat) : Table Skein :=
  s.skeins.filter (fun e => e.2.launch == launch && e.2.lr.dieGroup e.2.idx == grp)

/-- A core is stopped: a die group on it is being switched out (13 R329). -/
def State.coreStopped (s : State) (core : Nat) : Bool :=
  s.launches.any (fun e => e.2.leaving.any (fun g => (s.groupSkeins e.1 g).any (fun x => x.2.core == core)))

/-- The admission of a skein runs from a step on, once its core has the granules for it (07 R189) and is not
stopped (06 R172). -/
def admitSkein (sk : Nat) : Act := fun p =>
  match tget p.now.skeins sk with
  | none => p
  | some x =>
    match x.run with
    | .admitting step =>
      let p := makeRoom x.core (p.now.newHolds x.core) 0 65 p
      if 524288 < p.now.stashNeed x.core (p.now.newHolds x.core) 0 || p.now.coreStopped x.core then p else
      match p.now.descriptor x.lr.ctx with
      | none => holdSkein sk x step 0 0 p
      | some d =>
        let p := modSkein sk (fun y =>
          { y with
            ctl := ctlOf d x.lr.sup
            quantum := d.quantum
            save := d.save }) p
        let p := if step ≤ 3 then setupMaps sk 0 x.lr.maps p else p
        loadImage sk x p
    | _ => p

/-- SKEIN_ADMISSION (06 R157). -/
def execSkeinAdmission (sk : Nat) (s : State) : Host.Outcome State Fault Refusal := commit s (admitSkein sk)

end Sys2Proof.Machine
end

