-- ==== Sys2Proof/Machine/Strands.lean ====
section
/-! DEFINITION. The card bins and the issue slots as agents: a bin ages, an eligible bin is drawn, and a
slot exchanges an active strand for a pending one (06 R158-R161). -/

namespace Sys2Proof.Machine

open Sys2Proof

/-- sr.ctl of the skein whose fibre was filed first into a bin (06 R159). -/
def State.binCtl (s : State) (b : Bin) : Nat :=
  ((b.fibs.head?.bind (fun e => tget s.fibres e.1)).bind (fun f =>
    (tget s.skeins f.sk).map (fun x => x.ctl.toNat))).getD 0

/-- BINFULL of a bin. -/
def State.binFull (s : State) (b : Bin) : Nat := bitsOf (s.binCtl b) 29 24

/-- BINAGE of a bin. -/
def State.binAge (s : State) (b : Bin) : Nat := bitsOf (s.binCtl b) 39 32

/-- The oldest fibre of a bin has waited BINAGE cycles (06 R159). -/
def State.binDue (s : State) (b : Bin) : Bool :=
  match b.fibs with
  | [] => false
  | (_, t) :: _ => t + s.binAge b ≤ s.time

/-- A bin is full, aged or forced, or it was and keeps fibres (06 R159). -/
def State.binEligible (s : State) (b : Bin) : Bool :=
  b.aged || s.binDue b || b.forced || b.drawn || s.binFull b ≤ b.fibs.length

/-- BIN_AGED: a bin whose oldest fibre has waited BINAGE cycles becomes eligible (06 R159). -/
def execBinAged (core bin : Nat) (s : State) : Host.Outcome State Fault Refusal :=
  commit s (fun p => modCore core (fun c =>
    { c with bins := c.bins.modify bin (fun b => { b with aged := b.aged || p.now.binDue b }) }) p)

/-- STRAND_DRAW: the eligible bin whose oldest fibre was filed first is drawn into one strand (06 R159), and
the fibres that wait for a bin are filed (06 R158). -/
def execStrandDraw (core : Nat) (s : State) : Host.Outcome State Fault Refusal :=
  commit s (fun p =>
    if !p.now.drawOpen core then p
    else
      let p := match oldestBin (p.now.core core).bins p.now.binEligible with
        | none => p
        | some i => drawBin core i p
      fileWaiting core (p.now.core core).unfiled.length p)

/-- The strand that has waited longest. -/
def longest : Table Strand → Option (Nat × Strand)
  | [] => none
  | e :: r =>
    match longest r with
    | none => some e
    | some f => if f.2.since < e.2.since then some f else some e

/-- The pending strand that an exchange takes in: the oldest that was ready when it was last tried, else the
oldest (06 R160; log 4). -/
def State.nextIn (s : State) (core slot : Nat) : Option (Nat × Strand) :=
  match longest ((s.pendingOf core slot).filter (fun e => !e.2.waits)) with
  | some e => some e
  | none => longest (s.pendingOf core slot)

/-- A pending strand joins the active set of its slot. -/
def activate (n : Nat) : Act := modStrand n (fun x =>
  { x with
    active := true
    waits := false
    yields := false })

/-- STRAND_EXCHANGE: where an active strand of a slot has stalled or yielded, the oldest ready pending strand
takes its place; it takes a free place as well (06 R160). -/
def execStrandExchange (core slot : Nat) (s : State) : Host.Outcome State Fault Refusal :=
  commit s (fun p =>
    match p.now.nextIn core slot with
    | none => p
    | some (n, _) =>
      let act := p.now.activeOf core slot
      if act.length < 8 then activate n p
      else
        match longest (act.filter (fun e => e.2.waits || e.2.yields)) with
        | none => p
        | some (m, _) =>
          modStrand m (fun x =>
            { x with
              active := false
              yields := false
              since := p.now.time }) (activate n p))

end Sys2Proof.Machine
end

