-- ==== Sys2Proof/Machine/Switching.lean ====
section
/-! DEFINITION. Fatal errors, the failover of the control processors, context switches of die groups,
their quanta, and the abort of a launch (06 R172 R173, 07 R190, 11 R280 R290, 13 R329 R330 R332 R333,
16 R398). -/

namespace Sys2Proof.Machine

open Sys2Proof

/-! ### Fatal errors (16 R398) -/

/-- A bit of HEVT is set (16 R382 R396). -/
def setHevt (bit : Nat) : Act := fun p =>
  raiseVec 0 10 (modRest (fun s => { s with hevt := s.hevt ||| BitVec.ofNat 32 (2 ^ bit) }) p)

/-- The incarnations of agents 0 to 4 (15 R367). -/
def State.incBytes (s : State) : List Byte := (List.range 5).map (fun a => (s.die a).inc)

/-- The header of the dump and its sections. -/
def State.dumpText (s : State) (cause : Nat) : List Byte :=
  let body := (Config.dumpBytes s.fresh).take (2 ^ 28 - 40 - Config.signatureBytes)
  bytesOf (0x58445350 + 2 ^ 32 + cause * 2 ^ 40) 8 ++ bytesOf s.time 8 ++ s.incBytes ++ bytesOf 0 3 ++
    bytesOf (Config.dumpSections s.fresh) 8 ++ bytesOf (40 + body.length + Config.signatureBytes) 8 ++ body

/-- A fatal error: issue stops, the dump is written and signed, FSTAT and HEVT[3] are set and the host is
signalled (16 R398; log 29). -/
def fatal (cause : BitVec 8) : Act := fun p =>
  if p.now.stopped then p
  else
    let text := p.now.dumpText cause.toNat
    let p := writeBytes Config.dumpBase (text ++ Config.slhSign text) p
    let p := modRest (fun s =>
      { s with
        stopped := true
        fstat := cause
        fresh := s.fresh + 1 }) p
    send .fatal (raiseVec 0 0 (setHevt 3 p))

/-- FATAL_ERROR (16 R398): the causes of the table. -/
def execFatalError (cause : BitVec 8) (s : State) : Host.Outcome State Fault Refusal :=
  commit s (actIf (1 ≤ cause.toNat && cause.toNat ≤ 5) (fatal cause))

/-- The processor that serves a queue (13 R315 R333). -/
def State.servedBy (s : State) (q : Nat) : Nat := tgetD s.served q (q % 4)

/-- The processor that serves a queue is in service (13 R315 R333). -/
def State.inCharge (s : State) (q : Nat) : Bool := s.cps.contains (s.servedBy q)

/-- The queues of a processor that leaves service go to those that are left, in ascending order of both
(13 R333; log 56). A switch in progress is started again: its successor finds the cores stopped. -/
def handQueues (cp : Nat) : Act := modRest (fun s =>
  let left := sdel s.cps cp
  let qs := (List.range 64).filter (fun q => s.servedBy q == cp)
  { s with
    cps := left
    served := if left.isEmpty then s.served
      else qs.zipIdx.foldl (fun t e => tput t e.1 (left.getD (e.2 % left.length) 0)) s.served })

/-- CONTROL_PROCESSOR_FAILOVER: a control processor leaves service; without one left the package stops
(13 R333, 16 R398). -/
def execControlProcessorFailover (cp : Nat) (s : State) : Host.Outcome State Fault Refusal :=
  commit s (fun p =>
    if !p.now.cps.contains cp then p
    else
      let p := handQueues cp p
      if p.now.cps.isEmpty then fatal 2 p else p)

/-! ### Stopping and going on (06 R172 step 1) -/

/-- A fibre stops at a word boundary, keeping what it waits for. One that is stopped, halted or held by a
fault stays so; one whose word waits for remote data stops when the word ends (05 R148). -/
def saveFibre (k : Nat) : Act := fun p =>
  match tget p.now.fibres k with
  | none => p
  | some f =>
    let save := fun (w : Option (Wait × Pos)) => modFibre k (fun g => { g with run := .saved w, clause := none })
    match f.run with
    | .strand _ => if f.awaited.isSome then p else save none (leaveRun k p)
    | .filed => save none (leaveRun k p)
    | .gather _ => save none p
    | .parked w next => save (some (w, next)) p
    | _ => p

/-- A skein stops: every fibre and the front context stop at a word boundary, gatherings are
dissolved. -/
def stopSkein (sk : Nat) : Act := fun p =>
  match tget p.now.skeins sk with
  | none => p
  | some x =>
    if x.run != .resident && x.run != .stopping then p
    else
      let p := forEach (p.now.fibresOf sk) saveFibre p
      modSkein sk (fun y =>
        { y with
          run := .stopping
          front :=
            if y.front.run == .ready && y.front.awaited.isNone then
              { y.front with
                run := .saved
                clause := none }
            else y.front }) p

/-- A saved fibre goes on: it is filed at its resume address, or waits again. -/
def restoreFibre (k : Nat) : Act := fun p =>
  match tget p.now.fibres k with
  | none => p
  | some f =>
    match f.run with
    | .saved none => fileFibre k p
    | .saved (some (w, next)) => modFibre k (fun g => { g with run := .parked w next }) p
    | _ => p

/-- The contexts of a skein that is on its core go on. -/
def resumeSkein (sk : Nat) : Act := fun p =>
  let p := modSkein sk (fun y =>
    { y with
      run := if y.run == .stopping then .resident else y.run
      front := { y.front with run := if y.front.run == .saved then .ready else y.front.run } }) p
  retestWaits sk (forEach (p.now.fibresOf sk) restoreFibre p)

/-- The skeins on some cores. -/
def State.skeinsOnCores (s : State) (cores : List Nat) : Table Skein :=
  s.skeins.filter (fun e => cores.contains e.2.core && e.2.holding)

/-- Every skein of some cores stops. -/
def stopCores (cores : List Nat) : Act := fun p =>
  forEach (p.now.skeinsOnCores cores) (fun e => stopSkein e.1) p

/-- Cores that stopped at a time go on with the skeins that are left on them; the time counts to no quantum
(13 R329). -/
def resumeCores (cores : List Nat) (since : Nat) : Act := fun p =>
  let l := (p.now.skeinsOnCores cores).filter (fun e => e.2.run == .stopping && !p.now.coreStopped e.2.core &&
    ((tget p.now.launches e.2.launch).map (fun y => !y.aborting)).getD false)
  let gs := l.foldl (fun m e =>
    let g := (e.2.launch, e.2.lr.dieGroup e.2.idx)
    if m.contains g then m else m ++ [g]) ([] : List (Nat × Nat))
  let p := forEach l (fun e => resumeSkein e.1) p
  forEach gs (fun g => modLaunch g.1 (fun y => match tget y.quanta g.2 with
    | some t => { y with quanta := tput y.quanta g.2 (t + (p.now.time - since)) }
    | none => y)) p

/-! ### Draining (06 R172 steps 2 and 3) -/

/-- A load that the drain does not wait for: a knotted word gives it whose phase is open, or that waits behind a
ply that has not begun (09 R264, 11 R290), or it is poisoned (05 R149; log 30). -/
def Load.idle (l : Load) : Bool :=
  l.poisoned || match l.src with
    | .pending => true
    | _ => false

/-- LD and ST of a fibre are 0, but for the knotted words of open phases and those behind a ply that has not
begun (log 30). -/
def Fibre.drained (f : Fibre) : Bool := f.loads.all Load.idle && f.stores.isEmpty && f.steers.isEmpty

/-- A reel channel stands between lines and holds no verified plaintext (08 R226, 16 R386). -/
def Chan.drained (c : Chan) : Bool :=
  c.held || c.cmds.all (fun y => !y.asked && y.plain.isNone)

/-- The tile operations are complete, or the oldest is an mmz, which stands at a step boundary, or a ply that has not
begun (09 R253 R264, 11 R290). -/
def Skein.tilesDrained (x : Skein) : Bool :=
  match x.oldest with
  | none => true
  | some o => o.minor == 1 || (o.minor == 2 && !o.begun)

/-- A skein that is stopped has nothing under way. -/
def State.drained (s : State) (sk : Nat) (x : Skein) : Bool :=
  (s.fibresOf sk).all (fun k => ((tget s.fibres k).map Fibre.drained).getD true) &&
    x.front.loads.all Load.idle && x.front.stores.isEmpty && x.chans.all (fun e => e.2.drained) &&
    x.tilesDrained && !s.fills.any (fun f => f.writes.isSome && x.slots.any (fun e => e.2 == f.map))

/-! ### Saving (06 R172 step 4, 07 R190) -/

/-- A mapping is reinstated with every line unfilled; its registrations are gone. -/
def unfillMap (map : Nat) : Act := fun p =>
  let p := releaseMap map p
  let p := modRest (fun s => { s with fills := s.fills.filter (fun f => f.map != map) }) p
  modMap map (fun m =>
    { m with
      bytes := []
      filled := []
      loose := []
      poisoned := []
      found := false }) p

/-- The dirty bytes of a stopped skein are written back. -/
def backSkein (x : Skein) : Act := forEach x.slots (fun e => writeBackMap e.2)

/-- The regions of the context of a skein on its core are reclaimed (07 R190). -/
def giveRegions (x : Skein) : Act := fun p =>
  forEach ((p.now.core x.core).regions.filter (fun k =>
    ((tget p.now.maps k).map (fun m => m.ctx == x.lr.ctx && !m.closing)).getD false)) reclaimRegion p

/-- Every mapping of a skein is clean. -/
def State.skeinClean (s : State) (x : Skein) : Bool := x.slots.all (fun e => s.clean e.2)

/-- An agent of a skein. -/
def Agent.of (sk : Nat) (a : Agent) : Bool :=
  match a with
  | .chan k _ => k == sk
  | .tileOp k => k == sk
  | .who (.front k) => k == sk
  | .ctx (.front k) => k == sk
  | _ => false

/-- The agents of a skein no longer wait for walks. -/
def dropSkeinWalks (sk : Nat) (x : Skein) : Act :=
  modDie (x.core / 64) (fun d => { d with walks := keepWalks (d.walks.map (fun w =>
    { w with waiters := w.waiters.filter (fun y => !y.agent.of sk) })) })

/-- A `reel.dec` that has not verified is issued again from its first line (16 R386). -/
def ReelCmd.again (c : ReelCmd) : ReelCmd := if c.form = 5 && c.plain.isNone then { c with line := 0 } else c

/-- A skein is saved and its core is free. -/
def saveSkein (sk : Nat) (x : Skein) : Act := fun p =>
  let p := forEach x.slots (fun e => unfillMap e.2) (dropSkeinWalks sk x p)
  modSkein sk (fun y =>
    { y with
      run := .switchedOut (match x.run with
        | .held n => some n
        | _ => none)
      image := if x.lr.clen = 0 then none else (p.now.core x.core).const
      chans := y.chans.map (fun e => (e.1, { e.2 with cmds := e.2.cmds.map ReelCmd.again })) }) p

/-! ### A die group switched out (13 R329 R330) -/

/-- A skein is switched out. -/
def Skein.isOut (x : Skein) : Bool :=
  match x.run with
  | .switchedOut _ => true
  | _ => false

/-- The cores of some skeins. -/
def coresOfSkeins (l : Table Skein) : List Nat := l.foldl (fun m e => sadd m e.2.core) []

/-- The group is on its cores, and no skein of it is being admitted. -/
def allResident (l : Table Skein) : Bool :=
  !l.isEmpty && l.all (fun e => match e.2.run with
    | .resident => true
    | .held _ => true
    | _ => false)

/-- A stop of a die group begins: its cores stop, whatever skeins they hold; the time counts to no quantum
(06 R172, 13 R329). -/
def stopGroup (launch grp : Nat) : Act := fun p =>
  let p := stopCores (coresOfSkeins (p.now.groupSkeins launch grp)) p
  modLaunch launch (fun l =>
    { l with
      expired := sdel l.expired grp
      leaving := sadd l.leaving grp
      quanta := tput l.quanta grp p.now.time }) p

/-- The shape records of some cores are discarded (08 R225). -/
def dropShapes (cores : List Nat) : Act := forEach cores (fun c => modCore c (fun y => { y with shapes := [] }))

/-- The bytes of the parts in use of some skeins on one core: registers, stash, tiles, constant image and control
state (13 R329; log 54). -/
def imageLength (l : List Skein) (serial : Nat) : Nat :=
  l.foldl (fun t x => t + 4 * x.lr.rows * x.lr.regs * x.lr.span + x.lr.stash + 16384 * x.lr.tiles + x.lr.clen) 0 +
    Config.imageControl serial % 131073

/-- The bytes of an image. -/
def imageBytes (serial n : Nat) : List Byte := (List.range n).map (Config.imageByte serial)

/-- An image is written to the save area, and the skeins that it belongs to know of it. -/
def writeImage (addr n : Nat) (sks : List Nat) : Act := fun p =>
  let serial := p.now.nextKey
  let p := physWrite addr (imageBytes serial n) (bumpKey p)
  forEach sks (fun k => modSkein k (fun x => { x with saved := x.saved ++ [(addr, n, serial)] })) p

/-- The image of a core goes to its place in the save area (13 R329). -/
def saveCore (l : Table Skein) (core : Nat) : Act := fun p =>
  match l.filter (fun e => e.2.core == core) with
  | [] => p
  | e :: r =>
    writeImage (e.2.save + 0x220000 * core) (imageLength ((e :: r).map (fun y => y.2)) p.now.nextKey)
      ((e :: r).map (fun y => y.1)) p

/-- The pool allocations of a die group go to their places in the save area (11 R280, 13 R329). -/
def savePools (l : Table Skein) : Act := fun p =>
  forEach (p.now.pools.filter (fun e => l.any (fun x => x.2.launch == e.2.launch && x.2.cgrp == e.2.cgrp)))
    (fun e =>
      let own := l.filter (fun x => x.2.launch == e.2.launch && x.2.cgrp == e.2.cgrp)
      writeImage ((own.head?.map (fun x => x.2.save)).getD 0 + 0x22000000 + 0x800000 * e.2.clus) e.2.size
        (own.map (fun x => x.1))) p

/-- A stopped die group that has drained is saved and frees its cores; their other skeins go on (06 R172,
13 R329). -/
def saveGroup (launch grp : Nat) : Act := fun p =>
  let l := p.now.groupSkeins launch grp
  let cores := coresOfSkeins l
  let all := p.now.skeinsOnCores cores
  if !(all.all (fun e => e.2.run != .stopping || p.now.drained e.1 e.2) &&
      cores.all (fun c => p.now.flushed c 5)) then p
  else
    let p := forEach l (fun e => giveRegions e.2) (forEach all (fun e => backSkein e.2) p)
    if !all.all (fun e => p.now.skeinClean e.2) then p
    else
      let p := forEach cores (saveCore l) (savePools l (dropShapes cores p))
      let p := forEach l (fun e => saveSkein e.1 e.2) p
      let since := ((tget p.now.launches launch).bind (fun y => tget y.quanta grp)).getD p.now.time
      let spent := (p.now.time - since) * cores.length
      let p := modRest (fun s => { s with swcyc := s.swcyc + BitVec.ofNat 64 spent }) p
      resumeCores cores since (modLaunch launch (fun y =>
        { y with
          leaving := sdel y.leaving grp
          quanta := tdel y.quanta grp }) p)

/-- A die group is being switched out. -/
def State.isLeaving (s : State) (launch grp : Nat) : Bool :=
  ((tget s.launches launch).map (fun l => l.leaving.contains grp)).getD false

/-- A die group is switched out, as far as it has drained. -/
def switchOut (launch grp : Nat) : Act := fun p =>
  let p := if p.now.isLeaving launch grp then stopCores (coresOfSkeins (p.now.groupSkeins launch grp)) p
    else if allResident (p.now.groupSkeins launch grp) then stopGroup launch grp p
    else p
  if p.now.isLeaving launch grp then saveGroup launch grp p else p

/-- An accepted launch of another context waits for cores that a die group holds: its queue may use one of them,
and it has skeins that are not placed or are switched out (13 R330). -/
def State.othersWait (s : State) (launch grp : Nat) : Bool :=
  let ctx := (tget s.launches launch).map (fun l => l.lr.ctx)
  let cores := coresOfSkeins (s.groupSkeins launch grp)
  s.launches.any (fun e => some e.2.lr.ctx != ctx && !e.2.aborting &&
    (!e.2.waiting.isEmpty || s.skeins.any (fun x => x.2.launch == e.1 && x.2.isOut)) &&
    cores.any (s.mayPlace (s.queue e.2.queue)))

/-- CONTEXT_SWITCH_OUT: the processor of the queue switches out a pre-emptible die group whose cores another
context waits for, or goes on with one that is being switched out (13 R315 R329 R330). -/
def execContextSwitchOut (launch grp : Nat) (s : State) : Host.Outcome State Fault Refusal :=
  commit s (fun p =>
    match tget p.now.launches launch with
    | none => p
    | some l =>
      if l.aborting || !p.now.inCharge l.queue then p
      else if l.leaving.contains grp || (l.expired.contains grp && p.now.othersWait launch grp) then
        switchOut launch grp p
      else p)

/-- The quantum of a die group: QUANTUM as the admission of its first skein read it (13 R317; log 57). -/
def State.groupQuantum (s : State) (launch grp : Nat) : Nat :=
  ((s.groupSkeins launch grp).head?.map (fun e => e.2.quantum)).getD 0

/-- QUANTUM_EXPIRY: the quantum of a resident die group is used up (13 R330). -/
def execQuantumExpiry (launch grp : Nat) (s : State) : Host.Outcome State Fault Refusal :=
  commit s (fun p =>
    match tget p.now.launches launch with
    | none => p
    | some l =>
      let q := p.now.groupQuantum launch grp
      match tget l.quanta grp with
      | none => p
      | some t =>
        if q != 0 && t + q ≤ p.now.time && allResident (p.now.groupSkeins launch grp) then
          modLaunch launch (fun y => { y with expired := sadd y.expired grp }) p
        else p)

/-! ### A die group loaded in (13 R329, 06 R172) -/

/-- A member mask in its new lane block. -/
def moveMask (old new : Nat) (w : DWord) : DWord := BitVec.ofNat 64 (w.toNat / 2 ^ old * 2 ^ new)

/-- A fibre in its new lane block: its home lane keeps the offset (06 R172), and its member masks move with it
(log 51). -/
def Fibre.moved (f : Fibre) (old new : Nat) : Fibre :=
  { f with
    lane := BitVec.ofNat 6 (f.lane.toNat - old + new)
    m := f.m.map (fun e => (e.1, moveMask old new e.2)) }

/-- The image of a skein in the save area is not the one that was written there (13 R329). -/
def State.imageChanged (s : State) (x : Skein) : Bool :=
  x.saved.any (fun e => s.physBytes e.1 e.2.1 != imageBytes e.2.2 e.2.1)

/-- A register of a context loaded from a changed image is a free value (13 R329; log 54). -/
def changedRegs (n count : Nat) : Table Word :=
  (List.range count).foldl (fun t i => tputD t i 0 (BitVec.ofNat 32 (Config.changedImage n i))) []

/-- The member masks of a fibre loaded from a changed image are free values within its lane block (01 R15, 13 R329;
log 54). -/
def changedMasks (n : Nat) (block : DWord) : Table DWord :=
  (List.range 7).foldl (fun t i => tputD t (i + 1) 0 (BitVec.ofNat 64 (Config.changedImage n i) &&& block)) []

/-- A skein whose image has been changed holds free values: registers, predicates and masks of its contexts,
stash bytes, tiles and pool bytes (13 R329; log 54). -/
def changeSkein (sk : Nat) (x : Skein) : Act := fun p =>
  let n := p.now.nextKey
  let p := bumpKey p
  let free := fun (i : Nat) => Config.changedImage n (4096 + i)
  let block := laneBlock (((tget p.now.skeins sk).map (fun y => y.lane0)).getD x.lane0) x.lr.span
  let p := forEach (p.now.fibresOf sk) (fun k => modFibre k (fun f =>
    { f with
      v := changedRegs (n + k) x.lr.regs
      p := BitVec.ofNat 8 (free k)
      m := changedMasks (n + k + 2 ^ 32) block })) p
  let p := modSkein sk (fun y =>
    { y with
      stash := []
      stashSerial := n
      tiles := y.tiles.map (fun e => (e.1,
        { e.2 with image := (List.range 16384).map (fun i => (i, BitVec.ofNat 8 (free (16384 * e.1 + i)))) }))
      front :=
        { y.front with
          s := (changedRegs n 64).map (fun e => (e.1, e.2.zeroExtend 64))
          q := BitVec.ofNat 8 (free 0) } }) p
  forEach (p.now.pools.filter (fun e => e.2.launch == x.launch && e.2.cgrp == x.cgrp)) (fun e =>
    modPool e.1 (fun y =>
      { y with
        bytes := []
        serial := n })) p

/-- The constant image of a skein is on its new core (13 R329). -/
def restoreImage (x : Skein) (core : Nat) : Act :=
  match x.image with
  | some i => modCore core (fun c => { c with const := some i })
  | none => id

/-- A core goes on with the pairing numbers of a launch where another left off (11 R290). -/
def movePlies (launch old new : Nat) : Act := fun p =>
  let n := max (tgetD (p.now.core old).plies launch 0) (tgetD (p.now.core new).plies launch 0)
  if n = 0 then p else modCore new (fun c => { c with plies := tput c.plies launch n }) p

/-- A ply that has not begun is offered again (11 R290). -/
def TileOp.offered (seq : Nat) (o : TileOp) : TileOp := if o.minor = 2 && !o.begun then { o with seq := seq } else o

/-- A skein takes its new place. -/
def loadSkein (sk : Nat) (x : Skein) (h : Hold) : Act := fun p =>
  let n := p.now.nextKey
  let p := modSkein sk (fun y =>
    { y with
      tops := y.tops.map (TileOp.offered n)
      core := h.core
      lane0 := h.lane0
      slot := h.slot
      image := none
      saved := []
      run := match x.run with
        | .switchedOut (some n) => .held n
        | _ => .stopping }) (bumpKey p)
  let p := movePlies x.launch x.core h.core (restoreImage x h.core p)
  let p := forEach x.slots (fun e => modMap e.2 (fun m => { m with core := h.core })) p
  let p := forEach (p.now.pools.filter (fun e => e.2.launch == x.launch && e.2.cgrp == x.cgrp))
    (fun e => modPool e.1 (fun y => { y with clus := h.core / 8 })) p
  forEach (p.now.fibresOf sk) (fun k => modFibre k (fun f => f.moved x.lane0 h.lane0)) p

/-- Every skein of a group is switched out. -/
def allOut (l : Table Skein) : Bool :=
  !l.isEmpty && l.all (fun e => e.2.isOut)

/-- A switched-out die group is loaded where it fits (13 R326 R329). -/
def switchIn (launch grp : Nat) (l : Launch) : Act := fun p =>
  let g := p.now.groupSkeins launch grp
  let idxs := g.foldl (fun m e => sadd m e.2.idx) []
  let before := p.now.layout.holds.length
  match placeGroups p.now launch (p.now.queue l.queue) l.lr (cutGroups l.lr idxs.length idxs) with
  | none => p
  | some y =>
    let new := y.holds.drop before
    let cores := new.foldl (fun m h => sadd m h.core) []
    let extra := fun (c : Nat) => sumOf (new.filter (fun h => h.core == c)) (fun h => h.lr.stash)
    let p := forEach cores (fun c => makeRoom c [] (extra c) 65) p
    if cores.any (fun c => 524288 < p.now.stashNeed c [] (extra c)) then p
    else
      let changed := g.any (fun e => p.now.imageChanged e.2)
      let p := forEach g (fun e q =>
        match new.find? (fun h => h.idx == e.2.idx) with
        | some h => loadSkein e.1 e.2 h q
        | none => q) p
      let p := forEach cores dropAllL1 (dropShapes cores p)
      let p := actIf changed (forEach g (fun e => changeSkein e.1 e.2)) p
      let p := modLaunch launch (fun z => { z with quanta := tput z.quanta grp p.now.time }) p
      forEach (g.filter (fun e => e.2.run == .switchedOut none)) (fun e => resumeSkein e.1) p

/-- CONTEXT_SWITCH_IN (13 R329). -/
def execContextSwitchIn (launch grp : Nat) (s : State) : Host.Outcome State Fault Refusal :=
  commit s (fun p =>
    match tget p.now.launches launch with
    | none => p
    | some l =>
      if l.aborting || !p.now.inCharge l.queue || !allOut (p.now.groupSkeins launch grp) then p
      else switchIn launch grp l p)

/-! ### Abort (13 R332) -/

/-- The abort of an accepted launch begins: unplaced skeins are discarded, the others stop. -/
def beginAbort (launch : Nat) : Act := fun p =>
  let old := ((tget p.now.launches launch).map (fun l => l.leaving)).getD []
  let since := ((tget p.now.launches launch).map (fun l => l.quanta)).getD []
  let p := modLaunch launch (fun l =>
    { l with
      waiting := []
      leaving := []
      aborting := true }) p
  let p := forEach old (fun g =>
    resumeCores (coresOfSkeins (p.now.groupSkeins launch g)) (tgetD since g p.now.time)) p
  forEach (p.now.skeins.filter (fun e => e.2.launch == launch)) (fun e => stopSkein e.1) p

/-- The launch that a queue took at a ring index. -/
def State.launchAt (s : State) (queue : Nat) (idx : BitVec 16) : Option Nat :=
  (s.launches.find? (fun e => e.2.queue == queue && e.2.ringIdx == idx)).map (fun e => e.1)

/-- A write of AQ and AIDX (13 R332). -/
def abortAt (queue : Nat) (idx : BitVec 16) : Act := fun p =>
  if p.now.abusy || !p.now.inCharge queue then p
  else
    match p.now.launchAt queue idx with
    | none => p
    | some k => beginAbort k (modRest (fun s => { s with abusy := true }) p)

/-- ABORT (13 R332). -/
def execAbort (queue : BitVec 6) (idx : BitVec 16) (s : State) : Host.Outcome State Fault Refusal :=
  commit s (abortAt queue.toNat idx)

/-- The mappings of a skein that has no core are gone. -/
def dropMaps (sk : Nat) (x : Skein) : Act := fun p =>
  forEach x.slots (fun e q => q.emit (.mapEnd e.2)) (modSkein sk (fun y => { y with slots := [] }) p)

/-- A stopped skein of an aborted launch ends, its mappings as at a skein's end (13 R332). -/
def discardSkein (sk : Nat) : Act := fun p =>
  let p := forEach (p.now.fibresOf sk) endFibre p
  let p := match tget p.now.skeins sk with
    | some x => if x.holding then dropSkeinWalks sk x p else dropMaps sk x p
    | none => p
  endSkein sk p

/-- The skeins of an aborted launch end once what they stored is performed. -/
def finishAbort (launch : Nat) : Act := fun p =>
  let p := forEach (p.now.skeins.filter (fun e => e.2.launch == launch)) (fun e => stopSkein e.1) p
  let l := p.now.skeins.filter (fun e => e.2.launch == launch)
  let ready := l.all (fun e => match e.2.run with
    | .stopping => p.now.drained e.1 e.2
    | _ => true) && (coresOfSkeins l).all (fun c => p.now.flushed c 5)
  if !ready then p
  else if l.isEmpty then finishLaunch launch p
  else forEach l (fun e q =>
    let q := actIf e.2.holding (clearRegions e.2) q
    if e.2.holding && !q.now.regionsReady e.2 then q else discardSkein e.1 q) p

/-- ABORT_DONE: aborted launches end, LDONE rises, and ABUSY falls when all is done (13 R332). -/
def execAbortDone (s : State) : Host.Outcome State Fault Refusal :=
  commit s (fun p =>
    let p := forEach (p.now.launches.filter (fun e => e.2.aborting)) (fun e => finishAbort e.1) p
    if p.now.abusy && !p.now.launches.any (fun e => e.2.aborting) then
      raiseVec 0 12 (modRest (fun s => { s with abusy := false }) p)
    else p)

end Sys2Proof.Machine
end

