-- ==== Sys2Proof/Machine/Stops.lean ====
section
/-! DEFINITION. System software and the stopped contexts of a die: stop records, the commands of the
translation block, and the watchdog (04 R126 R127, 16 R395). -/

namespace Sys2Proof.Machine

open Sys2Proof

/-! ### Stop records (04 R126) -/

/-- The bytes of a stop record with its tag. -/
def StopRec.bytes (r : StopRec) (tag : BitVec 16) : List Byte :=
  match r.words with
  | w :: l => bytesOf (w.toNat + tag.toNat) 8 ++ l.flatMap (fun x => bytesOf x.toNat 8)
  | [] => []

/-- The oldest stop record of a die is posted, once the queue is enabled and not full. -/
def postStop (die : Nat) : Act := fun p =>
  let d := p.now.die die
  match d.stops with
  | [] => p
  | r :: l =>
    if !d.sq.en || d.sq.full then p
    else
      let p := physWrite (d.sq.slotAddr 64) (r.bytes d.stopTag) p
      raiseVec 0 (5 + die) (modDie die (fun y =>
        { y with
          sq := y.sq.push
          stopTag := y.stopTag + 1
          stops := l }) p)

/-- STOP_RECORD_POST (04 R126). -/
def execStopRecordPost (die : Nat) (s : State) : Host.Outcome State Fault Refusal := commit s (postStop die)

/-! ### Resuming (04 R127, 12 R311) -/

/-- A fibre that system software lets go on: it is filed, or saved while its skein is off its core. -/
def goOn (k : Nat) : Act := fun p =>
  match tget p.now.fibres k with
  | none => p
  | some f =>
    match tget p.now.skeins f.sk with
    | none => p
    | some x =>
      if x.run == .resident then fileFibre k p
      else modFibre k (fun g => { g with run := .saved none }) p

/-- The place of a stopped context that resumes at tr.pc: a place outside the clause of the trapping word
is the next header (04 R123). -/
def resumePos (pos : Pos) (tr : TrapRec) (resume : VAddr) : Pos :=
  { pc := tr.pc, hdr := resume, jumped := pos.pc == tr.pc && pos.jumped }

/-- A context leaves the fault records that it waits on. -/
def leaveFaults (c : Ctx) : Act := fun p =>
  match p.now.coreOf c with
  | some core => dropWait (core / 64) (.ctx c) p
  | none => p

/-- A stopped fibre goes on at a place, H unchanged. -/
def resumeFibre (k : Nat) (pos : Fibre → Pos) : Act := fun p =>
  goOn k (modFibre k (fun f => { f with pos := pos f }) (leaveFaults (.fibre k) p))

/-- A stopped front context goes on at a place. -/
def resumeFront (k : Nat) (pos : Front → Pos) : Act := fun p =>
  modSkein k (fun x =>
    { x with front :=
      { x.front with
        pos := pos x.front
        run := if x.run == .resident then .ready else .saved
        clause := none } }) (leaveFaults (.front k) p)

/-- A stopped context goes on at its tr.pc. -/
def resumeCtx (c : Ctx) : Act :=
  match c with
  | .fibre k => resumeFibre k (fun f => resumePos f.pos f.tr f.resume)
  | .front k => resumeFront k (fun f => resumePos f.pos f.tr f.resume)

/-- The remote load that a front context's word waits for is gone. -/
def dropFrontAwaited (k : Nat) : Act :=
  modFront k (fun f => { f with loads := f.loads.filter (fun l => !l.isRemote) })

/-- A stopped context goes on at an address, as at the target of a transfer (04 R97 R127). -/
def resumeCtxAt (c : Ctx) (a : VAddr) : Act := fun p =>
  match c with
  | .fibre k => resumeFibre k (fun _ => posTo a) (dropAwaited k p)
  | .front k => resumeFront k (fun _ => posTo a) (dropFrontAwaited k p)

/-! ### The target of a command (04 R127) -/

/-- The skein that a command names. -/
def State.stopSkein (s : State) (die : Nat) (t : StopTarget) : Option (Nat × Skein) :=
  s.skeins.find? (fun e => e.2.core == 64 * die + t.core.toNat && e.2.slot == t.slot.toNat && e.2.holding)

/-- The context that a command names. -/
def State.stopCtx (s : State) (die : Nat) (t : StopTarget) : Option (Ctx × Skein) :=
  match s.stopSkein die t with
  | none => none
  | some (k, x) =>
    if t.front then some (.front k, x)
    else ((s.fibresOf k).find? (fun j => ((tget s.fibres j).map (fun f => f.idx == t.fibre)).getD false)).map
      (fun j => (.fibre j, x))

/-- A fibre stands stopped for system software. -/
def Run.isStopped (r : Run) : Bool :=
  match r with
  | .stopped _ => true
  | _ => false

/-- A front context stands stopped for system software. -/
def FrontRun.isStopped (r : FrontRun) : Bool :=
  match r with
  | .stopped _ => true
  | _ => false

/-- A context is stopped for system software. -/
def State.isStopped (s : State) (c : Ctx) : Bool :=
  match c with
  | .fibre k =>
    match tget s.fibres k with
    | some f => f.run.isStopped
    | none => false
  | .front k =>
    match tget s.skeins k with
    | some x => x.front.run.isStopped
    | none => false

/-- The registers of the command block say that a command was refused. -/
def refuseStop (die : Nat) : Act := modDie die (fun d => { d with serr := true })

/-- A command is taken: it is in progress until it has taken effect. -/
def takeStop (die : Nat) (act : Act) : Act := fun p =>
  if (p.now.die die).sbusy then refuseStop die p
  else act (modDie die (fun d => { d with sbusy := true }) p)

/-- A command on a context that has to be stopped for system software. -/
def onStopped (die : Nat) (t : StopTarget) (act : Ctx → Act) : Act := fun p =>
  match p.now.stopCtx die t with
  | some (c, _) => if p.now.isStopped c then takeStop die (act c) p else refuseStop die p
  | none => refuseStop die p

/-- A command on a context that is stopped or in a halted skein. -/
def onHeld (die : Nat) (t : StopTarget) (act : Ctx → Skein → Act) : Act := fun p =>
  match p.now.stopCtx die t with
  | some (c, x) =>
    if p.now.isStopped c || x.halted then act c x p else refuseStop die p
  | none => refuseStop die p

/-! ### Actions 0 and 1 -/

/-- Action 0 (04 R127). -/
def stopAction0 (die : Nat) (t : StopTarget) : Act := onStopped die t resumeCtx

/-- Action 1 (04 R127). -/
def stopAction1 (die : Nat) (t : StopTarget) : Act := fun p =>
  onStopped die t (fun c => resumeCtxAt c (p.now.die die).spc) p

/-- STOP_RESUME (04 R127). -/
def execStopResume (die : Nat) (target : StopTarget) (s : State) : Host.Outcome State Fault Refusal :=
  commit s (stopAction0 die target)

/-- STOP_RESUME_AT (04 R127). -/
def execStopResumeAt (die : Nat) (target : StopTarget) (s : State) : Host.Outcome State Fault Refusal :=
  commit s (stopAction1 die target)

/-! ### Action 2 -/

/-- The iterations of a member that have not been reduced: its pending one and those not dealt. -/
def Draft.left (d : Draft) (r : Nat) : Nat :=
  let m := d.at_ r
  let rest := if d.n = 0 then 0 else (d.total - min d.total (m.cursor * d.n + r) + d.n - 1) / d.n
  m.pending.toNat + rest

/-- The iterations of a fibre that is ended count as reduced with no term (04 R127). -/
def forfeit (sk k : Nat) : Act := modSkein sk (fun x =>
  match (if x.draft.isOpen then x.draft.rank k else none) with
  | some r => { x with draft := { x.draft with reduced := x.draft.reduced + x.draft.left r } }
  | none => x)

/-- A context ends; a fibre once its stores are performed (log 31). -/
def endCtx (die : Nat) (c : Ctx) : Act :=
  match c with
  | .fibre k => modDie die (fun d => { d with ending := some k })
  | .front k => fun p => modFront k (fun f =>
      { f with
        run := .ended
        clause := none }) (leaveFaults (.front k) p)

/-- Action 2 (04 R127). -/
def stopAction2 (die : Nat) (t : StopTarget) : Act := onHeld die t (fun c _ => takeStop die (endCtx die c))

/-- STOP_END_TARGET (04 R127). -/
def execStopEndTarget (die : Nat) (target : StopTarget) (s : State) : Host.Outcome State Fault Refusal :=
  commit s (stopAction2 die target)

/-! ### Action 3 -/

/-- A halted fibre goes on from its resume address. One that stopped at a wait takes it up again once the
thresholds of its clause are met (02 R42, 04 R118 R127; log 45). -/
def unhaltFibre (k : Nat) : Act := fun p =>
  match tget p.now.fibres k with
  | none => p
  | some f =>
    match f.run with
    | .halted none => goOn k p
    | .halted (some (w, next)) =>
      if ((tget p.now.skeins f.sk).map (fun x => x.run == .resident)).getD false then
        goOn k (modFibre k (fun g => { g with rejoin := some { at_ := g.pos.pc, wait := w, next := next } }) p)
      else modFibre k (fun g => { g with run := .saved (some (w, next)) }) p
    | _ => p

/-- A halted skein is released. -/
def releaseHalt (sk : Nat) : Act := fun p =>
  let p := modSkein sk (fun x =>
    { x with
      halted := false
      dog := 0
      front := { x.front with run :=
        if x.front.run == .halted then (if x.run == .resident then .ready else .saved) else x.front.run } }) p
  retestWaits sk (forEach (p.now.fibresOf sk) unhaltFibre p)

/-- Action 3 (04 R127). -/
def stopAction3 (die : Nat) (t : StopTarget) : Act := fun p =>
  match p.now.stopSkein die t with
  | none => refuseStop die p
  | some (k, x) =>
    match x.run with
    | .held n => takeStop die (modSkein k (fun y => { y with run := .admitting n })) p
    | _ => if x.halted then takeStop die (releaseHalt k) p else refuseStop die p

/-- STOP_RELEASE (04 R127). -/
def execStopRelease (die : Nat) (target : StopTarget) (s : State) : Host.Outcome State Fault Refusal :=
  commit s (stopAction3 die target)

/-! ### Actions 4 and 5 -/

/-- A register of a fibre that a selector names, as action 4 reads it; none where it is absent. -/
def readFibreReg (s : State) (f : Fibre) (x : Skein) (n : Nat) : Option DWord :=
  if n < 0x80 then (if n < x.lr.regs then some ((f.reg n).zeroExtend 64) else none)
  else if n < 0x88 then some (if f.p.getLsbD (n - 0x80) then 1 else 0)
  else if n = 0x88 then some (laneBlock x.lane0 x.lr.span)
  else if n < 0x90 then some (tgetD f.m (n - 0x88) 0)
  else if 0x100 ≤ n && n < 0x200 && specialListed (n - 0x100) then some (readSpecial s f x (n - 0x100))
  else none

/-- A register of a front context that a selector names. -/
def readFrontReg (f : Front) (n : Nat) : Option DWord :=
  if 0x200 ≤ n && n < 0x240 then some (f.reg (n - 0x200))
  else if 0x240 ≤ n && n < 0x248 then some (if f.q.getLsbD (n - 0x240) then 1 else 0)
  else if n = 0x120 then some (f.tr.cause.zeroExtend 64)
  else if n = 0x121 then some (f.tr.pc.zeroExtend 64)
  else if n = 0x122 then some f.tr.mask
  else if n = 0x123 then some f.tr.addr
  else if n = 0x124 then some f.tr.aux
  else if n = 0x125 then some f.tr.word
  else none

/-- Action 4 (04 R127). -/
def stopAction4 (die : Nat) (t : StopTarget) : Act := onHeld die t (fun c x p =>
  let v := match c with
    | .fibre k => (tget p.now.fibres k).bind (fun f => readFibreReg p.now f x t.reg.toNat)
    | .front _ => readFrontReg x.front t.reg.toNat
  match v with
  | some w => takeStop die (modDie die (fun d => { d with sdata := w })) p
  | none => refuseStop die p)

/-- STOP_READ_REGISTER (04 R127). -/
def execStopReadRegister (die : Nat) (target : StopTarget) (s : State) : Host.Outcome State Fault Refusal :=
  commit s (stopAction4 die target)

/-- A special register that action 5 may write. -/
def stopWritable (n : Nat) : Bool :=
  n == 0x11 || n == 0x12 || n == 0x14 || n == 0x15 || (0x19 ≤ n && n ≤ 0x1F) || (0x20 ≤ n && n ≤ 0x25)

/-- A register of a fibre written; none where it is absent, read-only or refuses the value. -/
def writeFibreReg (k : Nat) (x : Skein) (n : Nat) (w : DWord) : Option Act :=
  let blk := laneBlock x.lane0 x.lr.span
  if n < 0x80 then
    (if n < x.lr.regs then some (modFibre k (fun f => f.set n (w.setWidth 32))) else none)
  else if 0x81 ≤ n && n < 0x88 then some (modFibre k (fun f => f.setPred (n - 0x80) (w.getLsbD 0)))
  else if 0x89 ≤ n && n < 0x90 then some (modFibre k (fun f => f.setMask blk (n - 0x88) w))
  else if 0x100 ≤ n && n < 0x200 && stopWritable (n - 0x100) && !specialRefused (n - 0x100) w then
    some (if n = 0x112 then modFibre k id else modFibre k (fun f => writeSpecial f blk (n - 0x100) w))
  else none

/-- A register of a front context written. -/
def writeFrontReg (f : Front) (n : Nat) (w : DWord) : Option Front :=
  if 0x200 ≤ n && n < 0x240 then some (f.set (n - 0x200) w)
  else if 0x241 ≤ n && n < 0x248 then some (f.setPred (n - 0x240) (w.getLsbD 0))
  else if n = 0x120 then some { f with tr := { f.tr with cause := w.setWidth 8 } }
  else if n = 0x121 then some { f with tr := { f.tr with pc := w.setWidth 51 } }
  else if n = 0x122 then some { f with tr := { f.tr with mask := w } }
  else if n = 0x123 then some { f with tr := { f.tr with addr := w } }
  else if n = 0x124 then some { f with tr := { f.tr with aux := w } }
  else if n = 0x125 then some { f with tr := { f.tr with word := w } }
  else none

/-- Action 5: a write of sr.ctl sets it for the skein (04 R115 R127). -/
def stopAction5 (die : Nat) (t : StopTarget) : Act := onHeld die t (fun c x p =>
  let w := (p.now.die die).sdata
  let n := t.reg.toNat
  match c with
  | .fibre k =>
    match writeFibreReg k x n w with
    | none => refuseStop die p
    | some act =>
      let ctl := actIf (n == 0x112) (match tget p.now.fibres k with
        | some f => modSkein f.sk (fun y => { y with ctl := writeCtl y.ctl w })
        | none => id)
      takeStop die (fun q => ctl (act q)) p
  | .front k =>
    match writeFrontReg x.front n w with
    | none => refuseStop die p
    | some f => takeStop die (modFront k (fun _ => f)) p)

/-- STOP_WRITE_REGISTER (04 R127). -/
def execStopWriteRegister (die : Nat) (target : StopTarget) (s : State) : Host.Outcome State Fault Refusal :=
  commit s (stopAction5 die target)

/-! ### Refusal and completion -/

/-- STOP_COMMAND_REFUSED: actions 6 and 7 (04 R127). -/
def execStopCommandRefused (die : Nat) (action : BitVec 3) (s : State) : Host.Outcome State Fault Refusal :=
  commit s (actIf (6 ≤ action.toNat) (refuseStop die))

/-- A fibre has no access under way but those of open knotted words. -/
def State.storesDone (s : State) (k : Nat) : Bool :=
  ((tget s.fibres k).map (fun f => f.stores.isEmpty && f.steers.isEmpty)).getD true

/-- STOP_COMMAND_DONE: the command has taken effect (04 R127). -/
def finishStop (die : Nat) : Act := fun p =>
  let d := p.now.die die
  if !d.sbusy then p
  else
    match d.ending with
    | none => modDie die (fun y => { y with sbusy := false }) p
    | some k =>
      if !p.now.storesDone k then p
      else
        let p := match tget p.now.fibres k with
          | some f => endFibre k (forfeit f.sk k (leaveFaults (.fibre k) p))
          | none => p
        modDie die (fun y =>
          { y with
            sbusy := false
            ending := none }) p

/-- STOP_COMMAND_DONE (04 R127). -/
def execStopCommandDone (die : Nat) (s : State) : Host.Outcome State Fault Refusal := commit s (finishStop die)

/-- The write of 0x140: the command of its action (04 R127). -/
def stopCommand (die w : Nat) : Act :=
  let t : StopTarget :=
    { core := BitVec.ofNat 6 w, slot := BitVec.ofNat 6 (w / 2 ^ 6), fibre := BitVec.ofNat 10 (w / 2 ^ 12),
      front := bitOf w 22, reg := BitVec.ofNat 16 (w / 2 ^ 32) }
  match bitsOf w 26 24 with
  | 0 => stopAction0 die t
  | 1 => stopAction1 die t
  | 2 => stopAction2 die t
  | 3 => stopAction3 die t
  | 4 => stopAction4 die t
  | 5 => stopAction5 die t
  | _ => refuseStop die

/-! ### The watchdog (16 R395) -/

/-- The first word of a clause is what a place at its header would issue next. -/
def Pos.entered (p : Pos) : Pos := if p.pc == p.hdr then { p with pc := p.hdr + 4 } else p

/-- The word at a place as memory holds it, with its prefix (log 22). -/
def State.wordFrom (s : State) (core ctx : Nat) (pos : Pos) : Word × Option Word :=
  let w := s.wordAt core ctx pos.pc
  if majorOf w.toNat = 0x3F then (s.wordAt core ctx (pos.pc + 4), some w) else (w, none)

/-- The word at which a context waits or that it would issue next, with its prefix and place. -/
def State.dueWord (s : State) (core ctx : Nat) (pos : Pos) (c : Option Clause) : Word × Option Word :=
  match c.bind (fun y => y.raw pos) with
  | some r => (BitVec.ofNat 32 r.word, r.pfx.map (fun x => BitVec.ofNat 32 x))
  | none => s.wordFrom core ctx pos

/-- The clause that a fibre or its strand holds. -/
def State.heldClause (s : State) (f : Fibre) : Option Clause :=
  match f.run with
  | .strand n => (tget s.strands n).bind (fun x => x.clause)
  | _ => f.clause

/-- A fibre is live and not stopped for system software. -/
def Run.live (r : Run) : Bool :=
  match r with
  | .stopped _ => false
  | .halted _ => false
  | _ => true

/-- A fibre raises WATCHDOG, alone. -/
def watchFibre (k : Nat) : Act := fun p =>
  match tget p.now.fibres k with
  | none => p
  | some f =>
    match tget p.now.skeins f.sk with
    | none => p
    | some x =>
      if !f.run.live then p
      else
        let pos := f.pos.entered
        let w := p.now.dueWord x.core x.lr.ctx pos (p.now.heldClause f)
        trapFibre k { cause := .watchdog, mask := laneBit f.lane.toNat } pos w.1 w.2
          (dropAwaited k (dropWait (x.core / 64) (.ctx (.fibre k)) (leaveRun k p)))

/-- The front context stops with WATCHDOG, if it has not ended. -/
def watchFront (sk : Nat) : Act := fun p =>
  match tget p.now.skeins sk with
  | none => p
  | some x =>
    if x.front.run != .ready && x.front.run != .faulting && x.front.run != .saved then p
    else
      let pos := x.front.pos.entered
      let w := p.now.dueWord x.core x.lr.ctx pos x.front.clause
      trapFront sk { cause := .watchdog } pos w.1
        (dropFrontAwaited sk (dropWait (x.core / 64) (.ctx (.front sk)) p))

/-- WATCHDOG_EXPIRY: the counter of a skein has reached WDLIM. A skein whose core is stopped stays so
(06 R172, 16 R395). -/
def watchdog (sk : Nat) : Act := fun p =>
  match tget p.now.skeins sk with
  | none => p
  | some x =>
    if p.now.wdlim = 0 || x.dog < p.now.wdlim.toNat || !x.watched then p
    else
      let p := watchFront sk (forEach (p.now.fibresOf sk) watchFibre p)
      let p := actIf (x.run == .stopping) (stopSkein sk) p
      setHevt 0 (modSkein sk (fun y => { y with dog := 0 }) p)

/-- WATCHDOG_EXPIRY (16 R395). -/
def execWatchdogExpiry (sk : Nat) (s : State) : Host.Outcome State Fault Refusal := commit s (watchdog sk)

end Sys2Proof.Machine
end

