-- ==== Sys2Proof/Machine/DieEvents.lean ====
section
/-! DEFINITION. A compute die as an agent: the fault queue, invalidation, and the holdership of regions
(12 R301-R303 R310-R312). -/

namespace Sys2Proof.Machine

open Sys2Proof

/-! ### The fault queue (12 R310) -/

/-- The bytes of a fault record. -/
def FaultWait.bytes (w : FaultWait) (tag : BitVec 16) : List Byte :=
  bytesOf (tag.toNat + w.ctx * 2 ^ 16 + w.src * 2 ^ 32 + w.cause.level * 2 ^ 35 + w.cause.kind * 2 ^ 37 +
    w.write.toNat * 2 ^ 39) 8 ++
    bytesOf w.va 8 ++ bytesOf (w.core + w.chan * 2 ^ 8) 8 ++ bytesOf 0 8

/-- Two waiting faults have one key. -/
def FaultWait.same (a b : FaultWait) : Bool :=
  a.ctx == b.ctx && a.va / 2 ^ 15 == b.va / 2 ^ 15 && a.cause.kind == b.cause.kind

/-- The waiting faults of a record's key join it. -/
def joinRecord (die : Nat) (w : FaultWait) (tag : BitVec 16) : Act := fun p =>
  let l := (p.now.die die).waits.filter (fun y => y.same w)
  let p := modDie die (fun d =>
    { d with
      waits := d.waits.filter (fun y => !y.same w)
      opened := d.opened.map (fun o =>
        if o.tag == tag then { o with stoppers := o.stoppers ++ l.map (fun y => y.agent) } else o) }) p
  forEach l (fun y => deliverFault y tag) p

/-- The oldest waiting fault of a die is posted, once the queue is enabled and not full and fewer than 256
records are open. One whose key has a record joins it. -/
def postFault (die : Nat) : Act := fun p =>
  let d := p.now.die die
  match d.waits with
  | [] => p
  | w :: _ =>
    match d.openFor w with
    | some o => joinRecord die w o.tag p
    | none =>
      if !d.fq.en || d.fq.full || 256 ≤ d.opened.length then p
      else
        let tag := d.faultTag
        let o : FaultOpen := { tag := tag, ctx := w.ctx, page := w.va / 2 ^ 15, cause := w.cause, stoppers := [] }
        let p := physWrite (d.fq.slotAddr 32) (w.bytes tag) p
        let p := modDie die (fun y =>
          { y with
            fq := y.fq.push
            faultTag := y.faultTag + 1
            opened := y.opened ++ [o] }) p
        raiseVec 0 (1 + die) (joinRecord die w tag p)

/-- FAULT_POST (12 R310). -/
def execFaultPost (die : Nat) (s : State) : Host.Outcome State Fault Refusal := commit s (postFault die)

/-- A writeback goes on at its failing line; a region that waited for it goes (07 R187 R189). -/
def resumeBack (map : Nat) : Act := fun p =>
  let p := writeBackMap map p
  match tget p.now.maps map with
  | none => p
  | some m => if m.closing && p.now.clean map then dropRegion map p else p

/-- A stopper of a closed record goes on. -/
def resumeAgent (tag : BitVec 16) (a : Agent) : Act := fun p =>
  match a with
  | .ctx (.fibre k) =>
    match tget p.now.fibres k with
    | some f => if f.run == .stopped (some tag) then resumeCtx (.fibre k) p else p
    | none => p
  | .ctx (.front k) =>
    match tget p.now.skeins k with
    | some x => if x.front.run == .stopped (some tag) then resumeCtx (.front k) p else p
    | none => p
  | .chan k c => modChan k c (fun y => { y with held := false }) p
  | .tileOp k =>
    modSkein k (fun x => { x with tops := x.tops.map (fun o => { o with held := false }) }) p
  | .writeback m => resumeBack m p
  | _ => p

/-- A stopper of a record that is closed without a resume stays stopped; the command of a channel ends with
code 0x01 (08 R228, 12 R311). -/
def discardAgent (a : Agent) : Act :=
  match a with
  | .chan k c => failCommand k c 1
  | _ => id

/-- The record of a tag is closed; its stoppers go on, or stay stopped (12 R311). -/
def closeFault (die : Nat) (tag : BitVec 16) (discard : Bool) : Act := fun p =>
  match (p.now.die die).opened.find? (fun o => o.tag == tag) with
  | none => p
  | some o =>
    let p := modDie die (fun d => { d with opened := d.opened.filter (fun y => y.tag != tag) }) p
    forEach o.stoppers (if discard then discardAgent else resumeAgent tag) p

/-- FAULT_RESUME (12 R311). -/
def execFaultResume (die : Nat) (tag : BitVec 16) (s : State) : Host.Outcome State Fault Refusal :=
  commit s (closeFault die tag false)

/-- FAULT_DISCARD (12 R311). -/
def execFaultDiscard (die : Nat) (tag : BitVec 16) (s : State) : Host.Outcome State Fault Refusal :=
  commit s (closeFault die tag true)

/-! ### Invalidation (12 R312) -/

/-- A command removes a cached translation: one of a run or of 128 MiB with its whole range (12 R308). -/
def Inval.hitsXlat (v : Inval) (x : Xlat) : Bool :=
  match v.kind with
  | 0 => x.ctx == v.ctx && overlaps v.addr v.len (x.page * 2 ^ 15) (x.size * 2 ^ 15)
  | 1 => x.ctx == v.ctx
  | 3 => x.ctx == v.ctx
  | 4 => true
  | _ => false

/-- A command removes a cached next node. -/
def Inval.hitsNode (v : Inval) (n : Nat × Nat × Nat × Nat) : Bool :=
  let span := if n.2.1 = 2 then 2 ^ 39 else 2 ^ 27
  match v.kind with
  | 0 => n.1 == v.ctx && overlaps v.addr v.len (n.2.2.1 * span) span
  | 1 => n.1 == v.ctx
  | 3 => n.1 == v.ctx
  | 4 => true
  | _ => false

/-- A command removes a cached buffer entry. -/
def Inval.hitsBuf (v : Inval) (c : BufCache) : Bool :=
  match v.kind with
  | 2 => c.ctx == v.ctx && v.addr ≤ c.index && c.index < v.addr + v.len
  | 3 => c.ctx == v.ctx
  | 4 => true
  | _ => false

/-- A command makes the die read the page-table root of a context again (13 R317). -/
def Inval.hitsRoot (v : Inval) (ctx : Nat) : Bool :=
  match v.kind with
  | 1 => ctx == v.ctx
  | 3 => ctx == v.ctx
  | 4 => true
  | _ => false

/-- A command makes the die read the buffer-table base of a context again (13 R317). -/
def Inval.hitsTable (v : Inval) (ctx : Nat) : Bool :=
  match v.kind with
  | 2 => ctx == v.ctx
  | 3 => ctx == v.ctx
  | 4 => true
  | _ => false

/-- The matching entries of the die and its cores are gone. -/
def removeEntries (die : Nat) (v : Inval) : Act := fun p =>
  let p := modDie die (fun d =>
    { d with
      xlats := d.xlats.filter (fun x => !v.hitsXlat x)
      nodes := d.nodes.filter (fun n => !v.hitsNode n)
      roots := d.roots.filter (fun e => !v.hitsRoot e.1)
      tables := d.tables.filter (fun e => !v.hitsTable e.1) }) p
  forEach (p.now.cores.filter (fun e => e.1 / 64 == die)) (fun e => modCore e.1 (fun c =>
    { c with
      xlats := c.xlats.filter (fun x => !v.hitsXlat x)
      bufs := c.bufs.filter (fun b => !v.hitsBuf b) })) p

/-- The contexts on a die that a command concerns: fibres and front contexts. -/
def State.ctxsOn (s : State) (die : Nat) (v : Inval) : List Ctx :=
  (s.skeins.filter (fun e => e.2.core / 64 == die && (v.kind == 4 || e.2.lr.ctx == v.ctx))).flatMap
    (fun e => .front e.1 :: (s.fibresOf e.1).map (fun k => .fibre k))

/-- A queued store goes to global memory. -/
def Store.global (x : Store) : Bool :=
  match x.kind with
  | .mem _ _ => true
  | .atom _ _ _ _ _ => true
  | _ => false

/-- A command with the accesses under way when it begins. -/
def State.withWaits (s : State) (die : Nat) (v : Inval) : Inval :=
  let cs := s.ctxsOn die v
  { v with
    loads := cs.flatMap (fun c => ((s.loadsOf c).filter (fun l => !l.idle)).map (fun l => (c, l.id)))
    stores := cs.flatMap (fun c => ((s.storesOf c).filter Store.global).map (fun y => (c, y.id)))
    remotes := s.remotes.map (fun e => e.1) }

/-- A command begins, or is refused (12 R312). -/
def invalidate (die kind ctx : Nat) : Act := fun p =>
  let d := p.now.die die
  if d.inval.isSome || 5 ≤ kind then modDie die (fun y => { y with inverr := true }) p
  else
    let v : Inval := { kind := kind, ctx := ctx, addr := d.invaddr.toNat, len := d.invlen.toNat }
    removeEntries die v (modDie die (fun y => { y with inval := some (p.now.withWaits die v) }) p)

/-- INVALIDATE_VA_RANGE (12 R312). -/
def execInvalidateVaRange (die : Nat) (ctx : BitVec 16) (s : State) : Host.Outcome State Fault Refusal :=
  commit s (invalidate die 0 ctx.toNat)

/-- INVALIDATE_CONTEXT_TRANSLATIONS (12 R312). -/
def execInvalidateContextTranslations (die : Nat) (ctx : BitVec 16) (s : State) :
    Host.Outcome State Fault Refusal :=
  commit s (invalidate die 1 ctx.toNat)

/-- INVALIDATE_BUFFER_ENTRIES (12 R312). -/
def execInvalidateBufferEntries (die : Nat) (ctx : BitVec 16) (s : State) :
    Host.Outcome State Fault Refusal :=
  commit s (invalidate die 2 ctx.toNat)

/-- INVALIDATE_CONTEXT_ALL (12 R312). -/
def execInvalidateContextAll (die : Nat) (ctx : BitVec 16) (s : State) :
    Host.Outcome State Fault Refusal :=
  commit s (invalidate die 3 ctx.toNat)

/-- INVALIDATE_ALL_CONTEXTS (12 R312). -/
def execInvalidateAllContexts (die : Nat) (s : State) : Host.Outcome State Fault Refusal :=
  commit s (invalidate die 4 0)

/-- Every access that used a removed entry has been performed (12 R312). -/
def State.invalDone (s : State) (die : Nat) (v : Inval) : Bool :=
  !v.loads.any (fun e => (s.loadsOf e.1).any (fun l => l.id == e.2 && !l.idle)) &&
    !v.stores.any (fun e => (s.storesOf e.1).any (fun y => y.id == e.2)) &&
    !v.remotes.any (fun k => (tget s.remotes k).isSome) &&
    !s.packets.any (fun k => k.src == die && k.unaccepted && (v.kind == 4 || k.access.ctx == v.ctx))

/-- INVALIDATE_DONE: entries held again meanwhile are removed too, and INVBUSY falls (12 R312). -/
def execInvalidateDone (die : Nat) (s : State) : Host.Outcome State Fault Refusal :=
  commit s (fun p =>
    match (p.now.die die).inval with
    | none => p
    | some v =>
      if !p.now.invalDone die v then p
      else raiseVec 0 12 (modDie die (fun d => { d with inval := none }) (removeEntries die v p)))

/-! ### Tracking windows (12 R302) -/

/-- The split records of a home die. -/
def State.splitRecords (s : State) (die : Nat) : Nat :=
  let l := s.regions.filter (fun r => s.homeDie r.base == die && r.size < 65536)
  l.length - (l.foldl (fun m r => sadd m (r.base / 65536)) []).length

/-- The halves of a region. -/
def Region.halves (r : Region) (time : Nat) : List Region :=
  let h : Region := { base := r.base, size := r.size / 2, holder := r.holder, split := time }
  [h, { h with base := r.base + r.size / 2 }]

/-- The die that a region moves to at the end of a window, if any. -/
def Region.mover (r : Region) : Option Nat :=
  match r.now, r.before with
  | [d], [e] => if d = e && d != r.holder then some d else none
  | _, _ => none

/-- A region at the end of a window; `room` tells whether a split record is free. -/
def Region.windowed (r : Region) (time : Nat) (room : Bool) : List Region :=
  if 2 ≤ r.now.length && 128 < r.size && room && r.moving.isNone then r.halves time
  else
    [{ r with
      moving := if r.moving.isSome then r.moving else r.mover
      before := r.now
      now := [] }]

/-- Every region of a home die at the end of a window, while split records last. -/
def windowRegions (s : State) (die : Nat) : List Region → Nat → List Region
  | [], _ => []
  | r :: l, used =>
    if s.homeDie r.base != die then r :: windowRegions s die l used
    else
      let n := r.windowed s.time (used < 65536)
      n ++ windowRegions s die l (used + (n.length - 1))

/-- Two regions are sibling halves that merge. -/
def Region.merges (a b : Region) (time : Nat) : Bool :=
  a.size == b.size && a.size < 65536 && a.base % (2 * a.size) == 0 && b.base == a.base + a.size &&
    a.holder == b.holder && a.moving.isNone && b.moving.isNone &&
    a.split + 2 ^ 20 ≤ time && b.split + 2 ^ 20 ≤ time

/-- The sibling halves of a list that merge into their parents, once. -/
def mergeRegions (time : Nat) (all : List Region) (home : Nat → Bool) : List Region → List Region
  | [] => []
  | r :: l =>
    if !home r.base then r :: mergeRegions time all home l
    else if all.any (fun b => r.merges b time) then
      { base := r.base, size := 2 * r.size, holder := r.holder } :: mergeRegions time all home l
    else if all.any (fun a => a.merges r time) then mergeRegions time all home l
    else r :: mergeRegions time all home l

/-- TRACKING_WINDOW: the home die closes a window of 65,536 cycles (12 R302). -/
def closeWindow (die : Nat) : Act := fun p =>
  let n := (tget p.now.windows die).getD 0
  if p.now.time < 65536 * (n + 1) || !p.now.inService die then p
  else
    modRest (fun s =>
      let l := windowRegions s die s.regions (s.splitRecords die)
      { s with
        windows := tput s.windows die (n + 1)
        regions := mergeRegions s.time l (fun b => s.homeDie b == die) l }) p

/-- TRACKING_WINDOW (12 R302). -/
def execTrackingWindow (die : Nat) (s : State) : Host.Outcome State Fault Refusal :=
  commit s (closeWindow die)

/-! ### Moves of holdership (12 R303) -/

/-- An access of the region is still on its way to its holder. -/
def State.regionBusy (s : State) (r : Region) : Bool :=
  s.packets.any (fun k => k.dst == r.holder && k.at_ != .applied &&
    overlaps k.access.pa k.data.length r.base r.size)

/-- The lines of a region in an L2. -/
def Region.holds (r : Region) (line : Nat) : Bool := r.base ≤ line * 128 && line * 128 < r.base + r.size

/-- The old holder hands over its dirty lines and drops its copies; the shadows of the lines that leave it
are reset (12 R303, 15 R374). -/
def handLines (r : Region) (dest : Nat) : Act := fun p =>
  forEach (p.now.l2.filter (fun e => r.holds e.1 && e.2.die == r.holder)) (fun e q =>
    let q := leaveL2 e.1 e.2.dirty q
    if e.2.dirty = 0 then q else fillLine e.1 dest e.2.dirty q) p

/-- The registrations of a region. -/
def State.regsIn (s : State) (r : Region) : List Nat := (s.regs.filter (fun e => r.holds e.1)).map (fun e => e.1)

/-- HOLDER_MOVE: a move that the home die has begun is carried out once the old holder has drained
(12 R303). -/
def moveHolder (region dest : Nat) : Act := fun p =>
  match p.now.regions.find? (fun r => r.base == region && r.moving == some dest) with
  | none => p
  | some r =>
    if p.now.regionBusy r then p
    else
      let p := modRest (fun s => { s with regions := s.regions.map (fun y =>
        if y.base == region then
          { y with
            holder := dest
            moving := none }
        else y) }) (handLines r dest p)
      forEach (p.now.regsIn r) trimDir p

/-- HOLDER_MOVE (12 R303). -/
def execHolderMove (region dest : Nat) (s : State) : Host.Outcome State Fault Refusal :=
  commit s (moveHolder region dest)

end Sys2Proof.Machine
end

