-- ==== Sys2Proof/Machine/Hahan.lean ====
section
/-! DEFINITION. The Hahan fabric: the arrival, acceptance and application of write packets, the removal of a
compute die and resynchronisation (15 R361-R369). -/

namespace Sys2Proof.Machine

open Sys2Proof

/-! ### Packets (15 R361 R364 R365) -/

/-- Component `k` of a stamp. -/
def Packet.at (k : Packet) (i : Nat) : BitVec 12 := k.stamp.getD i 0

/-- The check of a packet at its destination (15 R364). -/
def State.packetReady (s : State) (k : Packet) : Bool :=
  s.applied k.dst k.src + 1 == k.at k.src &&
    (List.range 5).all (fun i => i == k.src || !s.inService i || covers (s.applied k.dst i) (k.at i))

/-- Change the packet of a serial. -/
def modPacket (id : Nat) (g : Packet → Packet) : Act :=
  modRest (fun s => { s with packets := s.packets.map (fun k => if k.id = id then g k else k) })

/-- Packets that are applied and acknowledged are gone. -/
def sweepPackets : Act := modRest (fun s =>
  { s with packets := s.packets.filter (fun k => !(k.at_ == .applied && k.acked)) })

/-- A packet is applied: its bytes are written at the holder, and the destination's counts and matrix take
its stamp (15 R361 R364). -/
def applyPacket (k : Packet) : Act := fun p =>
  let p := performWrite k.src k.access k.data k.writer p
  let p := modDie k.dst (fun d =>
    { d with
      d := tputD d.d k.src 0 (k.at k.src)
      c := (List.range 5).foldl (fun t i =>
        tputD t (5 * k.dst + i) 0 (mergeCount (tgetD t (5 * k.dst + i) 0) (k.at i))) d.c }) p
  sweepPackets (modPacket k.id (fun y => { y with at_ := .applied }) p)

/-- The early packets of a die whose check passes, but those already listed. -/
def State.readyPackets (s : State) (die : Nat) (but : List Nat) : List Nat :=
  (s.packets.filter (fun k => k.dst == die && k.at_ == .early && s.packetReady k && !but.contains k.id)).map
    (fun k => k.id)

/-- Early packets are applied in the order in which they become ready (15 R364). -/
def drainEarly (die : Nat) : Nat → List Nat → Act
  | 0, _, p => p
  | n + 1, l, p =>
    match l ++ p.now.readyPackets die l with
    | [] => p
    | i :: r =>
      match p.now.packets.find? (fun k => k.id == i) with
      | some k => drainEarly die n r (applyPacket k p)
      | none => drainEarly die n r p

/-- The early packets of a die are tested again. -/
def retestEarly (die : Nat) : Act := fun p => drainEarly die p.now.packets.length [] p

/-- The early packets that a die holds. -/
def State.earlyCount (s : State) (die : Nat) : Nat :=
  (s.packets.filter (fun k => k.dst == die && k.at_ == .early)).length

/-- A packet whose check fails is held early, while the buffer has room (15 R364 R365 R370). -/
def holdEarly (k : Packet) : Act := fun p =>
  if 512 ≤ p.now.earlyCount k.dst then countStall k.dst p
  else
    let p := modPacket k.id (fun y => { y with at_ := .early }) p
    let n := BitVec.ofNat 10 (p.now.earlyCount k.dst)
    modDie k.dst (fun d => { d with emax := if d.emax < n then n else d.emax }) p

/-- The next packet of a pair that has not arrived. -/
def State.nextPacket (s : State) (src dst : Nat) : Option Packet :=
  s.packets.find? (fun k => k.src == src && k.dst == dst && (k.at_ == .flight || k.at_ == .lost))

/-- A packet arrives: one of a stale incarnation is dropped and counted; the others are applied or held
early (15 R364). -/
def arrive_ (src dst : Nat) : Act := fun p =>
  match p.now.nextPacket src dst with
  | none => p
  | some k =>
    if k.at_ == .lost || !p.now.inService dst then p
    else if k.inc != tgetD (p.now.die dst).incs src 0 then
      modRest (fun s => { s with packets := s.packets.filter (fun y => y.id != k.id) })
        (modDie dst (fun d => { d with drops := d.drops + 1 }) p)
    else if p.now.packetReady k then retestEarly dst (applyPacket k p)
    else holdEarly k p

/-- PACKET_ARRIVAL (15 R364). -/
def execPacketArrival (src dst : Nat) (s : State) : Host.Outcome State Fault Refusal :=
  commit s (arrive_ src dst)

/-- The release that waited for a packet's acceptance leaves its store queue (05 R146). -/
def acceptRelease (k : Packet) : Act :=
  match k.release with
  | some (c, id) => dequeue c id
  | none => id

/-- PACKET_ACK: the sender learns that its oldest accepted packet is accepted, with the applied count of
the destination (15 R361 R365). -/
def ackPacket (src dst : Nat) : Act := fun p =>
  match p.now.packets.find? (fun k => k.src == src && k.dst == dst && !k.acked) with
  | none => p
  | some k =>
    if k.at_ == .flight || k.at_ == .lost then p
    else
      let p := modDie src (fun d => { d with a := tputD d.a dst 0 (p.now.applied dst src) }) p
      sweepPackets (modPacket k.id (fun y => { y with acked := true }) (acceptRelease k p))

/-- PACKET_ACK (15 R361). -/
def execPacketAck (src dst : Nat) (s : State) : Host.Outcome State Fault Refusal :=
  commit s (ackPacket src dst)

/-- LINK_REPLAY: packets lost on a link travel again (15 R365). -/
def execLinkReplay (src dst : Nat) (s : State) : Host.Outcome State Fault Refusal :=
  commit s (modRest (fun s => { s with packets := s.packets.map (fun k =>
    if k.src = src && k.dst = dst && k.at_ == .lost then { k with at_ := .flight } else k) }))

/-! ### Die removal (15 R368) -/

/-- The survivors zero every count that names die `r`, and so do the stamps of the packets under way: their
dependencies on it are satisfied for good. -/
def zeroDie (r : Nat) : Act := fun p =>
  let p := forEach ((List.range 5).filter (fun a => a != r)) (fun a => modDie a (fun d =>
    { d with
      c := d.c.filter (fun e => e.1 / 5 != r && e.1 % 5 != r)
      d := tdel d.d r
      a := tdel d.a r })) p
  modRest (fun s => { s with packets := s.packets.map (fun k =>
    if k.src = r then k else { k with stamp := k.stamp.set r 0 }) }) p

/-- Step 1: the survivors record the next incarnation of die `r` and zero what names it. -/
def forgetDie (r : Nat) : Act := fun p =>
  let inc := (p.now.die r).inc + 1
  zeroDie r (forEach ((List.range 5).filter (fun a => a != r)) (fun a => modDie a (fun d =>
    { d with incs := tputD d.incs r 0 inc })) p)

/-- Step 2: the packets of die `r` that survivors have accepted are applied in the order sent, and leave no count
that names it. Those still in flight carry a stale incarnation; those lost on a link are not replayed. -/
def applyAccepted (r : Nat) : Act := fun p =>
  let p := forEach (p.now.packets.filter (fun k => k.src == r && k.at_ == .early)) applyPacket p
  zeroDie r (modRest (fun s => { s with packets := s.packets.filter (fun k => k.src != r || k.at_ == .flight) }) p)

/-- Step 3: the packets of survivors to die `r` are discarded, those not applied reported as outcome unknown; no
release waits for them. -/
def discardTo (r : Nat) : Act := fun p =>
  let l := p.now.packets.filter (fun k => k.dst == r)
  let p := modRest (fun s => { s with packets := s.packets.filter (fun k => k.dst != r) }) p
  forEach l (fun k q =>
    acceptRelease k (actIf (k.at_ != .applied) (fun q =>
      postEvent 1 k.access.ctx q.now.devnum.toNat k.access.pa 1 q) q)) p

/-- A mapping stands in a stash of die `r`. -/
def State.stashOn (s : State) (r map : Nat) : Bool := ((tget s.maps map).map (fun m => m.core / 64 == r)).getD false

/-- Step 6: the registrations of some lines, which the directory of die `r` kept. A skein whose dirty bytes are
discarded, since the home of the line is gone, is stopped and reported. -/
def recallFrom (r : Nat) (lines : List Nat) : Act := fun p =>
  forEach lines (fun line q =>
    match tget q.now.regs line with
    | none => q
    | some g =>
      if q.now.stashOn r g.map then q.emit (.regEnd line)
      else if q.now.homeDie (line * 128) != r then recallLine line q
      else
        let lost := ((tget q.now.maps g.map).map (fun m => !(m.dirtyIn g.sline).isEmpty)).getD false
        let owners := q.now.skeins.filter (fun x =>
          lost && x.2.slots.any (fun y => y.2 == g.map) && x.2.core / 64 != r)
        let q := modMap g.map (fun m =>
          { m with
            dirty := m.dirty.filter (fun o => o / 128 != g.sline)
            filled := m.filled.filter (fun l => l != g.sline) }) (releaseLine g.map g.sline q)
        forEach owners (fun x => haltSkein x.1) q) p

/-- Step 4: the regions that die `r` held go back to their homes, their lines poisoned. -/
def returnRegions (r : Nat) : Act := fun p =>
  let mine := p.now.regions.filter (fun g => g.holder == r && p.now.homeDie g.base != r)
  let p := forEach (p.now.l2.filter (fun e => e.2.die == r)) (fun e => leaveL2 e.1 0) p
  let p := modRest (fun s =>
    { s with
      regions := s.regions.map (fun g =>
        { g with
          holder := if g.holder = r then s.homeDie g.base else g.holder
          moving := if g.moving = some r then none else g.moving })
      dups := (s.dups.map (fun e => (e.1, sdel e.2 r))).filter (fun e => !e.2.isEmpty) }) p
  forEach mine (fun g => forEach (List.range (g.size / 32)) (fun i => poisonSector (g.base / 32 + i))) p

/-- A fibre of a lost skein stays live and does nothing; what it had under way is gone. -/
def loseFibre (k : Nat) : Act := fun p =>
  modFibre k (fun f =>
    { f with
      run := .halted none
      loads := []
      stores := []
      steers := []
      twrs := 0 }) (leaveRun k p)

/-- Step 7: the skeins resident on die `r` are lost, and reported (log 58). -/
def loseSkeins (r : Nat) : Act := fun p =>
  forEach (p.now.skeins.filter (fun e => e.2.core / 64 == r && e.2.holding)) (fun e q =>
    let q := forEach e.2.slots (fun y q => (releaseMap y.2 q).emit (.mapEnd y.2)) q
    let q := forEach (q.now.fibresOf e.1) loseFibre q
    modSkein e.1 (fun x =>
      { x with
        run := .lost
        slots := []
        chans := []
        tops := []
        front :=
          { x.front with
            run := .halted
            clause := none
            loads := []
            stores := [] } }) (send (.skeinLost e.2.launch e.2.idx) q)) p

/-- A mapping belongs to a skein that is switched out, and so to no core. -/
def State.mapOut (s : State) (map : Nat) : Bool :=
  s.skeins.any (fun e => e.2.isOut && e.2.slots.any (fun x => x.2 == map))

/-- A pool allocation belongs to a group that is switched out. -/
def State.poolOut (s : State) (q : Pool) : Bool :=
  s.skeins.any (fun e => e.2.isOut && e.2.launch == q.launch && e.2.cgrp == q.cgrp)

/-- What the cores, clusters and queues of die `r` held is gone; the serials of its cores stay
(15 R374). -/
def clearDie (r : Nat) : Act := fun p =>
  let p := forEach (p.now.maps.filter (fun e => e.2.core / 64 == r && !p.now.mapOut e.1)) (fun e q =>
    (releaseMap e.1 q).emit (.mapEnd e.1)) p
  let p := forEach (p.now.pools.filter (fun e => e.2.clus / 8 == r && !p.now.poolOut e.2)) (fun e q =>
    q.emit (.poolEnd e.1)) p
  let p := forEach (p.now.cores.filter (fun e => e.1 / 64 == r)) (fun e =>
    modCore e.1 (fun c => { serial := c.serial })) p
  let p := forEach (List.range 8) (fun i q => q.emit (.icache (8 * r + i) [])) p
  let p := modRest (fun s => { s with fills := s.fills.filter (fun f => (tget s.maps f.map).isSome) }) p
  modDie r (fun d => { inc := d.inc, wear := d.wear, eoldays := d.eoldays, thrcyc := d.thrcyc,
                       corrected := d.corrected, coresvc := d.coresvc }) p

/-- DIE_REMOVAL: compute die `r` leaves service (15 R368). -/
def removeDie (r : Nat) : Act := fun p =>
  if p.now.hstate != 0 || 4 ≤ r || !p.now.inService r then p
  else
    let p := forgetDie r p
    let p := modRest (fun s => { s with insvc := s.insvc &&& ~~~ BitVec.ofNat 5 (2 ^ r) }) p
    let p := forEach ((List.range 4).filter (fun d => d != r)) retestEarly p
    let p := discardTo r (applyAccepted r p)
    let lines := (p.now.regs.filter (fun e => p.now.holderDie (e.1 * 128) == r)).map (fun e => e.1)
    clearDie r (loseSkeins r (recallFrom r lines (returnRegions r p)))

/-- DIE_REMOVAL (15 R368). -/
def execDieRemoval (die : Nat) (s : State) : Host.Outcome State Fault Refusal := commit s (removeDie die)

/-- A removed die returns to service: it takes the next incarnation, holds no line and starts with zero
counters (15 R368). -/
def returnDie (r : Nat) : Act := fun p =>
  if 4 ≤ r || p.now.inService r then p
  else
    let p := modDie r (fun d =>
      { d with
        inc := d.inc + 1
        c := []
        d := []
        a := []
        incs := (List.range 5).foldl (fun t a => if a = r then t else tputD t a 0 (p.now.die a).inc) [] }) p
    modRest (fun s => { s with insvc := s.insvc ||| BitVec.ofNat 5 (2 ^ r) }) p

/-! ### Resynchronisation (15 R369) -/

/-- Steps 2 and 3: every accepted packet is applied, every counter is 0, every incarnation rises. -/
def settleAgent (a : Nat) : Act := fun p =>
  let p := retestEarly a p
  forEach (p.now.packets.filter (fun k => k.dst == a && k.at_ == .early)) applyPacket p

/-- The counters of an agent are 0 and its incarnation and records rise. -/
def zeroAgent (a : Nat) : Act := modDie a (fun d =>
  { d with
    c := []
    d := []
    a := []
    inc := d.inc + 1
    incs := (List.range 5).foldl (fun t i => if i = a then t else tputD t i 0 (tgetD t i 0 + 1)) d.incs })

/-- Step 4: the unaccepted packets are sent again in merge order with new stamps; not those of a die that has left
service since it sent them, which keep their stale incarnation (15 R367). -/
def resend (k : Packet) : Act := fun p =>
  let p := modDie k.src (fun x =>
    { x with c := tputD x.c (5 * k.dst + k.src) 0 (tgetD x.c (5 * k.dst + k.src) 0 + 1) }) p
  modPacket k.id (fun y =>
    { y with
      inc := (p.now.die k.src).inc
      stamp := (List.range 5).map (fun i => p.now.count k.src k.dst i)
      at_ := .flight }) p

/-- RESYNC: the fabric is resynchronised (15 R369). -/
def resynchronise : Act := fun p =>
  if p.now.hstate != 0 then p
  else
    let p := forEach (List.range 4) settleAgent p
    let done := p.now.packets.filter (fun k => k.at_ == .applied)
    let p := forEach done acceptRelease p
    let p := modRest (fun s => { s with packets := s.packets.filter (fun k => k.at_ != .applied) }) p
    let live := p.now.packets.filter (fun k => k.inc == (p.now.die k.src).inc && p.now.inService k.src)
    let p := forEach (List.range 5) zeroAgent p
    forEach live resend p

/-- RESYNC (15 R369). -/
def execResync (s : State) : Host.Outcome State Fault Refusal := commit s resynchronise

/-- FABRIC_FAULT: a fault that replay does not clear (15 R369). -/
def execFabricFault (s : State) : Host.Outcome State Fault Refusal := commit s resynchronise

end Sys2Proof.Machine
end

