-- ==== Sys2Proof/Machine/Krytist.lean ====
section
/-! DEFINITION. The Krytist domain: requests that arrive at this package, the answers to those it sent, lost
requests and ports (05 R148 R149, 08 R223 R228, 16 R390-R393). -/

namespace Sys2Proof.Machine

open Sys2Proof

/-! ### Requests that arrive (16 R390 R393) -/

/-- The bytes that a request touches. -/
def remoteBytes : RemoteOp → Nat
  | .read n => n
  | .write l => l.length
  | .atomic _ n _ _ _ => n
  | .reduce op _ => if op = 1 then 2 else 4
  | .combined _ n _ => n

/-- An export entry grants a request to a source device (16 R390 R392). -/
def Export.grants (e : Export) (src pa : Nat) (op : RemoteOp) : Bool :=
  let base := e.base.toNat * 2 ^ 15
  e.rt.getLsbD 3 && base ≤ pa && pa + remoteBytes op ≤ base + e.len.toNat &&
    bitsOf e.src.toNat 13 0 ≤ src && src ≤ bitsOf e.src.toNat 29 16 &&
    match op with
    | .read _ => e.rt.getLsbD 0
    | .write _ => e.rt.getLsbD 1
    | _ => e.rt.getLsbD 0 && e.rt.getLsbD 1 && e.rt.getLsbD 2

/-- Bytes written for an agent outside the package, a line at a time: by agent 4, the front-end die (15 R364). -/
def writeOutside (pa : Nat) (data : List Byte) : Act :=
  forEach (linePieces pa data.length) (fun e =>
    performUnit 4 (unitAccess e.1 e.2) ((data.drop (e.1 - pa)).take e.2))

/-- What a read for an agent outside the package does beside giving its bytes. -/
def readOutside (pa n : Nat) : Act :=
  forEach (linePieces pa n) (fun e => performRead 4 (unitAccess e.1 e.2))

/-- The sum of a value and some terms, rounded once (16 R393). -/
def sumOnce (t : Fmt) (x : Nat) (ds : List Nat) : Nat :=
  (finishSum t {} (exactSum .rne ((x :: ds).map (FV.of t)))).bits

/-- The element that a combined reduction leaves (08 R223, 16 R393). -/
def reduceValue (op x : Nat) (ds : List Nat) : Nat :=
  match op with
  | 0 => sumOnce .f32 x ds
  | 1 => sumOnce .bf16 x ds
  | 2 => ds.foldl (fun y d => (y + d) % 2 ^ 32) x
  | 3 => ds.foldl (atomExtreme .f32 false) x
  | _ => ds.foldl (atomExtreme .f32 true) x

/-- The sums of the two halves of a word and of some words, each rounded once (16 R393). -/
def sumHalves (t : Fmt) (x : Nat) (ds : List Nat) : Nat :=
  sumOnce t (half x 0) (ds.map (fun d => half d 0)) + sumOnce t (half x 1) (ds.map (fun d => half d 1)) * 2 ^ 16

/-- The value that combined atomics leave: a floating add is rounded once, and every other form is as the
members applied singly (16 R393). -/
def combinedValue (op n x : Nat) (ds : List Nat) : Nat :=
  match op with
  | 14 => sumOnce .f32 x ds
  | 15 => sumOnce .f64 x ds
  | 16 => sumHalves .f16 x ds
  | 17 => sumHalves .bf16 x ds
  | _ => ds.foldl (fun y d => atomValue op n y d 0) x

/-- An update of an element or atomic operand at the holder: the response carries the old value where one
is asked. -/
def remoteUpdate (dev : Nat) (a : Access) (returns : Bool) (g : Nat → Nat) : Act := fun p =>
  let p := performRead 4 a p
  if p.now.readsPoison a then send (.response dev .poisoned) p
  else
    let old := p.now.readAt a
    let p := performUnit 4 a (bytesOf (g (ofBytes old)) a.n) p
    send (.response dev (.data (if returns then old else []))) p

/-- A request that is granted is performed at the holder. -/
def performRemote (dev pa : Nat) (op : RemoteOp) : Act := fun p =>
  let a := unitAccess pa (remoteBytes op)
  match op with
  | .read _ =>
    let p := readOutside pa a.n p
    send (.response dev (if p.now.readsPoison a then .poisoned else .data (p.now.readAt a))) p
  | .write l => send (.response dev (.data [])) (writeOutside pa l p)
  | .atomic o n d c r => remoteUpdate dev a r (fun x => atomValue o.toNat n x d c) p
  | .reduce o ds => remoteUpdate dev a false (fun x => reduceValue o.toNat x ds) p
  | .combined o n ds => remoteUpdate dev a false (fun x => combinedValue o.toNat n x ds) p

/-- A request from outside has to wait: its lines are held, or the write packet that it makes may not be sent or
would be early (15 R362 R364 R365, 12 R303; log 61). -/
def State.outsideHeld (s : State) (pa n : Nat) (write : Bool) : Bool :=
  s.rangeHeld none pa n || (write && (linePieces pa n).any (fun e => !s.crossOpen 4 (s.holderDie e.1)))

/-- A request changes memory. -/
def remoteWrites : RemoteOp → Bool
  | .read _ => false
  | _ => true

/-- A request that has to wait takes its turn again later. -/
def waitOutside (w : Waiting) : Act := modRest (fun s => { s with waiting := s.waiting ++ [w] })

/-- REMOTE_REQUEST: a request of a stale incarnation or without an export is dropped (16 R390). -/
def serveRemote (r : RemoteReq) : Act := fun p =>
  let pa := r.pa.toNat
  if r.inc != p.now.devinc || !isPackage pa ||
      !p.now.exports.any (fun e => e.2.grants r.src.toNat pa r.op) then
    send (.response r.src.toNat .dropped) p
  else if p.now.outsideHeld pa (remoteBytes r.op) (remoteWrites r.op) then waitOutside (.remote r) p
  else performRemote r.src.toNat pa r.op p

/-- REMOTE_REQUEST (16 R390). -/
def execRemoteRequest (req : RemoteReq) (s : State) : Host.Outcome State Fault Refusal :=
  commit s (serveRemote req)

/-! ### Answers (05 R148 R149, 08 R228) -/

/-- The remote load of a context has its answer. -/
def answerLoad (c : Ctx) (id : Nat) (r : RemoteState) : Act :=
  modLoads c (fun l => l.map (fun y =>
    match y.src with
    | .remote a _ => if y.id = id then { y with src := .remote a r } else y
    | _ => y))

/-- A release that waited for its answer leaves its store queue. -/
def endRelease (rel : Option (Ctx × Nat)) : Act :=
  match rel with
  | some (c, id) => dequeue c id
  | none => id

/-- The command at the head of a channel, if it is the one of a serial. -/
def State.reelCmd (s : State) (sk ch cmd : Nat) : Option ReelCmd :=
  ((tget s.skeins sk).bind (fun x => (x.chan ch).cmds.head?)).bind (fun c =>
    if c.id = cmd then some c else none)

/-- A piece of a reel line is answered; a refused or poisoned one fails the line (08 R223 R228). -/
def answerPiece (sk ch cmd piece : Nat) (resp : RemoteResp) : Act := fun p =>
  match p.now.reelCmd sk ch cmd with
  | none => p
  | some c =>
    let fail := fun (e : BitVec 8) => modHead sk ch (fun y => { y with bad := some (y.bad.getD e) })
    match resp with
    | .data b => modHead sk ch (fun y => { y with got := tput y.got piece (if c.form = 7 then [] else b) }) p
    | .poisoned => fail 2 p
    | .dropped => bumpFresh (fail (Config.refusedCode p.now.fresh) p)

/-! ### Losses (16 R391) -/

/-- The event of a lost request: its type and context; none for one that no event reports. -/
def RemoteOut.lostEvent (r : RemoteOut) : Option (Nat × Nat) :=
  match r.use with
  | .load _ _ => none
  | .store ctx _ _ => some (1, ctx)
  | .reel _ _ _ _ => none
  | .reduce _ _ _ _ ctx => some (2, ctx)
  | .fill _ _ _ => none
  | .code _ _ => none

/-- A line of a command under way is lost (08 R228). -/
def losePiece (sk ch cmd : Nat) : Act := fun p =>
  match p.now.reelCmd sk ch cmd with
  | some _ => modHead sk ch (fun y => { y with bad := some 3 }) p
  | none => p

/-- A lost request leaves, and its load, fill or line knows; a line of code is asked for again. -/
def loseRequest (id : Nat) (r : RemoteOut) : Act := fun p =>
  let p := modRest (fun s => { s with remotes := tdel s.remotes id }) p
  match r.use with
  | .load c l => answerLoad c l .lost p
  | .store _ _ rel => endRelease rel p
  | .reel sk ch cmd _ => losePiece sk ch cmd p
  | .reduce sk ch cmd _ _ => losePiece sk ch cmd p
  | .fill map off va => answerFill map off va none p
  | .code _ _ => p

/-- The losses of one context and device are one event; the first names its line (16 R391). -/
def reportLost : Nat → List (Nat × Nat × RemoteOut) → Act
  | 0, _, p => p
  | _ + 1, [], p => p
  | n + 1, (t, c, r) :: l, p =>
    let same := fun (e : Nat × Nat × RemoteOut) => e.1 == t && e.2.1 == c && e.2.2.dev == r.dev
    let lines := ((t, c, r) :: l.filter same).foldl (fun m e => sadd m (lineOf e.2.2.pa)) []
    reportLost n (l.filter (fun e => !same e)) (postEvent t c r.dev r.pa lines.length p)

/-- Some requests are lost. -/
def loseAll (l : List (Nat × RemoteOut)) : Act := fun p =>
  let evs := l.filterMap (fun e => e.2.lostEvent.map (fun x => (x.1, x.2, e.2)))
  reportLost evs.length evs (forEach l (fun e => loseRequest e.1 e.2) p)

/-- A request has had no response within RTMO cycles (16 R391). -/
def State.isLost (s : State) (r : RemoteOut) : Bool := decide (r.sent + s.rtmo.toNat ≤ s.time)

/-- Every request without a response within RTMO cycles is lost, where the one of a serial is among them
(16 R391). -/
def loseDue (id : Nat) : Act := fun p =>
  match tget p.now.remotes id with
  | none => p
  | some r => if p.now.isLost r then loseAll (p.now.remotes.filter (fun e => p.now.isLost e.2)) p else p

/-- REMOTE_TIMEOUT: no response within RTMO cycles (16 R391). -/
def execRemoteTimeout (id : Nat) (s : State) : Host.Outcome State Fault Refusal := commit s (loseDue id)

/-- A response is taken by the request that it answers. -/
def takeResponse (id : Nat) (resp : RemoteResp) : Act := fun p =>
  match tget p.now.remotes id with
  | none => p
  | some r =>
    let p := modRest (fun s => { s with remotes := tdel s.remotes id }) p
    match r.use with
    | .load c l => answerLoad c l (match resp with
        | .data b => .arrived b
        | .dropped => .dropped
        | .poisoned => .poisoned) p
    | .store ctx _ rel =>
      let p := endRelease rel p
      match resp with
      | .dropped => postEvent 3 ctx r.dev r.pa 1 p
      | _ => p
    | .reel sk ch cmd piece => answerPiece sk ch cmd piece resp p
    | .reduce sk ch cmd piece ctx =>
      let p := answerPiece sk ch cmd piece resp p
      match resp with
      | .dropped => postEvent 3 ctx r.dev r.pa 1 p
      | _ => p
    | .fill map off va => answerFill map off va (some resp) p
    | .code clus line => answerCode clus line resp p

/-- A response arrives: one whose request is lost is discarded (16 R391). -/
def respond (id : Nat) (resp : RemoteResp) : Act := fun p => takeResponse id resp (loseDue id p)

/-- REMOTE_RESPONSE (05 R148). -/
def execRemoteResponse (id : Nat) (resp : RemoteResp) (s : State) : Host.Outcome State Fault Refusal :=
  commit s (respond id resp)

/-! ### Ports (16 R391) -/

/-- PORT_DOWN: a port fails with the flits in flight on it; which those are the part decides (log 5). -/
def downPort (port : Nat) : Act := fun p =>
  if 36 ≤ port || !p.now.portup.getLsbD port then p
  else
    let p := modRest (fun s => { s with portup := s.portup &&& ~~~ BitVec.ofNat 36 (2 ^ port) }) p
    let on := p.now.remotes.zipIdx.filter (fun e => Config.flip (p.now.fresh + e.2))
    let p := modRest (fun s => { s with fresh := s.fresh + s.remotes.length }) p
    postEvent 5 0 port 0 0 (loseAll (on.map (fun e => e.1)) p)

/-- PORT_DOWN (16 R391). -/
def execPortDown (port : Nat) (s : State) : Host.Outcome State Fault Refusal := commit s (downPort port)

/-- PORT_UP: the bring-up teaches the incarnations of the other devices; each one that has changed is an
event (16 R390 R391; log 32). -/
def upPort (port : Nat) : Act := fun p =>
  if 36 ≤ port || p.now.portup.getLsbD port then p
  else
    let old := p.now.linkups
    let p := modRest (fun s =>
      { s with
        portup := s.portup ||| BitVec.ofNat 36 (2 ^ port)
        linkups := s.linkups + 1 }) p
    let p := postEvent 6 0 port 0 0 p
    forEach ((List.range 16384).filter (fun d => Config.deviceInc old d != Config.deviceInc (old + 1) d))
      (fun d => postEvent 4 0 d 0 0) p

/-- PORT_UP (16 R391). -/
def execPortUp (port : Nat) (s : State) : Host.Outcome State Fault Refusal := commit s (upPort port)

end Sys2Proof.Machine
end

