-- ==== Sys2Proof/Machine/Health.lean ====
section
/-! DEFINITION. Units that leave and enter service, ageing, and the package reset with its boot chain
(11 R291 R292, 16 R388 R389 R396-R398). -/

namespace Sys2Proof.Machine

open Sys2Proof

/-! ### A cluster leaves service (11 R291 R292) -/

/-- A core leaves or enters service. -/
def setCoreService (core : Nat) (on : Bool) : Act := modDie (core / 64) (fun d =>
  let bit := BitVec.ofNat 64 (2 ^ (core % 64))
  { d with coresvc := if on then d.coresvc ||| bit else d.coresvc &&& ~~~ bit })

/-- A fibre stops where it stands. -/
def freezeFibre (k : Nat) : Act := fun p =>
  match tget p.now.fibres k with
  | none => p
  | some f =>
    match f.run with
    | .strand _ => haltFibre k none (leaveRun k p)
    | .filed => haltFibre k none (leaveRun k p)
    | .gather _ => haltFibre k none p
    | .parked w next => haltFibre k (some (w, next)) p
    | _ => p

/-- A skein stops at once and is reported to system software, which releases or ends it (04 R126). -/
def freezeSkein (sk : Nat) : Act := fun p =>
  match tget p.now.skeins sk with
  | none => p
  | some x =>
    if x.run != .resident || x.halted then p
    else
      let p := forEach (p.now.fibresOf sk) freezeFibre p
      let p := modSkein sk (fun y =>
        { y with
          halted := true
          front :=
            { y.front with
              run := if y.front.run == .ready then .halted else y.front.run
              clause := none } }) p
      queueStop x.core (stopRecord x 2 0 0 {}) p

/-- The plies that have begun on planes with some cores fail. -/
def failPlies (cores : List Nat) : Act := fun p =>
  forEach (List.range 16) (fun pl q =>
    if (planeOf pl).any (fun c => cores.contains c) then
      forEach q.now.launches (fun e r => if (r.now.begunPly e.1 pl).isEmpty then r else failPly e.1 pl r) q
    else q) p

/-- The cluster groups with a skein on some cores stop and are reported. -/
def freezeGroups (cores : List Nat) : Act := fun p =>
  let on := p.now.skeins.filter (fun e => e.2.holding && cores.contains e.2.core)
  forEach (p.now.skeins.filter (fun e => on.any (fun y => y.2.launch == e.2.launch && y.2.cgrp == e.2.cgrp)))
    (fun e => freezeSkein e.1) p

/-- The pool allocations of a cluster: those of groups that are on it. What a switched-out group holds lies in
its save area (11 R280 R292). -/
def State.poolsOn (s : State) (clus : Nat) : Table Pool :=
  s.pools.filter (fun e => e.2.clus == clus &&
    s.skeins.any (fun x => x.2.launch == e.2.launch && x.2.cgrp == e.2.cgrp && x.2.holding))

/-- CLUSTER_LEAVES_SERVICE: its pool allocations are lost, and every launch that held one there ends, which is
reported (11 R292; log 58). -/
def loseCluster (clus : Nat) : Act := fun p =>
  if 32 ≤ clus then p
  else
    let cores := coresOf clus
    let p := forEach cores (fun c => setCoreService c false) p
    let p := freezeGroups cores (failPlies cores p)
    let gone := p.now.poolsOn clus
    let p := forEach gone (fun e q => q.emit (.poolEnd e.1)) p
    forEach (gone.foldl (fun l e => sadd l e.2.launch) []) (fun l q =>
      beginAbort l (send (.poolLost clus l) q)) p

/-- CLUSTER_LEAVES_SERVICE (11 R292). -/
def execClusterLeavesService (clus : Nat) (s : State) : Host.Outcome State Fault Refusal :=
  commit s (loseCluster clus)

/-! ### Repairs (16 R397) -/

/-- A repair begins, unless one is in progress. -/
def startRepair (act : Act) : Act := fun p =>
  if p.now.rbusy then p else act (modRest (fun s => { s with rbusy := true }) p)

/-- The die groups with a skein on a core. -/
def State.groupsOn (s : State) (core : Nat) : List (Nat × Nat) :=
  (s.skeins.filter (fun e => e.2.core == core && e.2.holding)).foldl (fun l e =>
    let g := (e.2.launch, e.2.lr.dieGroup e.2.idx)
    if l.contains g then l else l ++ [g]) []

/-- A core is taken out of service: plies that have begun on it fail, and its die groups are switched out
(11 R291, 16 R397). -/
def repairCore (core : Nat) : Act := startRepair (fun p =>
  let p := modRest (fun s => { s with rcore := some core }) (setCoreService core false p)
  let p := failPlies [core] p
  forEach (p.now.groupsOn core) (fun g => switchOut g.1 g.2) p)

/-- REPAIR_CORE (16 R397). -/
def execRepairCore (core : Nat) (s : State) : Host.Outcome State Fault Refusal := commit s (repairCore core)

/-- A die is taken out of service: its removal (15 R368). -/
def repairDie (die : Nat) : Act := startRepair (removeDie die)

/-- REPAIR_DIE (16 R397). -/
def execRepairDie (die : Nat) (s : State) : Host.Outcome State Fault Refusal := commit s (repairDie die)

/-- A UCIe lane is replaced: traffic is held, and held packets are replayed. Which packets the lane group
carries the part decides (log 5). -/
def repairUcie (_group : Nat) : Act := startRepair (modRest (fun s =>
  { s with
    fresh := s.fresh + s.packets.length
    packets := s.packets.zipIdx.map (fun e =>
      if e.1.at_ == .flight && Config.flip (s.fresh + e.2) then { e.1 with at_ := .lost } else e.1) }))

/-- REPAIR_UCIE_LANE (16 R397). -/
def execRepairUcieLane (group : Nat) (s : State) : Host.Outcome State Fault Refusal :=
  commit s (repairUcie group)

/-- A Krytist lane is replaced; with no spare left its port goes down (log 5). -/
def repairKrytist (port : Nat) : Act := startRepair (fun p =>
  let spare := Config.flip p.now.fresh
  let p := bumpFresh p
  if spare then p else downPort port p)

/-- REPAIR_KRYTIST_LANE (16 R397). -/
def execRepairKrytistLane (port : Nat) (s : State) : Host.Outcome State Fault Refusal :=
  commit s (repairKrytist port)

/-- A unit returns to service after its test; a die returns under 15 R368. -/
def returnUnit (kind unit : Nat) : Act := startRepair (fun p =>
  match kind with
  | 0 => setCoreService unit true p
  | 1 => returnDie unit p
  | _ => p)

/-- RETURN_TO_SERVICE (16 R397). -/
def execReturnToService (kind : BitVec 2) (unit : BitVec 8) (s : State) :
    Host.Outcome State Fault Refusal :=
  commit s (returnUnit kind.toNat unit.toNat)

/-- The write of 0x080 (16 R396 R397). -/
def repairCommand (w : Nat) : Act :=
  let unit := bitsOf w 15 8
  if bitOf w 16 then returnUnit (bitsOf w 1 0) unit
  else
    match bitsOf w 1 0 with
    | 0 => repairCore unit
    | 1 => repairDie unit
    | 2 => repairUcie unit
    | _ => repairKrytist unit

/-- A core under repair has no skein left; the regions of its stash are given up. -/
def State.coreEmpty (s : State) (core : Nat) : Bool :=
  !s.skeins.any (fun e => e.2.core == core && e.2.holding) && (s.core core).regions.isEmpty

/-- The switch-out of a die group is given up: its cores go on (16 R397). -/
def keepGroup (launch grp : Nat) : Act := fun p =>
  let since := ((tget p.now.launches launch).bind (fun y => tget y.quanta grp)).getD p.now.time
  resumeCores (coresOfSkeins (p.now.groupSkeins launch grp)) since
    (modLaunch launch (fun y => { y with leaving := sdel y.leaving grp }) p)

/-- A core that does not drain: its cluster groups are stopped and reported to system software
(11 R292, 16 R397). -/
def freezeCore (core : Nat) : Act := fun p =>
  let p := forEach ((p.now.groupsOn core).filter (fun g => p.now.isLeaving g.1 g.2)) (fun g => keepGroup g.1 g.2) p
  freezeGroups [core] p

/-- The groups of a core under repair leave it. Whether a core that has not drained can drain the part
decides; if not, its groups are stopped and reported (11 R292, 16 R397; log 5). The answer tells whether the
repair has to wait. -/
def emptyCore (core : Nat) (p : Plan) : Plan × Bool :=
  let p := forEach (p.now.core core).regions reclaimRegion
    (forEach (p.now.groupsOn core) (fun g => switchOut g.1 g.2) p)
  if p.now.coreEmpty core then (p, false)
  else if Config.flip p.now.fresh then (bumpFresh p, true)
  else (freezeCore core (bumpFresh p), false)

/-- REPAIR_DONE: the groups of a core under repair have left it or are stopped on it, HEVT[2] is set and RBUSY
falls (16 R397). -/
def finishRepair : Act := fun p =>
  if !p.now.rbusy then p
  else
    let r := match p.now.rcore with
      | some c => emptyCore c p
      | none => (p, false)
    if r.2 then r.1
    else
      raiseVec 0 12 (setHevt 2 (modRest (fun s =>
        { s with
          rbusy := false
          rcore := none }) r.1))

/-- REPAIR_DONE (16 R397). -/
def execRepairDone (s : State) : Host.Outcome State Fault Refusal := commit s finishRepair

/-! ### Ageing (16 R396) -/

/-- WEAR_UPDATE: WEAR never falls; the ageing alert is set at the threshold. The cycles throttled since are
a free value (log 3). -/
def updateWear (die : Nat) (wear : BitVec 10) (days : BitVec 16) : Act := fun p =>
  let n := BitVec.ofNat 32 (Config.cycles p.now.fresh)
  let p := bumpFresh (modDie die (fun d =>
    { d with
      wear := if d.wear < wear then (if wear ≤ 1000 then wear else 1000) else d.wear
      eoldays := days
      thrcyc := d.thrcyc + n }) p)
  if p.now.wearalert ≤ (p.now.die die).wear then setHevt 1 p else p

/-- WEAR_UPDATE (16 R396). -/
def execWearUpdate (die : Nat) (wear : BitVec 10) (days : BitVec 16) (s : State) :
    Host.Outcome State Fault Refusal :=
  commit s (updateWear die wear days)

/-! ### Reset and boot (16 R388 R389 R390 R398) -/

/-- A measurement register extended by the digest of some bytes (16 R389). -/
def extendMeasure (t : Table (BitVec 256)) (i : Nat) (data : List Byte) : Table (BitVec 256) :=
  let old := bytesOf (tgetD t i 0).toNat 32
  tput t i (BitVec.ofNat 256 (ofBytes (sha256 (old ++ sha256 data))))

/-- The key of an image is the one that verifies it: of the first stage the key of the fused digest, of a later
stage one that the stage before takes (16 R388; log 8). -/
def keyPasses (before : Option BootImage) (key : BitVec 256) : Bool :=
  match before with
  | none => BitVec.ofNat 256 (ofBytes (sha256 (bytesOf key.toNat 32))) == Config.fusedDigest
  | some i => Config.stageTrusts i.bytes key

/-- An image passes its checks: its key, its signature of 7,856 bytes over its digest, and the rollback counter
(16 R388). -/
def imagePasses (before : Option BootImage) (i : BootImage) : Bool :=
  keyPasses before i.key && i.signature.length == Config.signatureBytes &&
    Config.slhVerify i.key (sha256 i.bytes) i.signature && decide (Config.rollback ≤ i.version)

/-- The stages of the boot chain: each measures and runs the next; one that fails a check is not run. The
answer tells whether every image passed. -/
def bootChain (before : Option BootImage) : List BootImage → Table (BitVec 256) → Bool × Table (BitVec 256)
  | [], t => (true, t)
  | i :: r, t =>
    let t := extendMeasure t i.register.toNat i.bytes
    if imagePasses before i then bootChain (some i) r t else (false, t)

/-- PACKAGE_RESET: the state is that of reset, DEVINC has risen, and the boot chain has run. A package whose
chain fails stays in recovery, with no control processor running (16 R388 R390 R398). -/
def resetPackage (images : List BootImage) : Act := fun p =>
  let b := bootChain none images []
  p.emit (.reset { p.now with
    devinc := p.now.devinc + 1
    meas := b.2
    recovery := !b.1
    cps := if b.1 then [0, 1, 2, 3] else []
    served := []
    fresh := p.now.fresh + 1 })

/-- PACKAGE_RESET (16 R388). -/
def execPackageReset (images : List BootImage) (s : State) : Host.Outcome State Fault Refusal :=
  commit s (resetPackage images)

end Sys2Proof.Machine
end

