-- ==== Sys2Proof/Machine/Registers.lean ====
section
/-! DEFINITION. The device registers at their physical addresses: what a write does and what a read gives,
under the access codes of 00 R5 and R6 (04 R126 R127, 12 R311, 13 R316 R318, 14 R352, 15 R370, 16 R378 R379
R387 R392 R396). -/

namespace Sys2Proof.Machine

open Sys2Proof

/-! ### Writes -/

/-- A ring's registers written (04 R126, 12 R311): base, size with the enable, and head. -/
def Ring.setBase (r : Ring) (v : Nat) : Ring := { r with base := BitVec.ofNat 40 (bitsOf v 51 12) }

/-- The size word of a ring. -/
def Ring.setSize (r : Ring) (v : Nat) : Ring :=
  { r with
    size := BitVec.ofNat 4 v
    en := bitOf v 8 }

/-- The head of a ring. -/
def Ring.setHead (r : Ring) (v : Nat) : Ring := { r with head := BitVec.ofNat 16 v }

/-- A write to the translation block of a die (04 R126 R127, 12 R311). -/
def writeTranslation (die off v : Nat) : Act :=
  let d := fun (g : Die → Die) => modDie die g
  match off with
  | 0x000 => d (fun x => { x with fq := x.fq.setBase v })
  | 0x008 => d (fun x => { x with fq := x.fq.setSize v })
  | 0x010 => d (fun x => { x with fq := x.fq.setHead v })
  | 0x020 => d (fun x => { x with inverr := x.inverr && !bitOf v 1 })
  | 0x040 => closeFault die (BitVec.ofNat 16 v) (bitOf v 16)
  | 0x080 => d (fun x => { x with invaddr := BitVec.ofNat 51 v })
  | 0x088 => d (fun x => { x with invlen := BitVec.ofNat 51 v })
  | 0x090 => invalidate die (bitsOf v 2 0) (if bitsOf v 2 0 = 4 then 0 else bitsOf v 31 16)
  | 0x100 => d (fun x => { x with sq := x.sq.setBase v })
  | 0x108 => d (fun x => { x with sq := x.sq.setSize v })
  | 0x110 => d (fun x => { x with sq := x.sq.setHead v })
  | 0x120 => d (fun x => { x with serr := x.serr && !bitOf v 1 })
  | 0x140 => stopCommand die v
  | 0x148 => d (fun x => { x with sdata := BitVec.ofNat 64 v })
  | 0x150 => d (fun x => { x with spc := BitVec.ofNat 51 v })
  | _ => id

/-- A write to the front-end block (13 R316 R318). -/
def writeFrontEnd (off v : Nat) : Act :=
  if 0x1000 ≤ off && off < 0x1000 + 0x40 * 64 then writeQueue ((off - 0x1000) / 0x40) ((off - 0x1000) % 0x40) v
  else
    match off with
    | 0x000 => modRest (fun s => { s with ctxbase := BitVec.ofNat 36 (bitsOf v 51 16) })
    | 0x008 => modRest (fun s => { s with ctxcnt := BitVec.ofNat 17 v })
    | 0x010 => writeLseed (BitVec.ofNat 32 v)
    | 0x020 => abortAt (bitsOf v 5 0) (BitVec.ofNat 16 (bitsOf v 31 16))
    | 0x030 => modRest (fun s => { s with blockage := BitVec.ofNat 32 v })
    | _ => id

/-- A half of IDTAB written, unless it is locked (14 R352). -/
def writeIdtab (high : Bool) (v : Nat) : Act := modRest (fun t =>
  if t.idlock then t
  else
    let lo := t.idtab.toNat % 2 ^ 64
    let hi := t.idtab.toNat / 2 ^ 64
    { t with idtab := BitVec.ofNat 128 (
        if high then lo + idtabHalf hi v * 2 ^ 64 else idtabHalf lo v + hi * 2 ^ 64) })

/-- A write to the registers of a stack (14 R352). -/
def writeStack (st off v : Nat) : Act :=
  match off with
  | 0x00 => fun p =>
    let p := modStack st (fun x =>
      { x with
        pinmax := BitVec.ofNat 11 (bitsOf v 10 0)
        pinen := bitOf v 16 }) p
    if bitOf v 17 then clearPins st p else p
  | 0x08 => modStack st (fun x =>
      { x with
        rtint := BitVec.ofNat 8 v
        lthr := BitVec.ofNat 16 (bitsOf v 31 16) })
  | _ => id

/-- A write to the package memory block (14 R352). -/
def writeMemoryBlock (off v : Nat) : Act :=
  if 0x100 ≤ off && off < 0x100 + 0x40 * 8 then writeStack ((off - 0x100) / 0x40) ((off - 0x100) % 0x40) v
  else
    match off with
    | 0x000 => writeIdtab false v
    | 0x008 => writeIdtab true v
    | 0x010 => modRest (fun t => { t with idlock := t.idlock || bitOf v 0 })
    | _ => id

/-- A write to the Hahan block: bit 8 of the first word starts a resynchronisation, else it removes a die
(15 R370; log 33). -/
def writeHahan (off v : Nat) : Act :=
  if 0x100 ≤ off && off < 0x100 + 0x20 * 5 then
    (if (off - 0x100) % 0x20 = 0 && bitsOf v 41 32 != 0 then
      modDie ((off - 0x100) / 0x20) (fun d => { d with emax := 0 }) else id)
  else
    match off with
    | 0x000 => if bitOf v 8 then resynchronise else removeDie (bitsOf v 1 0)
    | 0x040 => modRest (fun s => { s with rlog := s.rlog.setBase v })
    | 0x048 => modRest (fun s => { s with rlog := s.rlog.setSize v })
    | 0x050 => modRest (fun s => { s with rlog := s.rlog.setHead v })
    | _ => id

/-- A write to an export entry (16 R392). -/
def writeExport (e off v : Nat) : Act :=
  let m := fun (g : Export → Export) =>
    modRest (fun s => { s with exports := tput s.exports e (g (tgetD s.exports e {})) })
  match off with
  | 0x00 => m (fun x => { x with base := BitVec.ofNat 37 (bitsOf v 51 15) })
  | 0x08 => m (fun x => { x with len := BitVec.ofNat 64 v })
  | 0x10 => m (fun x => { x with src := BitVec.ofNat 32 v &&& 0x3FFF3FFF })
  | 0x18 => m (fun x => { x with rt := BitVec.ofNat 4 v })
  | _ => id

/-- A write to the Krytist block. RTMO is at least 0x10000 (16 R392; log 34). -/
def writeKrytist (off v : Nat) : Act :=
  if 0x100 ≤ off && off < 0x100 + 0x20 * 64 then writeExport ((off - 0x100) / 0x20) ((off - 0x100) % 0x20) v
  else
    match off with
    | 0x000 => modRest (fun s => { s with devnum := BitVec.ofNat 14 v })
    | 0x010 => modRest (fun s => { s with rtmo := BitVec.ofNat 32 (max 0x10000 (v % 2 ^ 32)) })
    | 0x018 => modRest (fun s => { s with eq := s.eq.setBase v })
    | 0x020 => modRest (fun s => { s with eq := { s.eq with size := BitVec.ofNat 4 v } })
    | 0x028 => modRest (fun s => { s with eq := s.eq.setHead v })
    | _ => id

/-- A write to the health block (16 R396). -/
def writeHealth (off v : Nat) : Act :=
  match off with
  | 0x000 => modRest (fun s => { s with wdlim := BitVec.ofNat 48 v })
  | 0x008 => modRest (fun s => { s with hevt := s.hevt &&& ~~~ BitVec.ofNat 32 v })
  | 0x040 => modRest (fun s => { s with wearalert := BitVec.ofNat 10 v })
  | 0x080 => repairCommand v
  | _ => id

/-- The block of a register address, with its offset: the ID of its capability entry and its instance
(16 R379; log 9). -/
def regBlock (pa : Nat) : Option (Nat × Nat × Nat) :=
  let at_ := fun (base size : Nat) => base ≤ pa && pa < base + size
  if at_ Config.frontEndBase 0x2000 then some (1, 0, pa - Config.frontEndBase)
  else if at_ Config.memoryBase 0x1000 then some (3, 0, pa - Config.memoryBase)
  else if at_ Config.hahanBase 0x1000 then some (4, 0, pa - Config.hahanBase)
  else if at_ Config.krytistBase 0x1000 then some (5, 0, pa - Config.krytistBase)
  else if at_ Config.securityBase 0x1000 then some (6, 0, pa - Config.securityBase)
  else if at_ Config.healthBase 0x1000 then some (7, 0, pa - Config.healthBase)
  else if at_ Config.regBase 0x1000 then some (0, 0, pa - Config.regBase)
  else
    match [0, 1, 2, 3].find? (fun d => at_ (Config.translationBase d) 0x1000) with
    | some d => some (2, d, pa - Config.translationBase d)
    | none => none

/-- A 64-bit write to a register address. The registers of a die out of service are gone (16 R379). -/
def writeRegister (pa v : Nat) : Act := fun p =>
  match regBlock pa with
  | some (1, _, o) => writeFrontEnd o v p
  | some (2, d, o) => if p.now.inService d then writeTranslation d o v p else p
  | some (3, _, o) => writeMemoryBlock o v p
  | some (4, _, o) => writeHahan o v p
  | some (5, _, o) => writeKrytist o v p
  | some (7, _, o) => writeHealth o v p
  | _ => p

/-- REGISTER_WRITE (00 R5): by the control processors or supervisor host software. -/
def execRegisterWrite (pa : BitVec 52) (value : BitVec 64) (s : State) :
    Host.Outcome State Fault Refusal :=
  commit s (actIf (!s.recovery) (writeRegister pa.toNat value.toNat))

/-! ### Reads -/

/-- The words of a ring from its base: base, size with the enable, head, tail. -/
def Ring.word (r : Ring) (off : Nat) : Nat :=
  match off with
  | 0x00 => r.base.toNat * 2 ^ 12
  | 0x08 => r.size.toNat + r.en.toNat * 2 ^ 8
  | 0x10 => r.head.toNat
  | 0x18 => r.tail.toNat
  | _ => 0

/-- A register of the translation block (04 R126 R127, 12 R311). -/
def Die.translationWord (d : Die) (off : Nat) : Nat :=
  match off with
  | 0x020 => d.fq.full.toNat + 2 * d.inverr.toNat
  | 0x080 => d.invaddr.toNat
  | 0x088 => d.invlen.toNat
  | 0x098 => d.inval.isSome.toNat
  | 0x120 => d.sq.full.toNat + 2 * d.serr.toNat + 4 * d.sbusy.toNat
  | 0x148 => d.sdata.toNat
  | 0x150 => d.spc.toNat
  | _ => if off < 0x20 then d.fq.word off else if 0x100 ≤ off && off < 0x120 then d.sq.word (off - 0x100) else 0

/-- A register of a launch queue (13 R318). -/
def State.queueWord (s : State) (n off : Nat) : Nat :=
  let q := s.queue n
  match off with
  | 0x00 => q.base.toNat * 2 ^ 12
  | 0x08 => q.size.toNat + q.en.toNat * 2 ^ 8 + q.sup.toNat * 2 ^ 9 + q.dev.toNat * 2 ^ 10 +
      q.ctx.toNat * 2 ^ 16 + q.tickets.toNat * 2 ^ 32
  | 0x10 => q.widx.toNat
  | 0x18 => q.ridx.toNat
  | 0x20 => q.lrej.toNat + q.rjidx.toNat * 2 ^ 16 + q.rjcnt.toNat * 2 ^ 32
  | 0x28 => q.ldone.toNat
  | 0x30 => q.clmask.toNat + q.coremask.toNat * 2 ^ 32
  | 0x38 => q.qwerr.toNat + 2 * (s.qcerr n).toNat + q.qirq.toNat * 2 ^ 8
  | _ => 0

/-- A register of the front-end block (13 R316). -/
def State.frontEndWord (s : State) (off : Nat) : Nat :=
  if 0x1000 ≤ off then s.queueWord ((off - 0x1000) / 0x40) ((off - 0x1000) % 0x40)
  else
    match off with
    | 0x000 => s.ctxbase.toNat * 2 ^ 16
    | 0x008 => s.ctxcnt.toNat
    | 0x010 => s.lseed.toNat
    | 0x018 => s.inflight.toNat
    | 0x028 => s.abusy.toNat
    | 0x030 => s.blockage.toNat
    | 0x038 => s.swcyc.toNat
    | _ => 0

/-- A register of a stack (14 R352). -/
def Stack.word (x : Stack) (off : Nat) : Nat :=
  match off with
  | 0x00 => x.pinmax.toNat + x.pinen.toNat * 2 ^ 16
  | 0x08 => x.rtint.toNat + x.lthr.toNat * 2 ^ 16
  | 0x10 => x.swaps.toNat
  | 0x18 => x.alerts.toNat + x.pinfail.toNat * 2 ^ 32
  | 0x20 => x.replays.toNat + x.repairs.toNat * 2 ^ 32
  | 0x28 => x.cecnt.toNat + x.uecnt.toNat * 2 ^ 32
  | 0x30 => x.chdown.toNat
  | _ => 0

/-- A register of the package memory block (14 R352). -/
def State.memoryWord (s : State) (off : Nat) : Nat :=
  if 0x100 ≤ off && off < 0x300 then (s.stack ((off - 0x100) / 0x40)).word ((off - 0x100) % 0x40)
  else
    match off with
    | 0x000 => s.idtab.toNat % 2 ^ 64
    | 0x008 => s.idtab.toNat / 2 ^ 64
    | 0x010 => s.idlock.toNat
    | _ => 0

/-- A register of the Hahan block (15 R370). -/
def State.hahanWord (s : State) (off : Nat) : Nat :=
  if 0x100 ≤ off && off < 0x100 + 0x20 * 5 then
    let a := (off - 0x100) / 0x20
    let d := s.die a
    match (off - 0x100) % 0x20 with
    | 0x00 => d.inc.toNat + s.earlyCount a * 2 ^ 16 + d.emax.toNat * 2 ^ 32
    | 0x08 => d.stalls.toNat
    | 0x10 => d.drops.toNat
    | _ => 0
  else
    match off with
    | 0x008 => s.hstate.toNat + s.insvc.toNat * 2 ^ 8
    | 0x058 => s.rlog.tail.toNat + s.rllost.toNat * 2 ^ 32
    | _ => if 0x040 ≤ off && off < 0x058 then s.rlog.word (off - 0x040) else 0

/-- A register of the Krytist block (16 R392). -/
def State.krytistWord (s : State) (off : Nat) : Nat :=
  if 0x100 ≤ off && off < 0x100 + 0x20 * 64 then
    let e := tgetD s.exports ((off - 0x100) / 0x20) {}
    match (off - 0x100) % 0x20 with
    | 0x00 => e.base.toNat * 2 ^ 15
    | 0x08 => e.len.toNat
    | 0x10 => e.src.toNat
    | 0x18 => e.rt.toNat
    | _ => 0
  else
    match off with
    | 0x000 => s.devnum.toNat + s.devinc.toNat * 2 ^ 16
    | 0x008 => s.portup.toNat
    | 0x010 => s.rtmo.toNat
    | 0x018 => s.eq.base.toNat * 2 ^ 12
    | 0x020 => s.eq.size.toNat
    | 0x028 => s.eq.head.toNat
    | 0x030 => s.eq.tail.toNat
    | 0x038 => s.eqlost.toNat
    | _ => 0

/-- A register of the security block; the key is never readable (16 R385 R387). -/
def State.securityWord (s : State) (off : Nat) : Nat :=
  if 0x100 ≤ off && off < 0x100 + 0x20 * 64 then
    let k := tgetD s.slots ((off - 0x100) / 0x20) {}
    match (off - 0x100) % 0x20 with
    | 0x00 => k.inst.toNat + k.ctx.toNat * 2 ^ 16 + k.stream.toNat * 2 ^ 32
    | 0x08 => k.lastctr.toNat
    | 0x10 => k.fails.toNat
    | _ => 0
  else if off = 0 then Config.measurementCount
  else 0

/-- A register of the health block (16 R396). -/
def State.healthWord (s : State) (off : Nat) : Nat :=
  if 0x010 ≤ off && off < 0x038 && off % 8 = 0 then
    let d := s.die ((off - 0x010) / 8)
    d.wear.toNat + d.eoldays.toNat * 2 ^ 16 + d.thrcyc.toNat * 2 ^ 32
  else if 0x048 ≤ off && off < 0x068 && off % 8 = 0 then (s.die ((off - 0x048) / 8)).coresvc.toNat
  else
    match off with
    | 0x000 => s.wdlim.toNat
    | 0x008 => s.hevt.toNat
    | 0x040 => s.wearalert.toNat
    | 0x088 => s.rbusy.toNat
    | 0x090 => s.fstat.toNat
    | _ => 0

/-- An entry of the capability list: block kind, instance, the logarithm of its size, and its base
(16 R379; log 9). -/
def capEntries : List (Nat × Nat × Nat × Nat) :=
  [(1, 0, 13, Config.frontEndBase)] ++
    [0, 1, 2, 3].map (fun d => (2, d, 12, Config.translationBase d)) ++
    [(3, 0, 12, Config.memoryBase), (4, 0, 12, Config.hahanBase), (5, 0, 12, Config.krytistBase),
     (6, 0, 12, Config.securityBase), (7, 0, 12, Config.healthBase), (8, 0, 28, Config.dumpBase),
     (9, 0, 12, Config.hostLinkBase)]

/-- A word of the capability list: a chain of 16-byte entries (16 R379). -/
def capWord (off : Nat) : Nat :=
  let i := off / 16
  match capEntries[i]? with
  | none => 0
  | some (id, inst, log, base) =>
    if off % 16 = 0 then
      id + 1 * 2 ^ 8 + inst * 2 ^ 16 + (if i + 1 < capEntries.length then i + 1 else 0) * 2 ^ 32
    else log + base

/-- The 64-bit register at an address; write-only and reserved fields read 0 (00 R5 R6). -/
def State.readRegister (s : State) (pa : Nat) : Nat :=
  match regBlock pa with
  | some (0, _, o) => capWord o
  | some (1, _, o) => s.frontEndWord o
  | some (2, d, o) => if s.inService d then (s.die d).translationWord o else 0
  | some (3, _, o) => s.memoryWord o
  | some (4, _, o) => s.hahanWord o
  | some (5, _, o) => s.krytistWord o
  | some (6, _, o) => s.securityWord o
  | some (7, _, o) => s.healthWord o
  | _ => 0

end Sys2Proof.Machine
end

