-- ==== Sys2Proof/Machine/Host.lean ====
section
/-! DEFINITION. The host link: posted writes and reads of the host, MSI-X vectors, trusted device
interfaces, key slots and measurements (16 R381 R382 R384 R385 R389). -/

namespace Sys2Proof.Machine

open Sys2Proof

/-! ### What a stream reaches (16 R384) -/

/-- A PTE that maps a confidential page which a range of physical addresses meets. -/
def confPage (e size pa n : Nat) : Bool := bitOf e 11 && overlaps (ptePa e) size pa n

/-- The page table at a root maps a confidential page that a range meets. Tables are followed only where
their PTEs are valid (05 R134). -/
def State.confIn (s : State) (root pa n : Nat) : Bool :=
  (List.range 4096).any (fun i =>
    let e := s.physNat (root + 8 * i) 8
    pteOk e && !bitOf e 1 && !bitOf e 2 && (List.range 4096).any (fun j =>
      let f := s.physNat (ptePa e + 8 * j) 8
      pteOk f && !bitOf f 2 &&
        if bitOf f 1 then bitsOf f 26 15 == 0 && confPage f (2 ^ 27) pa n
        else (List.range 4096).any (fun k =>
          let g := s.physNat (ptePa f + 8 * k) 8
          pteOk g && !bitOf g 1 && confPage g (2 ^ 15) pa n)))

/-- A context maps a confidential page that a range meets. -/
def State.confFor (s : State) (ctx pa n : Nat) : Bool :=
  match s.descriptor ctx with
  | some d => s.confIn d.ptroot pa n
  | none => false

/-- A register word that only the stream of a TDI in RUN reaches: those of its launch queues, and the key
slots bound to its contexts. -/
def State.ownsRegister (s : State) (t : Tdi) (pa : Nat) : Bool :=
  match regBlock pa with
  | some (1, _, o) => 0x1000 ≤ o && t.queues.contains ((o - 0x1000) / 0x40)
  | some (6, _, o) => 0x100 ≤ o &&
    ((tget s.slots ((o - 0x100) / 0x20)).map (fun k => k.inst && t.ctxs.contains k.ctx.toNat)).getD false
  | _ => false

/-- A host request may complete: no TDI in RUN keeps what it touches for another stream. -/
def State.streamMay (s : State) (stream pa n : Nat) : Bool :=
  s.tdis.all (fun e => e.2.state != .run || e.2.stream == stream ||
    if isRegister pa then !((List.range n).any (fun i => s.ownsRegister e.2 (pa + i)))
    else !e.2.ctxs.any (fun c => s.confFor c pa n))

/-! ### Writes and reads (16 R381) -/

/-- The bytes of a range all lie where a predicate holds. -/
def rangeIn (f : Nat → Bool) (pa n : Nat) : Bool := n != 0 && f pa && f (pa + n - 1)

/-- A host write to registers: each 64-bit word that it covers is written (log 35). -/
def writeRegisters (pa : Nat) (data : List Byte) : Act :=
  forEach (List.range (data.length / 8)) (fun i =>
    actIf (pa % 8 == 0) (writeRegister (pa + 8 * i) (ofBytes ((data.drop (8 * i)).take 8))))

/-- A posted write of the host. One that must wait holds up the later requests of its path; one that no BAR takes, or that another stream owns, changes nothing. -/
def hostWrites (pa : Nat) (data : List Byte) (stream : Nat) (w : Waiting) : Act := fun p =>
  let n := data.length
  if p.now.recovery then send .unsupported p
  else if rangeIn isHost pa n then writeMem pa data p
  else if !(rangeIn isPackage pa n || rangeIn isRegister pa n) || !p.now.streamMay stream pa n then
    send .unsupported p
  else if isRegister pa then writeRegisters pa data p
  else if p.now.outsideHeld pa n true then waitOutside w p
  else writeOutside pa data p

/-- HOST_WRITE (16 R381). -/
def execHostWrite (pa : BitVec 52) (data : List (BitVec 8)) (stream : Nat) (s : State) :
    Host.Outcome State Fault Refusal :=
  commit s (hostWrites pa.toNat data stream (.hostWrite pa data stream))

/-- The bytes that the host reads in package memory; poisoned ones are free values (16 R383; log 22). -/
def State.hostBytes (s : State) (pa n : Nat) : List Byte :=
  (List.range n).map (fun i =>
    if s.poisonedAt (pa + i) then Config.poisonByte (s.fresh + i) else s.cohByte (pa + i))

/-- The bytes that the host reads in the register range. -/
def State.registerBytes (s : State) (pa n : Nat) : List Byte :=
  (List.range n).map (fun i =>
    (bytesOf (s.readRegister ((pa + i) / 8 * 8)) 8).getD ((pa + i) % 8) 0)

/-- A read of the host: it completes after every write that arrived before it on its path. -/
def hostReads (pa n stream : Nat) (w : Waiting) : Act := fun p =>
  if p.now.recovery then send .unsupported p
  else if rangeIn isHost pa n then send (.hostData (p.now.bytes pa n)) p
  else if !(rangeIn isPackage pa n || rangeIn isRegister pa n) || !p.now.streamMay stream pa n then
    send .unsupported p
  else if isRegister pa then send (.hostData (p.now.registerBytes pa n)) p
  else if p.now.outsideHeld pa n false then waitOutside w p
  else
    let p := readOutside pa n p
    modRest (fun s => { s with fresh := s.fresh + n }) (send (.hostData (p.now.hostBytes pa n)) p)

/-- HOST_READ (16 R381). -/
def execHostRead (pa : BitVec 52) (n stream : Nat) (s : State) : Host.Outcome State Fault Refusal :=
  commit s (hostReads pa.toNat n stream (.hostRead pa n stream))

/-! ### MSI-X (16 R382) -/

/-- A vector is unmasked: a pending message is sent. -/
def unmask (fn vec : Nat) : Act := fun p =>
  let key := 2048 * fn + vec
  let v := tgetD p.now.vecs key {}
  let p := modRest (fun s =>
    { s with vecs := tput s.vecs key { masked := false, pending := false } }) p
  actIf v.pending (send (.msix fn vec)) p

/-- MSIX_UNMASK (16 R382). -/
def execMsixUnmask (fn vec : Nat) (s : State) : Host.Outcome State Fault Refusal :=
  commit s (unmask fn vec)

/-! ### Trusted device interfaces (16 R384) -/

/-- A TDI changed. -/
def modTdi (t : Nat) (g : Tdi → Tdi) : Act :=
  modRest (fun s => { s with tdis := tput s.tdis t (g (tgetD s.tdis t {})) })

/-- LOCK_INTERFACE: the TDI owns its contexts and queues, and its configuration is measured (16 R389). -/
def lockTdi (t stream : Nat) (ctxs queues : List Nat) (config : List Byte) : Act := fun p =>
  if (tgetD p.now.tdis t {}).state != .unlocked then p
  else
    let p := modTdi t (fun _ =>
      { state := .locked
        stream := stream
        ctxs := ctxs.foldl sadd []
        queues := queues.foldl sadd [] }) p
    modRest (fun s => { s with meas := extendMeasure s.meas 3 config }) p

/-- LOCK_INTERFACE (16 R384). -/
def execLockInterface (tdi stream : Nat) (ctxs queues : List Nat) (config : List (BitVec 8)) (s : State) :
    Host.Outcome State Fault Refusal :=
  commit s (lockTdi tdi stream ctxs queues config)

/-- TDI_ENTERS_RUN (16 R384). -/
def execTdiEntersRun (tdi : Nat) (s : State) : Host.Outcome State Fault Refusal :=
  commit s (fun p =>
    if (tgetD p.now.tdis tdi {}).state == .locked then modTdi tdi (fun t => { t with state := .run }) p
    else p)

/-- The key slots bound to some contexts are cleared. -/
def clearSlotsOf (ctxs : List Nat) : Act :=
  modRest (fun s => { s with slots := s.slots.filter (fun e => !ctxs.contains e.2.ctx.toNat) })

/-- A TDI enters ERROR: the launches of its contexts are aborted and its key slots cleared. -/
def tdiFails (t : Nat) : Act := fun p =>
  let x := tgetD p.now.tdis t {}
  if x.state != .locked && x.state != .run then p
  else
    let p := clearSlotsOf x.ctxs (modTdi t (fun y => { y with state := .error }) p)
    forEach (p.now.launches.filter (fun e => x.ctxs.contains e.2.lr.ctx)) (fun e => beginAbort e.1) p

/-- TDI_ERROR (16 R384). -/
def execTdiError (tdi : Nat) (s : State) : Host.Outcome State Fault Refusal := commit s (tdiFails tdi)

/-! ### Key slots (16 R385) -/

/-- A `reel.dec` command under way reads a key slot. -/
def State.slotRead (s : State) (slot : Nat) : Bool :=
  s.skeins.any (fun e => (List.range 8).any (fun ch =>
    match (e.2.chan ch).cmds.head? with
    | some c => c.form == 5 && (c.buffer.map (fun b => b.kslot)).getD 0 == slot
    | none => false))

/-- Some TDI owns a context, so a session for its key messages exists. -/
def State.owned (s : State) (ctx : Nat) : Bool :=
  s.tdis.any (fun e => e.2.state != .unlocked && e.2.state != .error && e.2.ctxs.contains ctx)

/-- KEYSET: the slot holds the key, its LASTCTR 0, once no command reads the slot. -/
def setKey (slot : Nat) (ctx : BitVec 16) (stream : Word) (key : BitVec 256) (w : Waiting) : Act := fun p =>
  if slot = 0 || !p.now.owned ctx.toNat then p
  else if p.now.slotRead slot then waitOutside w p
  else modSlot slot (fun k =>
    { k with
      inst := true
      ctx := ctx
      stream := stream
      lastctr := 0
      key := key }) p

/-- KEYSET (16 R385). -/
def execKeyset (slot : BitVec 6) (ctx : BitVec 16) (stream : BitVec 32) (key : BitVec 256) (s : State) :
    Host.Outcome State Fault Refusal :=
  commit s (setKey slot.toNat ctx stream key (.keyset slot ctx stream key))

/-- KEYCLR: the slot is cleared once no command reads it. -/
def clearKey (slot : Nat) (w : Waiting) : Act := fun p =>
  if !p.now.owned (tgetD p.now.slots slot {}).ctx.toNat then p
  else if p.now.slotRead slot then waitOutside w p
  else modRest (fun s => { s with slots := tdel s.slots slot }) p

/-- KEYCLR (16 R385). -/
def execKeyclr (slot : BitVec 6) (s : State) : Host.Outcome State Fault Refusal :=
  commit s (clearKey slot.toNat (.keyclr slot))

/-! ### Measurements (16 R389) -/

/-- GET_MEASUREMENTS: the registers, signed by the device key (16 R389; log 8). -/
def execGetMeasurements (s : State) : Host.Outcome State Fault Refusal :=
  commit s (fun p =>
    let regs := (List.range Config.measurementCount).map (fun i => tgetD p.now.meas i 0)
    send (.measurements regs (Config.slhSign (regs.flatMap (fun r => bytesOf r.toNat 32)))) p)

end Sys2Proof.Machine
end

