-- ==== Sys2Proof/Machine/Setup.lean ====
section
/-! DEFINITION. One skein of one fibre placed in the package with a word in its clause buffer: the load
of a program from outside that `State.withFetchWord` stands for (13 R323 R325, 06 R157; log 20). -/

namespace Sys2Proof.Machine

open Sys2Proof

/-- A launch record with every resource of a core (06 R150), supervisor, nothing bound. -/
def fullRecord : LaunchRec :=
  { ctx := 0, relayMode := false, sup := true, fentry := 0, sentry := 0, tentry := 0, codebuf := 0,
    regs := 128, span := 1, fibres := 1, wid := [], stash := 524288, pool := 0, tiles := 16,
    knots := 16, queues := 16, reels := 8, draft := true, caddr := 0, clen := 0, ckey := 0, cbind := 0,
    cscope := 0, cvalid := false, coff := 0, relay := [], binds := [], maps := [] }

/-- A clause of class 7 without thresholds that holds one word. -/
def oneWord (w : Word) : Clause :=
  { hdr := 0
    head := BitVec.ofNat 32 (Header.toWord
      { tag := 12, n := 1, cls := 7, ldt := 15, stt := 15, cpt := 7, tlt := 7, yld := false,
        crd := false, res := 0 })
    words := [w] }

/-- The place of the word in that clause. -/
def oneWordPos : Pos := { pc := 4, hdr := 0 }

/-- The front context reads the word in its own form (04 R113). -/
noncomputable def readsAsFront (w : Nat) : Bool :=
  match (if w / 2 ^ 19 % 2 == 0 || frontOnly w then decode true w else decode false w) with
  | .ok i => i.frontForm
  | .error _ => false

/-- The package with one skein on core 0, its word next in a fibre or in the front context. -/
def State.withSkein (s : State) (front : Bool) (w : Word) : State :=
  let idF : Ident := { die := 0, core := 0, serial := 1 }
  let f : Fibre :=
    { sk := 1, idx := 0, lane := 0, pos := if front then posAt 0 else oneWordPos,
      run := if front then .filed else .strand 1, ident := { idF with serial := 2 } }
  let x : Skein :=
    { launch := 1, lr := fullRecord, idx := 0, core := 0, lane0 := 0, slot := 0, ctl := ctlReset ||| 0x11010000000
      front := {
        pos := if front then oneWordPos else posAt 0
        run := if front then .ready else .ended
        clause := if front then some (oneWord w) else none
        ident := idF } }
  let st : Strand :=
    { core := 0, slot := 0, active := true, fibs := [1], pos := oneWordPos, clause := some (oneWord w) }
  let l : Launch := { lr := fullRecord, queue := 0, ringIdx := 0, order := 0, waiting := [] }
  { s with
    fibres := tput s.fibres 1 f
    skeins := tput s.skeins 1 x
    strands := if front then s.strands else tput s.strands 1 st
    launches := tput s.launches 1 l
    nextKey := s.nextKey + 2
    turn := some (.issue (if front then .front 1 else .strand 1)) }

end Sys2Proof.Machine
end

