-- ==== Sys2Proof/Machine/Turns.lean ====
section
/-! DEFINITION. What moves next: the issuing contexts and the units of the package as agents, the requests
from outside, and the choice among them (06 R160-R162, 15 R354; log 4). -/

namespace Sys2Proof.Machine

open Sys2Proof

/-! ### Who may move -/

/-- The turn of an issuing context: its next word, or the fetch of its next clause. -/
noncomputable def State.turnOf (s : State) (w : Who) : Turn :=
  if (s.clauseOf w).isSome then .issue w else .event (.clauseIssue w)

/-- Strand `n` of a slot was tried and was not ready, and its slot has issued no word since (06 R160). -/
def State.passedOver (s : State) (core slot n : Nat) : Bool :=
  match tget (s.core core).tried n with
  | none => false
  | some t => (s.activeOf core slot).all (fun e => e.2.since ≤ t)

/-- The strand that a slot tries next: of the active ones, the one that has waited longest, those passed over
last (06 R160; log 4). -/
def State.slotNext (s : State) (core slot : Nat) : Option Nat :=
  let act := s.activeOf core slot
  match longest (act.filter (fun e => !s.passedOver core slot e.1)) with
  | some e => some e.1
  | none => (longest act).map (fun e => e.1)

/-- The front context that the front thread of a core tries next: the next ready one in the order of the slots
(06 R162; log 4). -/
def State.frontNext (s : State) (core : Nat) : Option Nat :=
  let l := s.skeins.filter (fun e => e.2.core == core && e.2.front.run == .ready)
  let t := (s.core core).turn
  (l.foldl (fun (m : Option (Nat × Nat)) e =>
    let d := (e.2.slot + 127 - t) % 64
    match m with
    | none => some (d, e.1)
    | some y => if d < y.1 then some (d, e.1) else some y) none).map (fun e => e.2)

/-- The issuing contexts that are tried next: one strand of each slot and one front context of each core. -/
noncomputable def State.issuers (s : State) : List Turn :=
  (s.skeins.foldl (fun m e => sadd m e.2.core) []).flatMap (fun c =>
    [0, 1, 2, 3].filterMap (fun i => (s.slotNext c i).map (fun n => s.turnOf (.strand n))) ++
      ((s.frontNext c).map (fun k => s.turnOf (.front k))).toList)

/-- The group of atomics that the aggregator may combine with the one at the head of a fibre's queue. -/
def State.aggGroup (s : State) (k : Nat) : List Nat :=
  let key := fun j => ((headOf (s.storesOf (.fibre j))).bind Store.aggKey)
  if (key k).isNone then []
  else (s.fibres.filter (fun e => key e.1 == key k && s.coreOf (.fibre e.1) == s.coreOf (.fibre k))).map
    (fun e => e.1)

/-- The loads and stores of the contexts. -/
noncomputable def State.accesses (s : State) : List Instr :=
  s.fibres.flatMap (fun e =>
      e.2.loads.map (fun l => .loadComplete (.fibre e.1) l.id) ++
        (if e.2.stores.isEmpty then [] else
          [.storePerformed (.fibre e.1), .aggregatorGroup (s.aggGroup e.1)]) ++
        e.2.steers.map (fun x => .steeringComplete e.1 x.id)) ++
    s.skeins.flatMap (fun e =>
      e.2.front.loads.map (fun l => .loadComplete (.front e.1) l.id) ++
        if e.2.front.stores.isEmpty then [] else [.storePerformed (.front e.1)])

/-- The engines and controllers of the cores. -/
noncomputable def State.coreUnits (s : State) : List Instr :=
  s.cores.flatMap (fun e =>
      .strandDraw e.1 :: (List.range e.2.bins.length).map (.binAged e.1) ++
        [0, 1, 2, 3].map (.strandExchange e.1)) ++
    s.skeins.flatMap (fun e =>
      [.skeinAdmission e.1, .skeinEnd e.1, .watchdogExpiry e.1, .tileOpComplete e.1] ++
        (List.range 8).flatMap (fun ch => [.reelLineComplete e.1 ch, .reelDecVerify e.1 ch])) ++
    s.fills.map (fun f => .stashFillComplete f.map f.line) ++
    s.ifetch.flatMap (fun e => e.2.map (.instructionCacheFill e.1))

/-- The units of the dies and of the fabrics. -/
noncomputable def State.dieUnits (s : State) : List Instr :=
  [0, 1, 2, 3].flatMap (fun d =>
      [.stopRecordPost d, .stopCommandDone d, .faultPost d, .invalidateDone d, .trackingWindow d] ++
        (s.die d).walks.map (fun w => .pageWalkComplete d w.ctx w.page)) ++
    s.packets.flatMap (fun k =>
      [.packetArrival k.src k.dst, .packetAck k.src k.dst, .linkReplay k.src k.dst]) ++
    s.regions.flatMap (fun r => [0, 1, 2, 3].map (.holderMove r.base)) ++
    s.remotes.map (fun e => .remoteTimeout e.1)

/-- The front end and the memory controllers. -/
noncomputable def State.packageUnits (s : State) : List Instr :=
  [.lotteryDraw, .placement, .abortDone, .repairDone] ++
    s.launches.flatMap (fun e =>
      .blockageExpiry e.1 ::
        (List.range 16).flatMap (fun pl => [.plyBegin e.1 pl, .plyComplete e.1 pl]) ++
        e.2.quanta.flatMap (fun g => [.quantumExpiry e.1 g.1, .contextSwitchOut e.1 g.1]) ++
        (s.skeins.filter (fun x => x.2.launch == e.1)).map (fun x =>
          .contextSwitchIn e.1 (x.2.lr.dieGroup x.2.idx))) ++
    s.banks.flatMap (fun e => .bankAccess e.1 :: if e.2.alarmed then [.activationAlert e.1] else []) ++
    (List.range 512).flatMap (fun ps => [.refresh ps, .refreshOwed ps])

/-! ### Requests from outside -/

/-- A host request waits, so the later ones of its path wait too (16 R381). -/
def State.hostWaits (s : State) : Bool :=
  s.waiting.any (fun w =>
    match w with
    | .hostWrite _ _ _ => true
    | .hostRead _ _ _ => true
    | _ => false)

/-- A request that the host sends on its path: a write or read through its BARs, or a write of a register,
which is one of its posted writes too (13 R319, 16 R381). -/
def isHostRequest (i : Instr) : Bool :=
  match i with
  | .hostWrite _ _ _ => true
  | .hostRead _ _ _ => true
  | .registerWrite _ _ => true
  | .widxWrite _ _ => true
  | .queueControlWrite _ _ _ => true
  | .lseedWrite _ => true
  | .abort _ _ => true
  | .idtabWrite _ _ => true
  | .idlock _ => true
  | .unpin _ => true
  | .resync => true
  | .repairCore _ => true
  | .repairDie _ => true
  | .repairUcieLane _ => true
  | .repairKrytistLane _ => true
  | .returnToService _ _ => true
  | .stopResume _ _ => true
  | .stopResumeAt _ _ => true
  | .stopEndTarget _ _ => true
  | .stopRelease _ _ => true
  | .stopReadRegister _ _ => true
  | .stopWriteRegister _ _ => true
  | .stopCommandRefused _ _ => true
  | .faultResume _ _ => true
  | .faultDiscard _ _ => true
  | .invalidateVaRange _ _ => true
  | .invalidateContextTranslations _ _ => true
  | .invalidateBufferEntries _ _ => true
  | .invalidateContextAll _ _ => true
  | .invalidateAllContexts _ => true
  | _ => false

/-- The next event from outside, unless it has to wait behind another of its path. -/
def State.arrival (s : State) : List Turn :=
  match s.agenda with
  | [] => []
  | i :: _ => if s.hostWaits && isHostRequest i then [] else [.event i]

/-- A request that waited is tried again. -/
noncomputable def Waiting.request (w : Waiting) : Instr :=
  match w with
  | .hostWrite pa data stream => .hostWrite pa data stream
  | .hostRead pa n stream => .hostRead pa n stream
  | .remote r => .remoteRequest r
  | .keyset slot ctx stream key => .keyset slot ctx stream key
  | .keyclr slot => .keyclr slot

/-! ### The choice -/

/-- Every turn that may come next. -/
noncomputable def State.turns (s : State) : List Turn :=
  s.arrival ++ (List.range s.waiting.length).map .again ++ s.issuers ++
    (s.accesses ++ s.coreUnits ++ s.dieUnits ++ s.packageUnits).map .event

/-- The issuing context of a turn. -/
def Turn.issuer (t : Turn) : Option Who :=
  match t with
  | .issue w => some w
  | .event (.clauseIssue w) => some w
  | _ => none

/-- A turn that a package stopped by a fatal error still takes. All issue has stopped: no context issues a word
or begins a clause, and no launch is taken, placed, admitted or switched. The host still reaches the package
(16 R398; log 29). -/
def turnWhenStopped (t : Turn) : Bool :=
  t.issuer.isNone && match t with
  | .event .lotteryDraw => false
  | .event .placement => false
  | .event (.skeinAdmission _) => false
  | .event (.contextSwitchOut _ _) => false
  | .event (.contextSwitchIn _ _) => false
  | _ => true

/-- The turns that may come next in a package that runs, or that a fatal error has stopped (16 R398). -/
noncomputable def State.openTurns (s : State) : List Turn :=
  if s.stopped then s.turns.filter turnWhenStopped else s.turns

/-- A skein whose watchdog counter has reached WDLIM (16 R395). -/
def State.overdue (s : State) : Option Nat :=
  if s.wdlim = 0 then none
  else (s.skeins.find? (fun e => e.2.watched && s.wdlim.toNat ≤ e.2.dog)).map (fun e => e.1)

/-- The next turn: what the state fixes; else a watchdog that has expired, which acts before any context
retires a further word (16 R395); else a choice of the part among what may move (log 4). -/
noncomputable def nextTurn (s : State) : Option Turn :=
  match s.turn with
  | some t => some t
  | none =>
    match s.overdue with
    | some k => some (.event (.watchdogExpiry k))
    | none => s.openTurns[Config.choose s.fresh % s.openTurns.length]?

/-- A slot or a front thread has tried an issuing context (06 R160 R162). -/
def noteTry (w : Who) (s : State) : State :=
  match w with
  | .strand n =>
    match tget s.strands n with
    | none => s
    | some x =>
      let c := s.core x.core
      let act := s.activeOf x.core x.slot
      let live := c.tried.filter (fun e => (tget s.strands e.1).isSome)
      let old := if act.all (fun e => e.1 == n || s.passedOver x.core x.slot e.1) then
          live.filter (fun e => !act.any (fun y => y.1 == e.1))
        else live
      { s with cores := tput s.cores x.core { c with tried := tput old n s.time } }
  | .front k =>
    match tget s.skeins k with
    | none => s
    | some x => { s with cores := tput s.cores x.core { s.core x.core with turn := x.slot } }

/-- The turn is taken: what fixed it is cleared, an event has left the agenda, a request that is tried again
no longer waits, and the slot or front thread of an issuing context has tried it. -/
def turnTaken (t : Turn) (s : State) : State :=
  let s := match t.issuer with
    | some w => noteTry w s
    | none => s
  let s := match s.turn, t with
    | none, .event i => if s.agenda.head? = some i then { s with agenda := s.agenda.drop 1 } else s
    | _, _ => s
  let s := match t with
    | .again n => { s with waiting := s.waiting.eraseIdx n }
    | _ => s
  { s with turn := none }

end Sys2Proof.Machine
end

