-- ==== Sys2Proof/Machine/Dispatch.lean ====
section
/-! DEFINITION. The one dispatch: each instruction has a meaning of its own, or is rejected by name. -/

namespace Sys2Proof.Machine

open Sys2Proof

/-- The next state of an instruction. -/
def exec (i : Instr) (s : State) : Host.Outcome State Fault Refusal :=
  match i with
  | .add d a b => Sys2Proof.Machine.execAdd d a b s
  | .sub d a b => Sys2Proof.Machine.execSub d a b s
  | .mullo d a b => Sys2Proof.Machine.execMullo d a b s
  | .mulhiI32 d a b => Sys2Proof.Machine.execMulhiI32 d a b s
  | .mulhiN32 d a b => Sys2Proof.Machine.execMulhiN32 d a b s
  | .minI32 d a b => Sys2Proof.Machine.execMinI32 d a b s
  | .maxI32 d a b => Sys2Proof.Machine.execMaxI32 d a b s
  | .minN32 d a b => Sys2Proof.Machine.execMinN32 d a b s
  | .maxN32 d a b => Sys2Proof.Machine.execMaxN32 d a b s
  | .and d a b => Sys2Proof.Machine.execAnd d a b s
  | .or d a b => Sys2Proof.Machine.execOr d a b s
  | .xor d a b => Sys2Proof.Machine.execXor d a b s
  | .andn d a b => Sys2Proof.Machine.execAndn d a b s
  | .shl d a b => Sys2Proof.Machine.execShl d a b s
  | .shrN32 d a b => Sys2Proof.Machine.execShrN32 d a b s
  | .shrI32 d a b => Sys2Proof.Machine.execShrI32 d a b s
  | .rotl d a b => Sys2Proof.Machine.execRotl d a b s
  | .abs d a => Sys2Proof.Machine.execAbs d a s
  | .neg d a => Sys2Proof.Machine.execNeg d a s
  | .clz d a => Sys2Proof.Machine.execClz d a s
  | .popc d a => Sys2Proof.Machine.execPopc d a s
  | .brev d a => Sys2Proof.Machine.execBrev d a s
  | .bfxN32 d a b => Sys2Proof.Machine.execBfxN32 d a b s
  | .bfxI32 d a b => Sys2Proof.Machine.execBfxI32 d a b s
  | .bfi d a b => Sys2Proof.Machine.execBfi d a b s
  | .mad d a b => Sys2Proof.Machine.execMad d a b s
  | .addi d a ix => Sys2Proof.Machine.execAddi d a ix s
  | .andi d a ix => Sys2Proof.Machine.execAndi d a ix s
  | .ori d a ix => Sys2Proof.Machine.execOri d a ix s
  | .xori d a ix => Sys2Proof.Machine.execXori d a ix s
  | .shli d a n => Sys2Proof.Machine.execShli d a n s
  | .shriN32 d a n => Sys2Proof.Machine.execShriN32 d a n s
  | .shriI32 d a n => Sys2Proof.Machine.execShriI32 d a n s
  | .rotli d a n => Sys2Proof.Machine.execRotli d a n s
  | .lui d ix => Sys2Proof.Machine.execLui d ix s
  | .movi d ix => Sys2Proof.Machine.execMovi d ix s
  | .addI64 d a b => Sys2Proof.Machine.execAddI64 d a b s
  | .subI64 d a b => Sys2Proof.Machine.execSubI64 d a b s
  | .mulloI64 d a b => Sys2Proof.Machine.execMulloI64 d a b s
  | .mulhiI64 d a b => Sys2Proof.Machine.execMulhiI64 d a b s
  | .mulhiN64 d a b => Sys2Proof.Machine.execMulhiN64 d a b s
  | .minI64 d a b => Sys2Proof.Machine.execMinI64 d a b s
  | .maxI64 d a b => Sys2Proof.Machine.execMaxI64 d a b s
  | .minN64 d a b => Sys2Proof.Machine.execMinN64 d a b s
  | .maxN64 d a b => Sys2Proof.Machine.execMaxN64 d a b s
  | .shlB64 d a b => Sys2Proof.Machine.execShlB64 d a b s
  | .shrN64 d a b => Sys2Proof.Machine.execShrN64 d a b s
  | .shrI64 d a b => Sys2Proof.Machine.execShrI64 d a b s
  | .negI64 d a => Sys2Proof.Machine.execNegI64 d a s
  | .clzB64 d a => Sys2Proof.Machine.execClzB64 d a s
  | .popcB64 d a => Sys2Proof.Machine.execPopcB64 d a s
  | .mulwI32 d a b => Sys2Proof.Machine.execMulwI32 d a b s
  | .mulwN32 d a b => Sys2Proof.Machine.execMulwN32 d a b s
  | .addxI64 d a b => Sys2Proof.Machine.execAddxI64 d a b s
  | .cmpEqI32 p a b => Sys2Proof.Machine.execCmpEqI32 p a b s
  | .cmpNeI32 p a b => Sys2Proof.Machine.execCmpNeI32 p a b s
  | .cmpLtI32 p a b => Sys2Proof.Machine.execCmpLtI32 p a b s
  | .cmpLeI32 p a b => Sys2Proof.Machine.execCmpLeI32 p a b s
  | .cmpLtN32 p a b => Sys2Proof.Machine.execCmpLtN32 p a b s
  | .cmpLeN32 p a b => Sys2Proof.Machine.execCmpLeN32 p a b s
  | .cmpEqI64 p a b => Sys2Proof.Machine.execCmpEqI64 p a b s
  | .cmpNeI64 p a b => Sys2Proof.Machine.execCmpNeI64 p a b s
  | .cmpLtI64 p a b => Sys2Proof.Machine.execCmpLtI64 p a b s
  | .cmpLeI64 p a b => Sys2Proof.Machine.execCmpLeI64 p a b s
  | .cmpLtN64 p a b => Sys2Proof.Machine.execCmpLtN64 p a b s
  | .cmpLeN64 p a b => Sys2Proof.Machine.execCmpLeN64 p a b s
  | .cmpEqF32 p a b => Sys2Proof.Machine.execCmpEqF32 p a b s
  | .cmpNeF32 p a b => Sys2Proof.Machine.execCmpNeF32 p a b s
  | .cmpLtF32 p a b => Sys2Proof.Machine.execCmpLtF32 p a b s
  | .cmpLeF32 p a b => Sys2Proof.Machine.execCmpLeF32 p a b s
  | .cmpUnF32 p a b => Sys2Proof.Machine.execCmpUnF32 p a b s
  | .cmpEqF64 p a b => Sys2Proof.Machine.execCmpEqF64 p a b s
  | .cmpNeF64 p a b => Sys2Proof.Machine.execCmpNeF64 p a b s
  | .cmpLtF64 p a b => Sys2Proof.Machine.execCmpLtF64 p a b s
  | .cmpLeF64 p a b => Sys2Proof.Machine.execCmpLeF64 p a b s
  | .cmpUnF64 p a b => Sys2Proof.Machine.execCmpUnF64 p a b s
  | .pand d a b => Sys2Proof.Machine.execPand d a b s
  | .por d a b => Sys2Proof.Machine.execPor d a b s
  | .pxor d a b => Sys2Proof.Machine.execPxor d a b s
  | .pandn d a b => Sys2Proof.Machine.execPandn d a b s
  | .pnot d a => Sys2Proof.Machine.execPnot d a s
  | .pmov d a => Sys2Proof.Machine.execPmov d a s
  | .sel d a b n p => Sys2Proof.Machine.execSel d a b n p s
  | .sel64 d a b n p => Sys2Proof.Machine.execSel64 d a b n p s
  | .mov d a => Sys2Proof.Machine.execMov d a s
  | .mov64 d a => Sys2Proof.Machine.execMov64 d a s
  | .pget d => Sys2Proof.Machine.execPget d s
  | .pput a => Sys2Proof.Machine.execPput a s
  | .dqpop d t => Sys2Proof.Machine.execDqpop d t s
  | .addF32 d a b => Sys2Proof.Machine.execAddF32 d a b s
  | .subF32 d a b => Sys2Proof.Machine.execSubF32 d a b s
  | .mulF32 d a b => Sys2Proof.Machine.execMulF32 d a b s
  | .fmaF32 d a b => Sys2Proof.Machine.execFmaF32 d a b s
  | .minF32 d a b => Sys2Proof.Machine.execMinF32 d a b s
  | .maxF32 d a b => Sys2Proof.Machine.execMaxF32 d a b s
  | .minmF32 d a b => Sys2Proof.Machine.execMinmF32 d a b s
  | .maxmF32 d a b => Sys2Proof.Machine.execMaxmF32 d a b s
  | .absF32 d a => Sys2Proof.Machine.execAbsF32 d a s
  | .negF32 d a => Sys2Proof.Machine.execNegF32 d a s
  | .copysignF32 d a b => Sys2Proof.Machine.execCopysignF32 d a b s
  | .divF32 d a b => Sys2Proof.Machine.execDivF32 d a b s
  | .sqrtF32 d a => Sys2Proof.Machine.execSqrtF32 d a s
  | .rcpF32 d a => Sys2Proof.Machine.execRcpF32 d a s
  | .rsqrtF32 d a => Sys2Proof.Machine.execRsqrtF32 d a s
  | .exp2F32 d a => Sys2Proof.Machine.execExp2F32 d a s
  | .log2F32 d a => Sys2Proof.Machine.execLog2F32 d a s
  | .tanhF32 d a => Sys2Proof.Machine.execTanhF32 d a s
  | .floorF32 d a => Sys2Proof.Machine.execFloorF32 d a s
  | .ceilF32 d a => Sys2Proof.Machine.execCeilF32 d a s
  | .truncF32 d a => Sys2Proof.Machine.execTruncF32 d a s
  | .rintF32 d a => Sys2Proof.Machine.execRintF32 d a s
  | .classF32 d a => Sys2Proof.Machine.execClassF32 d a s
  | .ldexpF32 d a b => Sys2Proof.Machine.execLdexpF32 d a b s
  | .addF64 d a b => Sys2Proof.Machine.execAddF64 d a b s
  | .subF64 d a b => Sys2Proof.Machine.execSubF64 d a b s
  | .mulF64 d a b => Sys2Proof.Machine.execMulF64 d a b s
  | .fmaF64 d a b => Sys2Proof.Machine.execFmaF64 d a b s
  | .minF64 d a b => Sys2Proof.Machine.execMinF64 d a b s
  | .maxF64 d a b => Sys2Proof.Machine.execMaxF64 d a b s
  | .absF64 d a => Sys2Proof.Machine.execAbsF64 d a s
  | .negF64 d a => Sys2Proof.Machine.execNegF64 d a s
  | .divF64 d a b => Sys2Proof.Machine.execDivF64 d a b s
  | .sqrtF64 d a => Sys2Proof.Machine.execSqrtF64 d a s
  | .floorF64 d a => Sys2Proof.Machine.execFloorF64 d a s
  | .ceilF64 d a => Sys2Proof.Machine.execCeilF64 d a s
  | .truncF64 d a => Sys2Proof.Machine.execTruncF64 d a s
  | .rintF64 d a => Sys2Proof.Machine.execRintF64 d a s
  | .addF16x2 d a b => Sys2Proof.Machine.execAddF16x2 d a b s
  | .subF16x2 d a b => Sys2Proof.Machine.execSubF16x2 d a b s
  | .mulF16x2 d a b => Sys2Proof.Machine.execMulF16x2 d a b s
  | .fmaF16x2 d a b => Sys2Proof.Machine.execFmaF16x2 d a b s
  | .minF16x2 d a b => Sys2Proof.Machine.execMinF16x2 d a b s
  | .maxF16x2 d a b => Sys2Proof.Machine.execMaxF16x2 d a b s
  | .addBf16x2 d a b => Sys2Proof.Machine.execAddBf16x2 d a b s
  | .subBf16x2 d a b => Sys2Proof.Machine.execSubBf16x2 d a b s
  | .mulBf16x2 d a b => Sys2Proof.Machine.execMulBf16x2 d a b s
  | .fmaBf16x2 d a b => Sys2Proof.Machine.execFmaBf16x2 d a b s
  | .minBf16x2 d a b => Sys2Proof.Machine.execMinBf16x2 d a b s
  | .maxBf16x2 d a b => Sys2Proof.Machine.execMaxBf16x2 d a b s
  | .cvt d a sx t => Sys2Proof.Machine.execCvt d a sx t s
  | .dot2F16x2 d a b => Sys2Proof.Machine.execDot2F16x2 d a b s
  | .dot2Bf16x2 d a b => Sys2Proof.Machine.execDot2Bf16x2 d a b s
  | .dot4E4m3x4 d a b => Sys2Proof.Machine.execDot4E4m3x4 d a b s
  | .dot4I8x4 d a b => Sys2Proof.Machine.execDot4I8x4 d a b s
  | .dot4N8x4 d a b => Sys2Proof.Machine.execDot4N8x4 d a b s
  | .mvc d a l => Sys2Proof.Machine.execMvc d a l s
  | .mvcAcc d a l => Sys2Proof.Machine.execMvcAcc d a l s
  | .xshflIdx d a b m => Sys2Proof.Machine.execXshflIdx d a b m s
  | .xshflUp d a b m => Sys2Proof.Machine.execXshflUp d a b m s
  | .xshflDown d a b m => Sys2Proof.Machine.execXshflDown d a b m s
  | .xshflXor d a b m => Sys2Proof.Machine.execXshflXor d a b m s
  | .xredAddI32 d a m => Sys2Proof.Machine.execXredAddI32 d a m s
  | .xredMinI32 d a m => Sys2Proof.Machine.execXredMinI32 d a m s
  | .xredMaxI32 d a m => Sys2Proof.Machine.execXredMaxI32 d a m s
  | .xredMinN32 d a m => Sys2Proof.Machine.execXredMinN32 d a m s
  | .xredMaxN32 d a m => Sys2Proof.Machine.execXredMaxN32 d a m s
  | .xredAnd d a m => Sys2Proof.Machine.execXredAnd d a m s
  | .xredOr d a m => Sys2Proof.Machine.execXredOr d a m s
  | .xredXor d a m => Sys2Proof.Machine.execXredXor d a m s
  | .xredAddF32 d a m => Sys2Proof.Machine.execXredAddF32 d a m s
  | .xredMinF32 d a m => Sys2Proof.Machine.execXredMinF32 d a m s
  | .xredMaxF32 d a m => Sys2Proof.Machine.execXredMaxF32 d a m s
  | .ballot d sx m => Sys2Proof.Machine.execBallot d sx m s
  | .any p sx m => Sys2Proof.Machine.execAny p sx m s
  | .all p sx m => Sys2Proof.Machine.execAll p sx m s
  | .uni p a m => Sys2Proof.Machine.execUni p a m s
  | .ldS64 d a b ix => Sys2Proof.Machine.execLdS64 d a b ix s
  | .stS64 d a b ix => Sys2Proof.Machine.execStS64 d a b ix s
  | .ldS32 d a b ix => Sys2Proof.Machine.execLdS32 d a b ix s
  | .stS32 d a b ix => Sys2Proof.Machine.execStS32 d a b ix s
  | .bra p n o => Sys2Proof.Machine.execBra p n o s
  | .bruD t o => Sys2Proof.Machine.execBruD t o s
  | .bruP p n o => Sys2Proof.Machine.execBruP p n o s
  | .call p n o => Sys2Proof.Machine.execCall p n o s
  | .jmp a => Sys2Proof.Machine.execJmp a s
  | .callr d a => Sys2Proof.Machine.execCallr d a s
  | .ret a => Sys2Proof.Machine.execRet a s
  | .jmpU a => Sys2Proof.Machine.execJmpU a s
  | .card => Sys2Proof.Machine.execCard s
  | .exit => Sys2Proof.Machine.execExit s
  | .exitRelay e => Sys2Proof.Machine.execExitRelay e s
  | .karm k v => Sys2Proof.Machine.execKarm k v s
  | .karmByte k => Sys2Proof.Machine.execKarmByte k s
  | .tie k => Sys2Proof.Machine.execTie k s
  | .tiew k => Sys2Proof.Machine.execTiew k s
  | .kexpect k v => Sys2Proof.Machine.execKexpect k v s
  | .kwait k => Sys2Proof.Machine.execKwait k s
  | .kstat k d => Sys2Proof.Machine.execKstat k d s
  | .wait l sx c t => Sys2Proof.Machine.execWait l sx c t s
  | .nop => Sys2Proof.Machine.execNop s
  | .yield => Sys2Proof.Machine.execYield s
  | .ipf o => Sys2Proof.Machine.execIpf o s
  | .brk c => Sys2Proof.Machine.execBrk c s
  | .ldN8 d a b c sx => Sys2Proof.Machine.execLdN8 d a b c sx s
  | .ldI8 d a b c sx => Sys2Proof.Machine.execLdI8 d a b c sx s
  | .ldN16 d a b c sx => Sys2Proof.Machine.execLdN16 d a b c sx s
  | .ldI16 d a b c sx => Sys2Proof.Machine.execLdI16 d a b c sx s
  | .ldB32 d a b c sx => Sys2Proof.Machine.execLdB32 d a b c sx s
  | .ldB64 d a b c sx => Sys2Proof.Machine.execLdB64 d a b c sx s
  | .ldB128 d a b c sx => Sys2Proof.Machine.execLdB128 d a b c sx s
  | .stB8 d a b c => Sys2Proof.Machine.execStB8 d a b c s
  | .stB16 d a b c => Sys2Proof.Machine.execStB16 d a b c s
  | .stB32 d a b c => Sys2Proof.Machine.execStB32 d a b c s
  | .stB64 d a b c => Sys2Proof.Machine.execStB64 d a b c s
  | .stB128 d a b c => Sys2Proof.Machine.execStB128 d a b c s
  | .ldaN8 d a b sx => Sys2Proof.Machine.execLdaN8 d a b sx s
  | .ldaI8 d a b sx => Sys2Proof.Machine.execLdaI8 d a b sx s
  | .ldaN16 d a b sx => Sys2Proof.Machine.execLdaN16 d a b sx s
  | .ldaI16 d a b sx => Sys2Proof.Machine.execLdaI16 d a b sx s
  | .ldaB32 d a b sx => Sys2Proof.Machine.execLdaB32 d a b sx s
  | .ldaB64 d a b sx => Sys2Proof.Machine.execLdaB64 d a b sx s
  | .ldaB128 d a b sx => Sys2Proof.Machine.execLdaB128 d a b sx s
  | .stlB8 d a b sx => Sys2Proof.Machine.execStlB8 d a b sx s
  | .stlB16 d a b sx => Sys2Proof.Machine.execStlB16 d a b sx s
  | .stlB32 d a b sx => Sys2Proof.Machine.execStlB32 d a b sx s
  | .stlB64 d a b sx => Sys2Proof.Machine.execStlB64 d a b sx s
  | .stlB128 d a b sx => Sys2Proof.Machine.execStlB128 d a b sx s
  | .atomAddI32 d a b n => Sys2Proof.Machine.execAtomAddI32 d a b n s
  | .atomAddI64 d a b n => Sys2Proof.Machine.execAtomAddI64 d a b n s
  | .atomMinI32 d a b n => Sys2Proof.Machine.execAtomMinI32 d a b n s
  | .atomMaxI32 d a b n => Sys2Proof.Machine.execAtomMaxI32 d a b n s
  | .atomMinN32 d a b n => Sys2Proof.Machine.execAtomMinN32 d a b n s
  | .atomMaxN32 d a b n => Sys2Proof.Machine.execAtomMaxN32 d a b n s
  | .atomAndB32 d a b n => Sys2Proof.Machine.execAtomAndB32 d a b n s
  | .atomOrB32 d a b n => Sys2Proof.Machine.execAtomOrB32 d a b n s
  | .atomXorB32 d a b n => Sys2Proof.Machine.execAtomXorB32 d a b n s
  | .atomXchgB32 d a b n => Sys2Proof.Machine.execAtomXchgB32 d a b n s
  | .atomXchgB64 d a b n => Sys2Proof.Machine.execAtomXchgB64 d a b n s
  | .atomCasB32 d a b n => Sys2Proof.Machine.execAtomCasB32 d a b n s
  | .atomCasB64 d a b n => Sys2Proof.Machine.execAtomCasB64 d a b n s
  | .atomCasB128 d a b n => Sys2Proof.Machine.execAtomCasB128 d a b n s
  | .atomFaddF32 d a b n => Sys2Proof.Machine.execAtomFaddF32 d a b n s
  | .atomFaddF64 d a b n => Sys2Proof.Machine.execAtomFaddF64 d a b n s
  | .atomFaddF16x2 d a b n => Sys2Proof.Machine.execAtomFaddF16x2 d a b n s
  | .atomFaddBf16x2 d a b n => Sys2Proof.Machine.execAtomFaddBf16x2 d a b n s
  | .atomFminF32 d a b n => Sys2Proof.Machine.execAtomFminF32 d a b n s
  | .atomFmaxF32 d a b n => Sys2Proof.Machine.execAtomFmaxF32 d a b n s
  | .atomFminF64 d a b n => Sys2Proof.Machine.execAtomFminF64 d a b n s
  | .atomFmaxF64 d a b n => Sys2Proof.Machine.execAtomFmaxF64 d a b n s
  | .atomFminF16x2 d a b n => Sys2Proof.Machine.execAtomFminF16x2 d a b n s
  | .atomFmaxF16x2 d a b n => Sys2Proof.Machine.execAtomFmaxF16x2 d a b n s
  | .atomFminBf16x2 d a b n => Sys2Proof.Machine.execAtomFminBf16x2 d a b n s
  | .atomFmaxBf16x2 d a b n => Sys2Proof.Machine.execAtomFmaxBf16x2 d a b n s
  | .aggregatorGroup members => Sys2Proof.Machine.execAggregatorGroup members s
  | .fenceAcq f sx ix r e => Sys2Proof.Machine.execFenceAcq f sx ix r e s
  | .fenceRel f sx ix r e => Sys2Proof.Machine.execFenceRel f sx ix r e s
  | .fenceAcqrel f sx ix r e => Sys2Proof.Machine.execFenceAcqrel f sx ix r e s
  | .fenceSc f sx ix r e => Sys2Proof.Machine.execFenceSc f sx ix r e s
  | .sldN8 d a ix => Sys2Proof.Machine.execSldN8 d a ix s
  | .sldI8 d a ix => Sys2Proof.Machine.execSldI8 d a ix s
  | .sldN16 d a ix => Sys2Proof.Machine.execSldN16 d a ix s
  | .sldI16 d a ix => Sys2Proof.Machine.execSldI16 d a ix s
  | .sldB32 d a ix => Sys2Proof.Machine.execSldB32 d a ix s
  | .sldB64 d a ix => Sys2Proof.Machine.execSldB64 d a ix s
  | .sldB128 d a ix => Sys2Proof.Machine.execSldB128 d a ix s
  | .sstB8 d a ix => Sys2Proof.Machine.execSstB8 d a ix s
  | .sstB16 d a ix => Sys2Proof.Machine.execSstB16 d a ix s
  | .sstB32 d a ix => Sys2Proof.Machine.execSstB32 d a ix s
  | .sstB64 d a ix => Sys2Proof.Machine.execSstB64 d a ix s
  | .sstB128 d a ix => Sys2Proof.Machine.execSstB128 d a ix s
  | .cldN8 d a ix => Sys2Proof.Machine.execCldN8 d a ix s
  | .cldI8 d a ix => Sys2Proof.Machine.execCldI8 d a ix s
  | .cldN16 d a ix => Sys2Proof.Machine.execCldN16 d a ix s
  | .cldI16 d a ix => Sys2Proof.Machine.execCldI16 d a ix s
  | .cldB32 d a ix => Sys2Proof.Machine.execCldB32 d a ix s
  | .cldB64 d a ix => Sys2Proof.Machine.execCldB64 d a ix s
  | .cldB128 d a ix => Sys2Proof.Machine.execCldB128 d a ix s
  | .pldN8 d a ix => Sys2Proof.Machine.execPldN8 d a ix s
  | .pldI8 d a ix => Sys2Proof.Machine.execPldI8 d a ix s
  | .pldN16 d a ix => Sys2Proof.Machine.execPldN16 d a ix s
  | .pldI16 d a ix => Sys2Proof.Machine.execPldI16 d a ix s
  | .pldB32 d a ix => Sys2Proof.Machine.execPldB32 d a ix s
  | .pldB64 d a ix => Sys2Proof.Machine.execPldB64 d a ix s
  | .pldB128 d a ix => Sys2Proof.Machine.execPldB128 d a ix s
  | .pstB8 d a ix => Sys2Proof.Machine.execPstB8 d a ix s
  | .pstB16 d a ix => Sys2Proof.Machine.execPstB16 d a ix s
  | .pstB32 d a ix => Sys2Proof.Machine.execPstB32 d a ix s
  | .pstB64 d a ix => Sys2Proof.Machine.execPstB64 d a ix s
  | .pstB128 d a ix => Sys2Proof.Machine.execPstB128 d a ix s
  | .promotePin d a b => Sys2Proof.Machine.execPromotePin d a b s
  | .promoteCache d a b => Sys2Proof.Machine.execPromoteCache d a b s
  | .demote d a b => Sys2Proof.Machine.execDemote d a b s
  | .pfl2 d a b => Sys2Proof.Machine.execPfl2 d a b s
  | .steeringComplete fib id => Sys2Proof.Machine.execSteeringComplete fib id s
  | .sstSliv d a f => Sys2Proof.Machine.execSstSliv d a f s
  | .sldSliv d a f => Sys2Proof.Machine.execSldSliv d a f s
  | .shdr d a => Sys2Proof.Machine.execShdr d a s
  | .smap d a b => Sys2Proof.Machine.execSmap d a b s
  | .sunmap a => Sys2Proof.Machine.execSunmap a s
  | .swb a => Sys2Proof.Machine.execSwb a s
  | .sinv a => Sys2Proof.Machine.execSinv a s
  | .sfind d a b => Sys2Proof.Machine.execSfind d a b s
  | .sinfo d a => Sys2Proof.Machine.execSinfo d a s
  | .stashFillComplete map line => Sys2Proof.Machine.execStashFillComplete map line s
  | .qinit d q => Sys2Proof.Machine.execQinit d q s
  | .qpush v q => Sys2Proof.Machine.execQpush v q s
  | .qpop v q => Sys2Proof.Machine.execQpop v q s
  | .qhpush v q => Sys2Proof.Machine.execQhpush v q s
  | .qhpop v q => Sys2Proof.Machine.execQhpop v q s
  | .qallow v q => Sys2Proof.Machine.execQallow v q s
  | .reelGet a b k e c => Sys2Proof.Machine.execReelGet a b k e c s
  | .reelPut a b k e c => Sys2Proof.Machine.execReelPut a b k e c s
  | .reelPget a b k e c => Sys2Proof.Machine.execReelPget a b k e c s
  | .reelPput a b k e c => Sys2Proof.Machine.execReelPput a b k e c s
  | .reelExp a b k e c => Sys2Proof.Machine.execReelExp a b k e c s
  | .reelDec a b k e c => Sys2Proof.Machine.execReelDec a b k e c s
  | .reelRget a b k e c => Sys2Proof.Machine.execReelRget a b k e c s
  | .reelRred a b k e c => Sys2Proof.Machine.execReelRred a b k e c s
  | .reelWp a b c => Sys2Proof.Machine.execReelWp a b c s
  | .reelLineComplete sk ch => Sys2Proof.Machine.execReelLineComplete sk ch s
  | .reelDecVerify sk ch => Sys2Proof.Machine.execReelDecVerify sk ch s
  | .mma d a b sx c => Sys2Proof.Machine.execMma d a b sx c s
  | .mmaKnotted d a b k sx c => Sys2Proof.Machine.execMmaKnotted d a b k sx c s
  | .mmz d a b sx c => Sys2Proof.Machine.execMmz d a b sx c s
  | .mmzKnotted d a b k sx c => Sys2Proof.Machine.execMmzKnotted d a b k sx c s
  | .ply d a b sx c => Sys2Proof.Machine.execPly d a b sx c s
  | .plyKnotted d a b k sx c => Sys2Proof.Machine.execPlyKnotted d a b k sx c s
  | .tld d w p c => Sys2Proof.Machine.execTld d w p c s
  | .tldKnotted d k w p c => Sys2Proof.Machine.execTldKnotted d k w p c s
  | .tst a n v => Sys2Proof.Machine.execTst a n v s
  | .tstKnotted a k n v => Sys2Proof.Machine.execTstKnotted a k n v s
  | .tzero d => Sys2Proof.Machine.execTzero d s
  | .tzeroKnotted d k => Sys2Proof.Machine.execTzeroKnotted d k s
  | .tscl d => Sys2Proof.Machine.execTscl d s
  | .tsclKnotted d k => Sys2Proof.Machine.execTsclKnotted d k s
  | .tcvt d a => Sys2Proof.Machine.execTcvt d a s
  | .tcvtKnotted d a k => Sys2Proof.Machine.execTcvtKnotted d a k s
  | .trd t d k sx => Sys2Proof.Machine.execTrd t d k sx s
  | .twr t d k sx => Sys2Proof.Machine.execTwr t d k sx s
  | .tstat t d c => Sys2Proof.Machine.execTstat t d c s
  | .tstatKnotted t d k c => Sys2Proof.Machine.execTstatKnotted t d k c s
  | .tileOpComplete sk => Sys2Proof.Machine.execTileOpComplete sk s
  | .plyBegin launch plane => Sys2Proof.Machine.execPlyBegin launch plane s
  | .plyComplete launch plane => Sys2Proof.Machine.execPlyComplete launch plane s
  | .plyFail launch plane => Sys2Proof.Machine.execPlyFail launch plane s
  | .dload a k => Sys2Proof.Machine.execDload a k s
  | .dnext d p => Sys2Proof.Machine.execDnext d p s
  | .dred a t o => Sys2Proof.Machine.execDred a t o s
  | .dget d t o => Sys2Proof.Machine.execDget d t o s
  | .dend k => Sys2Proof.Machine.execDend k s
  | .dstat d => Sys2Proof.Machine.execDstat d s
  | .barSkein => Sys2Proof.Machine.execBarSkein s
  | .barvSkein a => Sys2Proof.Machine.execBarvSkein a s
  | .barwSkein a => Sys2Proof.Machine.execBarwSkein a s
  | .barClus => Sys2Proof.Machine.execBarClus s
  | .barvClus a => Sys2Proof.Machine.execBarvClus a s
  | .barwClus a => Sys2Proof.Machine.execBarwClus a s
  | .barDie => Sys2Proof.Machine.execBarDie s
  | .barvDie a => Sys2Proof.Machine.execBarvDie a s
  | .barwDie a => Sys2Proof.Machine.execBarwDie a s
  | .barPkg => Sys2Proof.Machine.execBarPkg s
  | .barvPkg a => Sys2Proof.Machine.execBarvPkg a s
  | .barwPkg a => Sys2Proof.Machine.execBarwPkg a s
  | .frontAdd d a b => Sys2Proof.Machine.execFrontAdd d a b s
  | .frontSub d a b => Sys2Proof.Machine.execFrontSub d a b s
  | .frontMul d a b => Sys2Proof.Machine.execFrontMul d a b s
  | .frontAnd d a b => Sys2Proof.Machine.execFrontAnd d a b s
  | .frontOr d a b => Sys2Proof.Machine.execFrontOr d a b s
  | .frontXor d a b => Sys2Proof.Machine.execFrontXor d a b s
  | .frontShl d a b => Sys2Proof.Machine.execFrontShl d a b s
  | .frontShr d a b => Sys2Proof.Machine.execFrontShr d a b s
  | .frontSra d a b => Sys2Proof.Machine.execFrontSra d a b s
  | .frontMin d a b => Sys2Proof.Machine.execFrontMin d a b s
  | .frontMax d a b => Sys2Proof.Machine.execFrontMax d a b s
  | .frontMov d a => Sys2Proof.Machine.execFrontMov d a s
  | .cmps q a c => Sys2Proof.Machine.execCmps q a c s
  | .wtc t a => Sys2Proof.Machine.execWtc t a s
  | .rtc d t => Sys2Proof.Machine.execRtc d t s
  | .dqpush g q a => Sys2Proof.Machine.execDqpush g q a s
  | .movsi d ix => Sys2Proof.Machine.execMovsi d ix s
  | .addsi d ix => Sys2Proof.Machine.execAddsi d ix s
  | .shlor d ix => Sys2Proof.Machine.execShlor d ix s
  | .cmpiEq d q ix => Sys2Proof.Machine.execCmpiEq d q ix s
  | .cmpiLt d q ix => Sys2Proof.Machine.execCmpiLt d q ix s
  | .cmpiLtn d q ix => Sys2Proof.Machine.execCmpiLtn d q ix s
  | .fbra q n o => Sys2Proof.Machine.execFbra q n o s
  | .fcall q n o => Sys2Proof.Machine.execFcall q n o s
  | .fret q n => Sys2Proof.Machine.execFret q n s
  | .fjmpr q n a => Sys2Proof.Machine.execFjmpr q n a s
  | .trap c => Sys2Proof.Machine.execTrap c s
  | .tret => Sys2Proof.Machine.execTret s
  | .rsr d r => Sys2Proof.Machine.execRsr d r s
  | .rsrFront d r => Sys2Proof.Machine.execRsrFront d r s
  | .wsr a r => Sys2Proof.Machine.execWsr a r s
  | .wsrFront a r => Sys2Proof.Machine.execWsrFront a r s
  | .lovt a => Sys2Proof.Machine.execLovt a s
  | .lovtFront a => Sys2Proof.Machine.execLovtFront a s
  | .launch a => Sys2Proof.Machine.execLaunch a s
  | .rdclk d => Sys2Proof.Machine.execRdclk d s
  | .rdclkFront d => Sys2Proof.Machine.execRdclkFront d s
  | .halt => Sys2Proof.Machine.execHalt s
  | .clauseIssue who => Sys2Proof.Machine.execClauseIssue who s
  | .loadComplete c id => Sys2Proof.Machine.execLoadComplete c id s
  | .storePerformed c => Sys2Proof.Machine.execStorePerformed c s
  | .binAged core bin => Sys2Proof.Machine.execBinAged core bin s
  | .strandDraw core => Sys2Proof.Machine.execStrandDraw core s
  | .strandExchange core slot => Sys2Proof.Machine.execStrandExchange core slot s
  | .skeinAdmission sk => Sys2Proof.Machine.execSkeinAdmission sk s
  | .skeinEnd sk => Sys2Proof.Machine.execSkeinEnd sk s
  | .stopRecordPost die => Sys2Proof.Machine.execStopRecordPost die s
  | .stopResume die target => Sys2Proof.Machine.execStopResume die target s
  | .stopResumeAt die target => Sys2Proof.Machine.execStopResumeAt die target s
  | .stopEndTarget die target => Sys2Proof.Machine.execStopEndTarget die target s
  | .stopRelease die target => Sys2Proof.Machine.execStopRelease die target s
  | .stopReadRegister die target => Sys2Proof.Machine.execStopReadRegister die target s
  | .stopWriteRegister die target => Sys2Proof.Machine.execStopWriteRegister die target s
  | .stopCommandRefused die action => Sys2Proof.Machine.execStopCommandRefused die action s
  | .stopCommandDone die => Sys2Proof.Machine.execStopCommandDone die s
  | .watchdogExpiry sk => Sys2Proof.Machine.execWatchdogExpiry sk s
  | .pageWalkComplete die ctx page => Sys2Proof.Machine.execPageWalkComplete die ctx page s
  | .faultPost die => Sys2Proof.Machine.execFaultPost die s
  | .faultResume die tag => Sys2Proof.Machine.execFaultResume die tag s
  | .faultDiscard die tag => Sys2Proof.Machine.execFaultDiscard die tag s
  | .invalidateVaRange die ctx => Sys2Proof.Machine.execInvalidateVaRange die ctx s
  | .invalidateContextTranslations die ctx => Sys2Proof.Machine.execInvalidateContextTranslations die ctx s
  | .invalidateBufferEntries die ctx => Sys2Proof.Machine.execInvalidateBufferEntries die ctx s
  | .invalidateContextAll die ctx => Sys2Proof.Machine.execInvalidateContextAll die ctx s
  | .invalidateAllContexts die => Sys2Proof.Machine.execInvalidateAllContexts die s
  | .invalidateDone die => Sys2Proof.Machine.execInvalidateDone die s
  | .trackingWindow die => Sys2Proof.Machine.execTrackingWindow die s
  | .holderMove region dest => Sys2Proof.Machine.execHolderMove region dest s
  | .packetArrival src dst => Sys2Proof.Machine.execPacketArrival src dst s
  | .packetAck src dst => Sys2Proof.Machine.execPacketAck src dst s
  | .linkReplay src dst => Sys2Proof.Machine.execLinkReplay src dst s
  | .dieRemoval die => Sys2Proof.Machine.execDieRemoval die s
  | .resync => Sys2Proof.Machine.execResync s
  | .fabricFault => Sys2Proof.Machine.execFabricFault s
  | .lotteryDraw => Sys2Proof.Machine.execLotteryDraw s
  | .placement => Sys2Proof.Machine.execPlacement s
  | .blockageExpiry launch => Sys2Proof.Machine.execBlockageExpiry launch s
  | .contextSwitchOut launch grp => Sys2Proof.Machine.execContextSwitchOut launch grp s
  | .contextSwitchIn launch grp => Sys2Proof.Machine.execContextSwitchIn launch grp s
  | .quantumExpiry launch grp => Sys2Proof.Machine.execQuantumExpiry launch grp s
  | .abort queue idx => Sys2Proof.Machine.execAbort queue idx s
  | .abortDone => Sys2Proof.Machine.execAbortDone s
  | .controlProcessorFailover cp => Sys2Proof.Machine.execControlProcessorFailover cp s
  | .widxWrite queue value => Sys2Proof.Machine.execWidxWrite queue value s
  | .queueControlWrite queue off value => Sys2Proof.Machine.execQueueControlWrite queue off value s
  | .lseedWrite value => Sys2Proof.Machine.execLseedWrite value s
  | .bankAccess bank => Sys2Proof.Machine.execBankAccess bank s
  | .refresh pseudo => Sys2Proof.Machine.execRefresh pseudo s
  | .activationAlert bank => Sys2Proof.Machine.execActivationAlert bank s
  | .burstCrcFail sector lane again => Sys2Proof.Machine.execBurstCrcFail sector lane again s
  | .laneRepair channel lane => Sys2Proof.Machine.execLaneRepair channel lane s
  | .patrolScrub sector correctable => Sys2Proof.Machine.execPatrolScrub sector correctable s
  | .unpin stack => Sys2Proof.Machine.execUnpin stack s
  | .idtabWrite half value => Sys2Proof.Machine.execIdtabWrite half value s
  | .idlock value => Sys2Proof.Machine.execIdlock value s
  | .l2UncorrectableError line entry => Sys2Proof.Machine.execL2UncorrectableError line entry s
  | .clusterLeavesService clus => Sys2Proof.Machine.execClusterLeavesService clus s
  | .hostWrite pa data stream => Sys2Proof.Machine.execHostWrite pa data stream s
  | .hostRead pa n stream => Sys2Proof.Machine.execHostRead pa n stream s
  | .msixUnmask fn vec => Sys2Proof.Machine.execMsixUnmask fn vec s
  | .lockInterface tdi stream ctxs queues config => Sys2Proof.Machine.execLockInterface tdi stream ctxs queues config s
  | .tdiError tdi => Sys2Proof.Machine.execTdiError tdi s
  | .keyset slot ctx stream key => Sys2Proof.Machine.execKeyset slot ctx stream key s
  | .keyclr slot => Sys2Proof.Machine.execKeyclr slot s
  | .getMeasurements => Sys2Proof.Machine.execGetMeasurements s
  | .packageReset images => Sys2Proof.Machine.execPackageReset images s
  | .remoteRequest req => Sys2Proof.Machine.execRemoteRequest req s
  | .remoteResponse id resp => Sys2Proof.Machine.execRemoteResponse id resp s
  | .remoteTimeout id => Sys2Proof.Machine.execRemoteTimeout id s
  | .portDown port => Sys2Proof.Machine.execPortDown port s
  | .portUp port => Sys2Proof.Machine.execPortUp port s
  | .repairCore core => Sys2Proof.Machine.execRepairCore core s
  | .repairDie die => Sys2Proof.Machine.execRepairDie die s
  | .repairUcieLane group => Sys2Proof.Machine.execRepairUcieLane group s
  | .repairKrytistLane port => Sys2Proof.Machine.execRepairKrytistLane port s
  | .returnToService kind unit => Sys2Proof.Machine.execReturnToService kind unit s
  | .repairDone => Sys2Proof.Machine.execRepairDone s
  | .wearUpdate die wear days => Sys2Proof.Machine.execWearUpdate die wear days s
  | .fatalError cause => Sys2Proof.Machine.execFatalError cause s
  | .registerWrite pa value => Sys2Proof.Machine.execRegisterWrite pa value s
  | .instructionCacheFill clus line => Sys2Proof.Machine.execInstructionCacheFill clus line s
  | .refreshOwed pseudo => Sys2Proof.Machine.execRefreshOwed pseudo s
  | .tdiEntersRun tdi => Sys2Proof.Machine.execTdiEntersRun tdi s

end Sys2Proof.Machine
end

