-- ==== Sys2Proof/Machine/Step.lean ====
section
/-! DEFINITION. One step of the package: time passes, and one agent moves (00 R5, 06 R160-R162). -/

namespace Sys2Proof.Machine

open Sys2Proof

/-- Time passes before the next turn is chosen (01 R17; log 3). -/
def ticked (s : State) : State :=
  applyAll [.rest { s with fresh := s.fresh + 1 }, .tick (Config.cycles s.fresh)] s

/-- The package does a turn. -/
noncomputable def perform (t : Turn) (s : State) : Host.Outcome State Fault Refusal :=
  let u := turnTaken t s
  match t with
  | .event i => exec i u
  | .again n =>
    match s.waiting[n]? with
    | some w => exec w.request u
    | none => .next u
  | .issue w =>
    match takeWord w u with
    | .exec i v => exec i v
    | .done v => .next v
    | .nothing => .next u

/-- One step: time passes, then the next turn is taken. A package that a fatal error stopped issues nothing
until a package reset (16 R398). -/
noncomputable def step (s : State) : Host.Outcome State Fault Refusal :=
  let u := ticked s
  match nextTurn u with
  | none => .next u
  | some t => if s.stopped && !turnWhenStopped t then .fault .packageStopped else perform t u

/-- The state with an instruction placed where the next step takes it (log 20). -/
noncomputable def State.withFetchWord (s : State) (nbits w : Nat) : State :=
  if nbits = 32 then s.withSkein (readsAsFront w) (BitVec.ofNat 32 w) else s

end Sys2Proof.Machine
end

