-- ==== Sys2Proof/Safety.lean ====
section
/-! DEFINITION. What counts as a safe run: the package goes on, no fatal error has stopped it, and the
parts of the state that software relies on stay in the form that the spec gives them. -/

namespace Sys2Proof.Safety

open Sys2Proof Machine

/-- The outcome is a next state. -/
def goesOn (o : Host.Outcome State Fault Refusal) : Bool :=
  match o with
  | .next _ => true
  | .fault _ => false
  | .refused _ => false

/-- Memory is in canonical form (log 1). -/
def memoryWf (s : State) : Bool := Memory.wf s.wiped s.mem

/-- Every fibre's p0 reads 1 and the reserved bits of its sr.fpc read 0 (01 R10 R19). -/
def fibresWf (s : State) : Bool :=
  s.fibres.all (fun e => e.2.p.getLsbD 0 && (e.2.fpc &&& ~~~ 0x001F0F1F#32) == 0)

/-- Every front context's q0 reads 1 and the reserved bits of its skein's sr.ctl read 0 (01 R20,
06 R157). -/
def skeinsWf (s : State) : Bool :=
  s.skeins.all (fun e => e.2.front.q.getLsbD 0 && (e.2.ctl &&& ~~~ 0x000001FF3FFFFFFF#64) == 0)

/-- The tables of fibres, strands, skeins, launches, pool allocations and banks list each key once, in rising
order. -/
def tablesWf (s : State) : Bool :=
  tableWf s.fibres && tableWf s.strands && tableWf s.skeins && tableWf s.launches && tableWf s.pools && tableWf s.banks

/-- The form of the state that every step keeps. -/
def Inv (s : State) : Bool := memoryWf s && fibresWf s && skeinsWf s && tablesWf s

/-- A step is safe when it answers a next state that keeps the form. -/
def safeStep (o : Host.Outcome State Fault Refusal) : Bool :=
  match o with
  | .next s => Inv s
  | .fault _ => false
  | .refused _ => false

/-! ### What a fibre word finds and leaves -/

/-- The register operands of a word lie below G and are aligned (01 R11). -/
def Fits (rg : Regs) (g : Nat) : Prop := ∀ o ∈ rg.src ++ rg.dst, o.r + o.n ≤ g ∧ o.r % o.al = 0

/-- No load of an active lane has still to write a source register (03 R73, 05 R149). -/
def SourcesReady (rg : Regs) (ls : List Lane) : Prop :=
  ∀ l ∈ ls, l.on = true → ∀ y ∈ l.f.loads, y.blocks rg = false

/-- Strand `n`, as `x`, issues the word being executed. -/
def Issues (s : State) (n : Nat) (x : Strand) : Prop :=
  s.cur.who = some (.strand n) ∧ tget s.strands n = some x ∧ s.lanes x ≠ []

/-- Strand `n` issues a word whose registers are legal and whose sources are there. -/
def Ready (s : State) (n : Nat) (x : Strand) (rg : Regs) : Prop :=
  Issues s n x ∧ (∀ l ∈ s.lanes x, Fits rg l.x.lr.regs) ∧ SourcesReady rg (s.lanes x)

/-- A lane after a word that computes `g` in its active lanes (02 R53). -/
def laneAfter (rg : Regs) (g : Lane → Fibre) (l : Lane) : Fibre :=
  match l.act with
  | .active => g l
  | .zero => rg.zeroed l.f
  | .merge => l.f

/-- The place behind the word being executed. -/
def placeAfter (s : State) (x : Strand) : Pos := nextPos x.pos x.clause (wordBytes s)

/-- A strand that has retired its word. -/
def strandAfter (s : State) (x : Strand) : Strand :=
  { x with
    pos := placeAfter s x
    since := s.time
    missed := false
    waits := false
    yields := (placeAfter s x).pc == (placeAfter s x).hdr && x.asksYield
    clause := if (placeAfter s x).pc == (placeAfter s x).hdr then none else x.clause }

/-- A fibre of the skein is in the strand. -/
def inStrand (s : State) (x : Strand) (j : Nat) : Bool := (s.lanes x).any (fun l => l.f.sk == j)

/-- The watchdogs of the strand's skeins are 0 and the skeins are otherwise as `g` leaves them. -/
def SkeinsAfter (s t : State) (x : Strand) (g : Nat → Skein → Skein) : Prop :=
  ∀ j, tget t.skeins j = (tget s.skeins j).map (fun y =>
    if inStrand s x j then { g j y with dog := 0 } else y)

/-- A state with other fibres, strands and skeins. -/
def withWorkers (s : State) (f : Table Fibre) (n : Table Strand) (k : Table Skein) : State :=
  { s with
    fibres := f
    strands := n
    skeins := k }

/-- Two states that differ in fibres, strands and skeins alone. -/
def OnlyWorkers (s t : State) : Prop := t = withWorkers s t.fibres t.strands t.skeins

/-- Every lane of strand `n` retires the word, as `after` says, and the strand is then `y`; every other fibre,
strand, skein, register of the package and byte of memory is unchanged. -/
def RetiresAs (s t : State) (n : Nat) (x y : Strand) (after : Lane → Fibre) : Prop :=
  OnlyWorkers s t ∧
  (∀ l ∈ s.lanes x, tget t.fibres l.k = some { after l with pos := placeAfter s x }) ∧
  (∀ k, k ∉ x.fibs → tget t.fibres k = tget s.fibres k) ∧
  (∀ m, tget t.strands m = if m = n then some y else tget s.strands m) ∧
  SkeinsAfter s t x (fun _ y => y)

/-- Every lane of strand `n` retires the word, as `after` says. -/
def Retires (s t : State) (n : Nat) (x : Strand) (after : Lane → Fibre) : Prop :=
  RetiresAs s t n x (strandAfter s x) after

/-- A word that computes in each lane alone: where its operands are legal and there, and no lane traps,
it retires, each active lane as `g` says. -/
def Computes (i : Instr) (rg : State → Regs) (ok : State → Lane → Prop) (g : State → Lane → Fibre) :
    Prop :=
  ∀ s n x, Inv s = true → Ready s n x (rg s) → (∀ l ∈ s.lanes x, l.on = true → ok s l) →
    ∃ t, exec i s = .next t ∧ Retires s t n x (laneAfter (rg s) (g s))

/-- Any lane. -/
def always : State → Lane → Prop := fun _ _ => True

/-- A row of a table of words on 32-bit registers: the value of vd is the integer of the row, taken
modulo 2^32, from the unsigned values of the sources (03 R76). -/
def Row3 (d a b : BitVec 7) (i : Instr) (f : Nat → Nat → Int) : Prop :=
  Computes i (fun _ => { src := [one a, one b], dst := [one d] }) always (fun _ l =>
    l.f.set d.toNat (BitVec.ofInt 32 (f (l.f.reg a.toNat).toNat (l.f.reg b.toNat).toNat)))

/-- A row with one source. -/
def Row2 (d a : BitVec 7) (i : Instr) (f : Nat → Int) : Prop :=
  Computes i (fun _ => { src := [one a], dst := [one d] }) always (fun _ l =>
    l.f.set d.toNat (BitVec.ofInt 32 (f (l.f.reg a.toNat).toNat)))

/-- A row with a fourth operand, which is vd or the vc of the prefix (03 R74). -/
def Row4 (d a b : BitVec 7) (i : Instr) (f : Nat → Nat → Nat → Int) : Prop :=
  Computes i (fun s => { src := [one a, one b, one (s.fourth d.toNat)], dst := [one d] }) always
    (fun s l => l.f.set d.toNat (BitVec.ofInt 32 (f (l.f.reg a.toNat).toNat (l.f.reg b.toNat).toNat
      (l.f.reg (s.fourth d.toNat).toNat).toNat)))

/-- A row of a table of words on pairs, modulo 2^64 (03 R78). -/
def Pair3 (d a b : BitVec 7) (i : Instr) (f : Nat → Nat → Int) : Prop :=
  Computes i (fun _ => { src := [two a, two b], dst := [two d] }) always (fun _ l =>
    l.f.setPair d.toNat (BitVec.ofInt 64 (f (l.f.pair a.toNat).toNat (l.f.pair b.toNat).toNat)))

/-- A row whose second source is one register. -/
def Pair2w (d a b : BitVec 7) (i : Instr) (f : Nat → Nat → Int) : Prop :=
  Computes i (fun _ => { src := [two a, one b], dst := [two d] }) always (fun _ l =>
    l.f.setPair d.toNat (BitVec.ofInt 64 (f (l.f.pair a.toNat).toNat (l.f.reg b.toNat).toNat)))

/-- A row with one pair. -/
def Pair2 (d a : BitVec 7) (i : Instr) (f : Nat → Int) : Prop :=
  Computes i (fun _ => { src := [two a], dst := [two d] }) always (fun _ l =>
    l.f.setPair d.toNat (BitVec.ofInt 64 (f (l.f.pair a.toNat).toNat)))

/-- A row that multiplies two registers into a pair. -/
def Widen (d a b : BitVec 7) (i : Instr) (f : Nat → Nat → Int) : Prop :=
  Computes i (fun _ => { src := [one a, one b], dst := [two d] }) always (fun _ l =>
    l.f.setPair d.toNat (BitVec.ofInt 64 (f (l.f.reg a.toNat).toNat (l.f.reg b.toNat).toNat)))

/-- A compare of two registers; a write to p0 is ignored (03 R79). -/
def Cmp32 (p : BitVec 3) (a b : BitVec 7) (i : Instr) (f : Nat → Nat → Bool) : Prop :=
  Computes i (fun _ => { src := [one a, one b], pdst := [p.toNat] }) always (fun _ l =>
    l.f.setPred p.toNat (f (l.f.reg a.toNat).toNat (l.f.reg b.toNat).toNat))

/-- A compare of two pairs. -/
def Cmp64 (p : BitVec 3) (a b : BitVec 7) (i : Instr) (f : Nat → Nat → Bool) : Prop :=
  Computes i (fun _ => { src := [two a, two b], pdst := [p.toNat] }) always (fun _ l =>
    l.f.setPred p.toNat (f (l.f.pair a.toNat).toNat (l.f.pair b.toNat).toNat))

/-- A floating word: its result `r` in each active lane, of `n` registers, is written with the sticky
flags, where no enabled condition is raised (01 R34 R35). -/
def FloatRow (i : Instr) (rg : State → Regs) (d n : Nat) (r : State → Lane → FRes) : Prop :=
  Computes i rg (fun s l => (r s l).cond.raised l.f.fpc = 0) (fun s l =>
    { l.f.setVal d n (r s l).bits with fpc := (r s l).cond.sticky l.f.fpc })

/-- A floating word of two sources of a format (03 R84). -/
def Float2 (t : Fmt) (d a b : BitVec 7) (i : Instr) (op : FMode → Nat → Nat → FRes) : Prop :=
  let n := (fOpd t d).n
  FloatRow i (fun _ => { src := [fOpd t a, fOpd t b], dst := [fOpd t d] }) d.toNat n (fun s l =>
    let md := s.mode l.f
    op md (t.flushIn md.fzi (l.f.val a.toNat n)) (t.flushIn md.fzi (l.f.val b.toNat n)))

/-- A floating word of one source of a format. -/
def Float1 (t : Fmt) (d a : BitVec 7) (i : Instr) (op : FMode → Nat → FRes) : Prop :=
  let n := (fOpd t d).n
  FloatRow i (fun _ => { src := [fOpd t a], dst := [fOpd t d] }) d.toNat n (fun s l =>
    let md := s.mode l.f
    op md (t.flushIn md.fzi (l.f.val a.toNat n)))

/-- A fused multiply and add: the addend is vd, or the vc of the prefix (03 R74). -/
def Float3 (t : Fmt) (d a b : BitVec 7) (i : Instr) : Prop :=
  let n := (fOpd t d).n
  FloatRow i (fun s => { src := [fOpd t a, fOpd t b, fOpd t (s.fourth d.toNat)], dst := [fOpd t d] })
    d.toNat n (fun s l =>
      let md := s.mode l.f
      let v := fun (r : BitVec 7) => FV.of t (t.flushIn md.fzi (l.f.val r.toNat n))
      fFma t md (v a) (v b) (v (s.fourth d.toNat)))

/-- A packed word of two elements of a 16-bit format (03 R84 R86). -/
def Packed2 (t : Fmt) (d a b : BitVec 7) (i : Instr) (op : FMode → Nat → Nat → FRes) : Prop :=
  FloatRow i (fun _ => { src := [one a, one b], dst := [one d] }) d.toNat 1 (fun s l =>
    let md := s.mode l.f
    let el := fun (r : BitVec 7) j => t.flushIn md.fzi ((l.f.reg r.toNat).toNat / 2 ^ (16 * j) % 2 ^ 16)
    let lo := op md (el a 0) (el b 0)
    let hi := op md (el a 1) (el b 1)
    { bits := lo.bits + hi.bits * 2 ^ 16, cond := lo.cond.merge hi.cond })

/-- The packed fused multiply and add. -/
def Packed3 (t : Fmt) (d a b : BitVec 7) (i : Instr) : Prop :=
  FloatRow i (fun s => { src := [one a, one b, one (s.fourth d.toNat)], dst := [one d] }) d.toNat 1
    (fun s l =>
      let md := s.mode l.f
      let el := fun (r : BitVec 7) j =>
        FV.of t (t.flushIn md.fzi ((l.f.reg r.toNat).toNat / 2 ^ (16 * j) % 2 ^ 16))
      let lo := fFma t md (el a 0) (el b 0) (el (s.fourth d.toNat) 0)
      let hi := fFma t md (el a 1) (el b 1) (el (s.fourth d.toNat) 1)
      { bits := lo.bits + hi.bits * 2 ^ 16, cond := lo.cond.merge hi.cond })

/-- A floating dot product of `n` elements; the accumulator is vd (03 R90). -/
def DotRow (t : Fmt) (n : Nat) (d a b : BitVec 7) (i : Instr) : Prop :=
  FloatRow i (fun _ => { src := [one a, one b, one d], dst := [one d] }) d.toNat 1 (fun s l =>
    let md := s.mode l.f
    let el := fun (r : BitVec 7) j => FV.of t (t.flushIn (md.fzi && t.flushes)
      ((l.f.reg r.toNat).toNat / 2 ^ (32 / n * j) % 2 ^ t.width))
    dotSum md (inVal .f32 md (l.f.reg d.toNat).toNat) ((List.range n).map (fun j => (el a j, el b j))))

/-- The word takes a trap with all its effect (04 R121); what that is, the trap's own statements say. -/
def TakesTrap (i : Instr) (s : State) (t : Trap) : Prop := exec i s = commit s (trapWord t)

/-- The bits of a number of `n` bits, the highest first. -/
def bitsDown (n x : Nat) : List Bool := (List.range n).map (fun i => x.testBit (n - 1 - i))

/-- The leading zero bits of a number of `n` bits. -/
def zerosAhead (n x : Nat) : Nat := ((bitsDown n x).takeWhile (fun b => !b)).length

/-- The one bits of a number of `n` bits. -/
def onesIn (n x : Nat) : Nat := ((bitsDown n x).filter (fun b => b)).length

/-- The number with bit `i` of `x` at bit 31 - i. -/
def mirrored (x : Nat) : Nat :=
  ((List.range 32).map (fun i => if x.testBit i then 2 ^ (31 - i) else 0)).sum

/-- pos of a bit-field word (03 R76). -/
def posOf (y : Nat) : Nat := y % 32

/-- w of a bit-field word: bits [13:8], cut at bit 31 (03 R76). -/
def widthOf (y : Nat) : Nat := min (y / 256 % 64) (32 - posOf y)

/-! ### Traps -/

/-- The card bins of every lane's core have room for the whole strand, so that none is forced (06 R158). -/
def BinsHaveRoom (s : State) (x : Strand) : Prop :=
  ∀ l ∈ s.lanes x, (s.core l.x.core).bins.length + (s.lanes x).length ≤ 32

/-- A trap enters the handler of a lane (04 R121 R124). -/
def goesToHandler (t : Trap) (l : Lane) : Bool :=
  bitOf l.x.ctl.toNat (16 + t.cause.code / 16) && !t.cause.software && !l.f.h && l.x.lr.tentry != 0

/-- How many entries of a decision queue, which begins at `base` and has `len` of them, the cursor of every live
fibre of the skein has passed (06 R163). -/
def passedBy (s : State) (k base len : Nat) : Nat :=
  ((List.range len).filter (fun i =>
    s.fibres.all (fun e => e.2.sk != k || decide (base + i < e.2.cursor)))).length

/-- The fibre is filed in a bin of its core, of its launch and its PC (06 R158). -/
def FiledIn (t : State) (l : Lane) (pc : VAddr) : Prop :=
  ∃ b ∈ (t.core l.x.core).bins, b.launch = l.x.launch ∧ b.pc = pc ∧ ∃ at_, (l.k, at_) ∈ b.fibs

/-- Every lane of strand `n` takes the trap into its handler: the trap record is written, `resume` and H
are set, the fibre is filed at the handler's address, and nothing else changes (04 R121). -/
def EntersHandler (s u : State) (n : Nat) (x : Strand) (t : Trap) : Prop :=
  u = { withWorkers s u.fibres u.strands s.skeins with cores := u.cores } ∧
  (∀ l ∈ s.lanes x,
    tget u.fibres l.k = some { l.f with
      tr := t.record x.pos.pc s.cur.word s.cur.pfx l.f.dtag.toNat
      resume := x.pos.hdr
      rjump := l.f.pos.jumped
      h := true
      pos := posTo (BitVec.ofNat 51 l.x.lr.tentry)
      clause := none
      run := .filed } ∧
    FiledIn u l (BitVec.ofNat 51 l.x.lr.tentry)) ∧
  (∀ k, k ∉ x.fibs → tget u.fibres k = tget s.fibres k) ∧
  (∀ m, tget u.strands m = if m = n then none else tget s.strands m)

/-- Every lane of strand `n` stops for system software with its trap record, H unchanged, and a stop record
waits to be posted on the lane's die (04 R121 R126). -/
def StopsForSoftware (s u : State) (n : Nat) (x : Strand) (t : Trap) : Prop :=
  u = { withWorkers s u.fibres u.strands s.skeins with dies := u.dies } ∧
  (∀ l ∈ s.lanes x,
    let tr := t.record x.pos.pc s.cur.word s.cur.pfx l.f.dtag.toNat
    tget u.fibres l.k = some { l.f with
      tr := tr
      resume := x.pos.hdr
      pos := { x.pos with jumped := l.f.pos.jumped }
      clause := none
      run := .stopped none } ∧
    stopRecord l.x 0 l.f.idx.toNat l.f.lane.toNat tr ∈ (u.die (l.x.core / 64)).stops) ∧
  (∀ k, k ∉ x.fibs → tget u.fibres k = tget s.fibres k) ∧
  (∀ m, tget u.strands m = if m = n then none else tget s.strands m)

/-- The front context of a skein stops for system software with its trap record (04 R121). -/
def FrontStops (s u : State) (k : Nat) (x : Skein) (t : Trap) : Prop :=
  let tr := { t with mask := 0 }.record x.front.pos.pc s.cur.word none 0
  u = { withWorkers s s.fibres s.strands u.skeins with dies := u.dies } ∧
  (∀ j, tget u.skeins j = if j = k then some { x with front := { x.front with
      tr := tr
      resume := x.front.pos.hdr
      run := .stopped none
      clause := none } } else tget s.skeins j) ∧
  stopRecord x 1 0 0 tr ∈ (u.die (x.core / 64)).stops

/-! ### Control transfers of a fibre -/

/-- A strand goes on as one at `a`, its lanes as `after` says (04 R98). -/
def Moves (s t : State) (n : Nat) (x : Strand) (after : Lane → Fibre) (a : VAddr) : Prop :=
  OnlyWorkers s t ∧
  (∀ l ∈ s.lanes x, tget t.fibres l.k = some (after l)) ∧
  (∀ k, k ∉ x.fibs → tget t.fibres k = tget s.fibres k) ∧
  (∀ m, tget t.strands m = if m = n then
    some { x with
      pos := posAt a
      clause := none
      since := s.time
      missed := false
      waits := false
      yields := x.asksYield }
    else tget s.strands m) ∧
  SkeinsAfter s t x (fun _ y => y)

/-- The lanes of a strand are filed, each where `after` places it: a reform point (04 R98, 06 R158). -/
def Refiles (s t : State) (n : Nat) (x : Strand) (after : Lane → Fibre) : Prop :=
  t = { withWorkers s t.fibres t.strands t.skeins with cores := t.cores } ∧
  (∀ l ∈ s.lanes x, tget t.fibres l.k = some { after l with run := .filed } ∧
    FiledIn t l (after l).pos.pc) ∧
  (∀ k, k ∉ x.fibs → tget t.fibres k = tget s.fibres k) ∧
  (∀ m, m ≠ n → tget t.strands m = tget s.strands m) ∧
  (∀ y, tget t.strands n = some y → ∀ l ∈ s.lanes x, l.k ∉ y.fibs) ∧
  SkeinsAfter s t x (fun _ y => y)

/-- The address behind the clause of the issuing strand (04 R99). -/
def fallOf (s : State) (x : Strand) : VAddr := x.fall (wordBytes s)

/-- A direct target: the clause header plus four times the signed offset (02 R49). -/
def targetOf {w : Nat} (x : Strand) (o : BitVec w) : VAddr := x.pos.hdr + BitVec.ofInt 51 (4 * o.toInt)

/-- The guard of a branch in a lane (04 R101). -/
def taken (p : BitVec 3) (n : BitVec 1) (l : Lane) : Bool := l.f.pred p.toNat != (n == 1#1)

/-! ### Words of a front context -/

/-- The front context of skein `k`, as `x`, issues the word being executed, without a prefix and with no
load outstanding (06 R162). -/
def FrontReady (s : State) (k : Nat) (x : Skein) : Prop :=
  s.cur.who = some (.front k) ∧ s.cur.pfx = none ∧ tget s.skeins k = some x ∧ x.front.loads = []

/-- The place behind the front context's word. -/
def frontPlace (s : State) (x : Skein) : Pos := nextPos x.front.pos x.front.clause (wordBytes s)

/-- A front context that has retired its word. -/
def frontAfter (s : State) (x : Skein) (f : Front) : Front :=
  { f with
    pos := frontPlace s x
    clause := if (frontPlace s x).pc == (frontPlace s x).hdr then none else x.front.clause }

/-- Skein `k` is as `y` and every other one, every fibre, strand, register of the package and byte of memory is
unchanged. -/
def OnlySkein (s t : State) (k : Nat) (y : Skein) : Prop :=
  t = withWorkers s s.fibres s.strands t.skeins ∧
  ∀ j, tget t.skeins j = if j = k then some y else tget s.skeins j

/-- A word that changes the front context alone and retires. -/
def FrontComputes (i : Instr) (g : State → Skein → Front) : Prop :=
  ∀ s k x, Inv s = true → FrontReady s k x →
    ∃ t, exec i s = .next t ∧ OnlySkein s t k { x with dog := 0, front := frontAfter s x (g s x) }

/-- A word that sends the front context to a place. -/
def FrontGoes (i : Instr) (s : State) (k : Nat) (x : Skein) (f : Front) (a : Pos) : Prop :=
  ∃ t, exec i s = .next t ∧
    OnlySkein s t k { x with dog := 0, front := { f with pos := a, clause := none } }

/-- The address behind the clause of a front context. -/
def frontFall (x : Skein) : VAddr := x.front.fall

/-- A row of the table of scalar words of a front context: the integer of the row, taken modulo 2^64
(08 R206). -/
def FrontRow (d a b : BitVec 6) (i : Instr) (f : Nat → Nat → Int) : Prop :=
  FrontComputes i (fun _ x => x.front.set d.toNat
    (BitVec.ofInt 64 (f (x.front.reg a.toNat).toNat (x.front.reg b.toNat).toNat)))

/-- A word that writes predicate q`i` of the front context; a write to q0 is ignored. -/
def FrontTest (i : Instr) (q : BitVec 3) (f : Skein → Bool) : Prop :=
  FrontComputes i (fun _ x => x.front.setPred q.toNat (f x))

/-- A fibre as `exit.relay` leaves it: the kept registers, every other register, predicate, mask and
sr.dtag cleared, its outstanding loads abandoned (04 R109). -/
def Relayed (f g : Fibre) (keep : BitVec 128) : Prop :=
  (∀ r, g.reg r = if keep.getLsbD r then f.reg r else 0) ∧
  g = { f with
    v := g.v
    p := 1
    m := []
    dtag := 0
    loads := f.loads.map (fun y => { y with abandoned := true })
    pos := g.pos
    run := .filed }

/-! ### Words that access memory -/

/-- What reads and writes of memory leave in the L2s, the banks and the tracking records, with the counter of the
part's choices: nothing that the bytes of memory or a register of a context shows (12 R298 R302, 14 R337 R351). -/
def traced (s t : State) : State :=
  { s with
    l2 := t.l2
    dups := t.dups
    shadows := t.shadows
    regions := t.regions
    banks := t.banks
    poison := t.poison
    flown := t.flown
    fresh := t.fresh }

/-- The core holds a buffer-table entry, or its read from memory recalls no stash line (12 R305 R308). -/
def EntryAtHand (s : State) (core ctx index : Nat) : Prop :=
  (∃ c ∈ (s.core core).bufs, c.ctx = ctx ∧ c.index = index) ∨
    ∀ b, s.bufTable (core / 64) ctx = some b → ∀ e ∈ linePieces (b + 64 * index) 64, s.reach e.1 e.2 ≠ .recall

/-- What the checks of a memory word leave behind: a core holds the buffer-table entries that it used and a
die the base of a buffer table, walks and fills that have ended may be gone, and the reads leave their traces
(12 R308 R309, 15 R363). -/
def ChecksLeave (s t : State) (key : Nat) : Prop :=
  t = { traced (withWorkers s t.fibres t.strands t.skeins) t with
    cores := t.cores
    dies := t.dies
    fills := t.fills
    nextKey := s.nextKey + key } ∧
  (∀ c, t.core c = { s.core c with bufs := (t.core c).bufs }) ∧
  ∀ d, t.die d = { s.die d with
    tables := (t.die d).tables
    walks := (t.die d).walks
    c := (t.die d).c }

/-- Every lane of strand `n` retires a memory word, as `after` says; memory is unchanged, since its stores
wait in their queues. -/
def RetiresChecked (s t : State) (n : Nat) (x : Strand) (key : Nat) (after : Lane → Fibre) : Prop :=
  ChecksLeave s t key ∧
  (∀ l ∈ s.lanes x, tget t.fibres l.k = some { after l with pos := placeAfter s x }) ∧
  (∀ k, k ∉ x.fibs → tget t.fibres k = tget s.fibres k) ∧
  (∀ m, tget t.strands m = if m = n then some (strandAfter s x) else tget s.strands m) ∧
  SkeinsAfter s t x (fun _ y => y)

/-- A memory word: where its registers are legal and there, no lane waits for remote data, and each active
lane has `room` on its counters and passes its checks with `v`, the word issues its access and retires, its lanes
as `after` says. -/
def AccessesAs {α : Type} (i : Instr) (rg : Regs) (key : Nat) (room : Lane → Prop)
    (need : State → Nat → Lane → α → Prop) (after : State → Strand → (Lane → α) → Lane → Fibre) : Prop :=
  ∀ s n x (v : Lane → α), Inv s = true → Ready s n x rg → (∀ l ∈ s.lanes x, l.f.awaited = none) →
    (∀ l ∈ s.lanes x, l.on = true → room l ∧ need s n l (v l)) →
    ∃ t, exec i s = .next t ∧ RetiresChecked s t n x key (after s x v)

/-- A memory word that issues its access in each active lane, as `g` says. -/
def Accesses {α : Type} (i : Instr) (rg : Regs) (key : Nat) (room : Lane → Prop)
    (need : State → Nat → Lane → α → Prop) (g : State → Strand → (Lane → α) → Lane → Fibre) : Prop :=
  AccessesAs i rg key room need (fun s x v => laneAfter rg (g s x v))

/-- sr.spass of a fibre of the strand after a stash word of `k` bytes: the passes that the active lanes need
together (07 R179). -/
def withPasses (s : State) (x : Strand) (k : Nat) (v : Lane → Nat) (f : Fibre) : Fibre :=
  let acc := ((s.lanes x).filter (fun l => l.on)).map (fun l => (l.f.lane.toNat, l.f.sk, v l))
  { f with spass := f.spass + BitVec.ofNat 32 (passesOf k acc) }

/-- A stash word that accesses `k` bytes in each active lane: as `Accesses`, with the passes of the strand in every
lane (07 R179). -/
def StashRow (i : Instr) (rg : Regs) (key k : Nat) (room : Lane → Prop) (need : State → Lane → Nat → Prop)
    (g : State → Strand → (Lane → Nat) → Lane → Fibre) : Prop :=
  AccessesAs i rg key room (fun s _ l o => need s l o) (fun s x v l =>
    withPasses s x k v (laneAfter rg (g s x v) l))

/-- One more load may issue (05 R146). -/
def loadRoom (l : Lane) : Prop := l.f.ld < 15

/-- One more store may issue (05 R146). -/
def storeRoom (l : Lane) : Prop := l.f.st < 15

/-- A fibre with one more outstanding load, which will write the registers at `d` (05 R137 R146). -/
def withLoad (s : State) (x : Strand) (f : Fibre) (img : Img) (d : BitVec 7) (src : LoadSrc) : Fibre :=
  { f with
    loads := killLoads d.toNat img.regs f.loads ++
      [{ id := f.nextId, img := img, dst := d.toNat, n := img.regs, src := src, pc := x.pos.pc,
         word := s.cur.word, pfx := s.cur.pfx }]
    nextId := f.nextId + 1 }

/-- A fibre with one more store in its queue: the low `k` bytes of the registers at `d` (05 R145). -/
def withStore (s : State) (f : Fibre) (d : BitVec 7) (k : Nat) (kind : StoreKind) : Fibre :=
  { f with
    stores := f.stores ++ [{ id := f.nextId, group := s.nextKey, kind := kind,
                             data := bytesOf (f.val d.toNat ((k + 3) / 4)) k }]
    nextId := f.nextId + 1 }

/-- The registers of a load. -/
def loadRegs (img : Img) (d a : BitVec 7) : Regs := { src := [one a], dst := [img.opd d] }

/-- The registers of a store of `k` bytes. -/
def storeRegs (k : Nat) (d a : BitVec 7) : Regs :=
  { src := [one a, { r := d.toNat, n := (k + 3) / 4, al := (k + 3) / 4 }] }

/-- The result of the checks for the access that the word makes, in the order of 05 R131; races are not
logged, so that a race would have trapped (15 R374), and the entry of its binding is at hand. -/
def passes (s : State) (q : Ask) (a : Access) : Prop :=
  s.checkAccess q = .ok a ∧ s.rlog.en = false ∧ ∀ k, q.lr.binding q.b = some k → EntryAtHand s q.core q.lr.ctx k

/-- The offset of a word with an immediate that its size scales is `o`, aligned to `k` bytes and in a
space of `size` bytes (07 R176 R177 R197, 11 R277 R278). -/
def offsetFits {w : Nat} (s : State) (l : Lane) (a : BitVec 7) (i : BitVec w) (k size o : Nat) : Prop :=
  (o : Int) = (l.f.reg a.toNat).toNat + i.toNat * k + s.prefixOffset ∧ o % k = 0 ∧ o + k ≤ size

/-- A stash access of `k` bytes at `o` is one that its windows allow, with its lines filled and its bytes
registered (07 R177 R183-R185). -/
def stashOpen (s : State) (l : Lane) (o k : Nat) (write : Bool) : Prop :=
  s.mapDetail l.f.sk o k write = 0 ∧ s.fillNeeds l.f.sk o k write = []

/-- A fibre with one more atomic in its queue and, unless `nr`, the load that returns the old value
(05 R141 R142). -/
def withAtomic (s : State) (x : Strand) (f : Fibre) (op : Nat) (d : BitVec 7) (nr : Bool) (a : Access) :
    Fibre :=
  let m := atomForm op
  let kind : StoreKind :=
    .atom a op a.scope (m.cmp f d.toNat) (if nr then none else some (f.nextId + 1))
  let g : Fibre := { f with
    stores := f.stores ++ [{ id := f.nextId, group := s.nextKey, kind := kind,
                             data := bytesOf (m.data f d.toNat) m.n }]
    nextId := f.nextId + 1 }
  if nr then g else withLoad s x g m.img d (.atomic a)

/-- The interval counters after a release at a scope: those of the scope and of every narrower one are
raised by 1 (15 R374). -/
def Raised (rel : Bool) (scope : Nat) (a b : Table DWord) : Prop :=
  ∀ i, tgetD b i 0 = if rel && i ≤ scope then tgetD a i 0 + 1 else tgetD a i 0

/-- What a fence of a core does once it holds: it drops the L1 copies, the shape records and the code that
its flags name (05 R144, 02 R47). -/
def FenceEffects (s t : State) (core scope : Nat) (acq ins rec_ : Bool) : Prop :=
  t = { withWorkers s t.fibres t.strands t.skeins with
    cores := t.cores
    icache := t.icache } ∧
  (∀ c, t.core c = if c = core then { s.core c with
      l1 := (if acq && 1 ≤ scope then [] else (s.core c).l1)
      shapes := (if rec_ then [] else (s.core c).shapes) } else s.core c) ∧
  ∀ c, tgetD t.icache c [] = if ins && (clustersIn core scope).contains c then [] else tgetD s.icache c []

/-- No walk or fill has ended with something to tell an agent. -/
def Quiet (s : State) : Prop := s.fills = [] ∧ ∀ d, (s.die d).walks = []

/-! ### Cross-lane words -/

/-- The lanes that a cross-lane word brings together: the members of a lane that it is active in
(03 R91 R93). -/
def meeting (s : State) (l : Lane) (m : BitVec 3) : List Lane :=
  ((s.members l.f l.x (memberSet l.f l.x m.toNat)).map (fun e =>
    { k := e.1, f := e.2, x := l.x, act := laneAct s.prefixWord e.2 })).filter (fun y => y.on)

/-- The lanes of a strand are all members of one another, in one row of one skein, nobody else is, and no other
fibre of the skein waits at a cross-lane word (03 R91). -/
def AllMeet (s : State) (x : Strand) (m : BitVec 3) : Prop :=
  ∀ l ∈ s.lanes x, (∀ e ∈ s.members l.f l.x (memberSet l.f l.x m.toNat), e.1 ∈ x.fibs) ∧
    (∀ y ∈ s.lanes x, y.f.sk = l.f.sk ∧ rowOf y.f y.x = rowOf l.f l.x ∧
      memberSet y.f y.x m.toNat = memberSet l.f l.x m.toNat) ∧
    ∀ e ∈ s.fibres, e.2.sk = l.f.sk → e.1 ∉ x.fibs → e.2.gathering = none

/-- The strand has become one of a new key, behind the word; only fibres, strands and skeins change. -/
def Regrouped (s t : State) (n : Nat) (x : Strand) (after : Lane → Fibre) : Prop :=
  t = { withWorkers s t.fibres t.strands t.skeins with nextKey := s.nextKey + 1 } ∧
  (∀ l ∈ s.lanes x, tget t.fibres l.k = some { after l with
    run := .strand s.nextKey
    clause := none
    pos := { placeAfter s x with jumped := l.f.pos.jumped } }) ∧
  (∀ k, k ∉ x.fibs → tget t.fibres k = tget s.fibres k) ∧
  (∃ y, tget t.strands s.nextKey = some y ∧ y.pos = placeAfter s x ∧ y.since = s.time ∧
    y.clause = (if (placeAfter s x).pc == (placeAfter s x).hdr then none else x.clause) ∧
    ∀ k, k ∈ y.fibs ↔ k ∈ (s.lanes x).map (fun l => l.k)) ∧
  (∀ j, j ≠ s.nextKey → tget t.strands j = if j = n then none else tget s.strands j) ∧
  SkeinsAfter s t x (fun _ y => y)

/-- A cross-lane word whose members are the lanes of its strand: it acts on each of its active lanes, as
`g` says, from the active lanes that meet, and retires (03 R92 R93). -/
def CrossRow (i : Instr) (rg : Regs) (m : BitVec 3) (ok : State → List Lane → Lane → Prop)
    (g : State → List Lane → Lane → Fibre) : Prop :=
  ∀ s n x, Inv s = true → Ready s n x rg → AllMeet s x m →
    (∀ l ∈ s.lanes x, l.on = true → ok s (meeting s l m) l) →
    ∃ t, exec i s = .next t ∧ Regrouped s t n x (laneAfter rg (fun l => g s (meeting s l m) l))

/-- A reduction to a 32-bit integer, from the values of the meeting lanes (03 R95). -/
def CrossRed (i : Instr) (d a : BitVec 7) (m : BitVec 3) (f : List Nat → Int) : Prop :=
  CrossRow i { src := [one a], dst := [one d] } m (fun _ _ _ => True) (fun _ ls l =>
    l.f.set d.toNat (BitVec.ofInt 32 (f (ls.map (fun y => (y.f.reg a.toNat).toNat)))))

/-- A floating reduction, from the values of the meeting lanes, where no enabled condition is raised
(03 R95). -/
def CrossFloat (i : Instr) (d a : BitVec 7) (m : BitVec 3)
    (r : State → Lane → List Word → FRes) : Prop :=
  let res := fun s ls l => withInputs ((ls.map (fun (y : Lane) => y.f.reg a.toNat)).map f32v)
    (r s l (ls.map (fun y => y.f.reg a.toNat)))
  CrossRow i { src := [one a], dst := [one d] } m
    (fun s ls l => (res s ls l).cond.raised l.f.fpc = 0) (fun s ls l =>
      { l.f.setVal d.toNat 1 (res s ls l).bits with fpc := (res s ls l).cond.sticky l.f.fpc })

/-- A shuffle: `src` gives the lane whose value the lane takes; where there is none among the active
members it keeps its own (03 R94). -/
def CrossShuffle (i : Instr) (d a b : BitVec 7) (m : BitVec 3) (src : Lane → Nat → Option Nat) : Prop :=
  CrossRow i { src := [one a, one b], dst := [one d] } m (fun _ _ _ => True) (fun _ ls l =>
    let from_ := (src l ((l.f.reg b.toNat).toNat % 64)).bind (fun k =>
      ls.find? (fun y => y.f.lane.toNat == k))
    l.f.set d.toNat ((from_.getD l).f.reg a.toNat))

/-! ### The memory words of a front context, and what completes in the background -/

/-- The front context of skein `k` retires a memory word as `f` (08 R210). -/
def FrontChecked (s t : State) (k : Nat) (x : Skein) (key : Nat) (f : Front) : Prop :=
  ChecksLeave s t key ∧ t.fibres = s.fibres ∧ t.strands = s.strands ∧
  ∀ j, tget t.skeins j = if j = k then some { x with
    dog := 0
    front := frontAfter s x f } else tget s.skeins j

/-- Memory with `data` written from `pa` upward. -/
def Wrote (s t : State) (pa : Nat) (data : List Byte) : Prop :=
  ∀ b, t.byte b = if pa ≤ b ∧ b < pa + data.length then data.getD (b - pa) 0 else s.byte b

/-- The bytes of an access lie in one line and are at hand in memory itself: no stash line has any of them
registered, none is poisoned, their home die is in service, and no error status comes back from the host
(12 R305, 14 R351, 16 R383). -/
def InMemory (s : State) (a : Access) : Prop :=
  a.pa % 128 + a.n ≤ 128 ∧ (a.tracked = true → s.reach a.pa a.n = .memory) ∧ s.readsPoison a = false ∧
  s.homeGone a.pa = false ∧ a.remote = none ∧ s.hostError a = false

/-- Fibre `k` is `f`, of a skein, with one outstanding load `y`, which nothing holds up, and an empty store
queue. -/
def OneLoad (s : State) (k : Nat) (f : Fibre) (x : Skein) (y : Load) : Prop :=
  tget s.fibres k = some f ∧ tget s.skeins f.sk = some x ∧ f.loads = [y] ∧ f.stores = [] ∧
  y.abandoned = false ∧ y.poisoned = false ∧ y.early = none ∧ y.n = y.img.regs

/-- The load has ended with a value: the registers that it still had to write hold its image, and no other
register or fibre has changed (05 R137 R146). -/
def Delivered (s t : State) (k : Nat) (f : Fibre) (y : Load) (v : Nat) : Prop :=
  (∃ g, tget t.fibres k = some g ∧ g = { f with
      v := g.v
      loads := [] } ∧
    ∀ r, g.reg r = if y.covers r then (imageWords y.img v).getD (r - y.dst) 0 else f.reg r) ∧
  (∀ j, j ≠ k → tget t.fibres j = tget s.fibres j) ∧ ∀ b, t.byte b = s.byte b

/-- The head of fibre `k`'s store queue is `x`, on core `core`, and it is its turn (05 R143 R145, 15 R361). -/
def StoreTurn (s : State) (k : Nat) (f : Fibre) (core : Nat) (x : Store) (r : List Store) : Prop :=
  tget s.fibres k = some f ∧ f.stores = x :: r ∧ x.sent = false ∧ s.coreOf (.fibre k) = some core ∧
  s.mergeTurn (.fibre k) core x = true ∧ s.headDue core x = true

/-- The store has left its queue, and its fibre's registers have not changed. -/
def LeftQueue (t : State) (k : Nat) (f : Fibre) (x : Store) (r : List Store) : Prop :=
  ∃ g, tget t.fibres k = some g ∧ g.stores = r.filter (fun y => y.id != x.id) ∧ g.v = f.v

/-! ### Words of one lane that act on what their skein holds -/

/-- Strand `n`, of one active lane, issues a word whose registers are legal and there. -/
def Alone (s : State) (n : Nat) (x : Strand) (l : Lane) (rg : Regs) : Prop :=
  Inv s = true ∧ Ready s n x rg ∧ x.fibs = [l.k] ∧ s.lanes x = [l] ∧ l.on = true

/-- The lane retires the word: its fibre is `g`, its skein `y`, and every other fibre, strand, skein, register
of the package and byte of memory is unchanged. -/
def RetiresAlone (s t : State) (n : Nat) (x : Strand) (l : Lane) (g : Fibre) (y : Skein) : Prop :=
  OnlyWorkers s t ∧
  (∀ k, tget t.fibres k = if k = l.k then some { g with pos := placeAfter s x } else tget s.fibres k) ∧
  (∀ m, tget t.strands m = if m = n then some (strandAfter s x) else tget s.strands m) ∧
  ∀ j, tget t.skeins j = if j = l.f.sk then some { y with dog := 0 } else tget s.skeins j

/-- The lane waits behind the word for `w`, as `g`, with the words of its clause; it has left its strand, its skein
is `y`, and nothing else changes (06 R160, 02 R47). -/
def ParksAlone (s t : State) (n : Nat) (x : Strand) (l : Lane) (g : Fibre) (y : Skein) (w : Wait) : Prop :=
  OnlyWorkers s t ∧
  (∀ k, tget t.fibres k = if k = l.k then some { g with
    run := .parked w (placeAfter s x)
    clause := x.clause } else tget s.fibres k) ∧
  (∀ m, m ≠ n → tget t.strands m = tget s.strands m) ∧
  (∀ z, tget t.strands n = some z → l.k ∉ z.fibs) ∧
  ∀ j, tget t.skeins j = if j = l.f.sk then some y else tget s.skeins j

/-- No fibre of a skein waits, parked, for something. -/
def NoOneWaits (s : State) (k : Nat) : Prop :=
  ∀ e ∈ s.fibres, e.2.sk = k → ∀ w p, e.2.run ≠ .parked w p

/-! ### Knots -/

/-- A skein with one knot changed. -/
def withKnot (x : Skein) (k : Nat) (y : Knot) : Skein := { x with knots := tput x.knots k y }

/-- The next phase of a knot: P has advanced and the knot is open to ties (06 R165). -/
def nextPhase (y : Knot) : Knot :=
  { y with
    p := y.p + 1
    ties := 0
    posted := false
    members := []
    open_ := none
    closed := false }

/-- Knot `k` accepts a tie of the lane by the word being executed (06 R167 R169). -/
def TieOpen (s : State) (l : Lane) (k : Nat) (op : KnotOp) : Prop :=
  let y := l.x.knot k
  k < l.x.lr.knots ∧ y.error = false ∧ y.memberMode = true ∧ y.closed = false ∧
  (∀ m ∈ y.members, m.fib ≠ l.k) ∧
  (∀ w, y.open_ = some w → w.differs op s.cur.word s.cur.pfx = false) ∧ l.f.stores = []

/-- A fibre that has tied: its phase record is P, and the load or tile write of its word counts
(06 R165, 09 R261). -/
def tiedFibre (s : State) (x : Strand) (l : Lane) (k : Nat) (load : Option (Img × BitVec 7)) (twr : Bool)
    (v : Table DWord) : Fibre :=
  let f := match load with
    | some e => withLoad s x l.f e.1 e.2 .pending
    | none => l.f
  { f.setRec k (l.x.knot k).p with
    twrs := f.twrs + (if twr then 1 else 0)
    ivl := v }

/-- A knot that the lane has joined, with what its tie captured (06 R165 R169). -/
def joinedKnot (s : State) (x : Strand) (l : Lane) (k : Nat) (op : KnotOp) (cap : List Word)
    (load : Option (Img × BitVec 7)) : Knot :=
  let y := l.x.knot k
  let m : Member := { fib := l.k, idx := l.f.idx.toNat, captured := cap,
                      load := load.map (fun _ => l.f.nextId) }
  { y with
    ties := y.ties + 1
    members := y.members ++ [m]
    open_ := some (y.open_.getD { op := op, word := s.cur.word, pfx := s.cur.pfx, pc := x.pos.pc }) }

/-- A word that ties, where it is not the last tie of its phase: it joins the members and releases at core
scope (06 R167 R169). -/
def TieRow (i : Instr) (rg : Regs) (k : Nat) (op : KnotOp) (cap : Lane → List Word)
    (load : Option (Img × BitVec 7)) (twr : Bool) (ok : State → Lane → Prop) : Prop :=
  ∀ s n x l, Alone s n x l rg → TieOpen s l k op → ok s l → (load.isSome = true → loadRoom l) →
    (twr = true → storeRoom l) → (l.x.knot k).ties + 1 ≠ (l.x.knot k).c →
    ∃ t v, exec i s = .next t ∧ Raised true 0 l.f.ivl v ∧
      RetiresAlone s t n x l (tiedFibre s x l k load twr v)
        (withKnot l.x k (joinedKnot s x l k op (cap l) load))

/-- A tile word names tiles of the skein and passes its checks (09 R240 R248 R249). -/
def tileLegal (w : TileWord) (s : State) (l : Lane) : Prop :=
  w.beyond l.x = false ∧ tileCheck s l.f.sk l.x w = .ok

/-! ### Tiles -/

/-- A skein with one more operation at its matrix engine (09 R247); a ply comes with its number and its place in
the order of issue (11 R286). -/
def withTileOp (x : Skein) (w : TileWord) (pc : VAddr) (ply : Option (Nat × Nat)) : Skein :=
  let o : TileOp := { id := x.nextId, minor := w.minor, flags := w.flags, td := w.td, ta := w.ta,
                      tb := w.tb, pc := pc, ovt := ctlOvt x.ctl, ply := ply.map (fun e => e.1),
                      seq := (ply.map (fun e => e.2)).getD 0 }
  { x with
    tops := x.tops ++ [o]
    tlq := x.tlq ++ [(x.nextId, false)]
    nextId := x.nextId + 1
    tiles := if w.minor = 5 || (w.minor = 3 && !w.sparse) then
        tput x.tiles w.td (x.tile w.td).cleared
      else x.tiles }

/-- The front context of skein `k` issues a tile word that passes its checks, with TL below 7
(09 R240 R247 R248). -/
def TileReady (s : State) (k : Nat) (x : Skein) (w : TileWord) : Prop :=
  Inv s = true ∧ FrontReady s k x ∧ w.beyond x = false ∧ tileCheck s k x w = .ok ∧ x.tl < 7

/-- `o` is the one operation at the engine of skein `k`, on TL, which nothing else waits for. -/
def OneTileOp (s : State) (k : Nat) (x : Skein) (o : TileOp) : Prop :=
  tget s.skeins k = some x ∧ x.tops = [o] ∧ x.tlq = [(o.id, false)] ∧ x.queues = [] ∧
  o.transfer = false ∧ o.knot = none

/-! ### Draft sets and queues -/

/-- The lane is a member of an open draft set, of rank `r` (08 R233). -/
def DraftMemberOf (l : Lane) (r : Nat) : Prop :=
  l.x.lr.draft = true ∧ l.x.draft.isOpen = true ∧ l.x.draft.failed = false ∧
  l.x.draft.rank l.k = some r

/-- A skein with one bobbin queue changed. -/
def withQueue (x : Skein) (q : Nat) (y : BQueue) : Skein := { x with queues := tput x.queues q y }

/-- Bobbin queue `q` of the lane's skein is initialised, in a stash without mapping windows, nobody waits at it,
and the stores of the lane are performed (08 R214). -/
def QueueReady (s : State) (l : Lane) (q : Nat) : Prop :=
  q < l.x.lr.queues ∧ (l.x.queue q).init = true ∧ l.x.slots = [] ∧ NoOneWaits s l.f.sk ∧ l.f.stores = []

/-- The stash of skein `k` with the bytes of a word at an offset. -/
def StashWrote (s t : State) (k at_ : Nat) (w : Word) : Prop :=
  ∀ i, t.stashByte k i = if at_ ≤ i ∧ i < at_ + 4 then BitVec.ofNat 8 (w.toNat / 256 ^ (i - at_))
    else s.stashByte k i

/-- A number in the stash of a skein, of `n` bytes, little-endian. -/
def stashNat (s : State) (k o n : Nat) : Nat := ofBytes (s.stashBytes k o n)

/-- How many of the first `n` indices satisfy a condition. -/
def countBelow (n : Nat) (c : Nat → Bool) : Nat := ((List.range n).filter c).length

/-- The lines of a stash of `size` bytes that some ranges, of offset and length, meet (07 R179). -/
def linesMet (size : Nat) (l : List (Nat × Nat)) : Nat :=
  countBelow (size / 128 + 1) (fun q => l.any (fun e => decide (e.1 < 128 * q + 128 ∧ 128 * q < e.1 + e.2)))

/-- The type code and the element size of a sliver format (07 R199 R200). -/
def slivForm (f : BitVec 2) : Nat × Nat := if f = 0 then (9, 2) else if f = 1 then (10, 4) else (12, 1)

/-- V, the place of the stored elements in a record of `e` elements (07 R199). -/
def slivValues (e : Nat) : Nat := (32 + e / 8 + 15) / 16 * 16

/-! ### What tile operations compute -/

/-- Element (r, c) of a tile: its pattern (09 R240). -/
def elemAt (t : Tile) (r c : Nat) : Nat := (t.elems t.shape r).getD c 0

/-- Byte `j` of row `r` of a tile's image (09 R240). -/
def rowByte (t : Tile) (r j : Nat) : Byte := (t.row r 256).getD j 0

/-- The control register of each of some tiles holds a value that `wtc` accepts (09 R242). -/
def TilesSet (x : Skein) (l : List Nat) : Prop := ∀ i ∈ l, tcLegal (x.tile i).tc.toNat = true

/-- What a marking operation that wrote some results, of format `fmt`, records in its destination (09 R247). -/
def recorded (t : Tile) (acc : Bool) (pc : VAddr) (fmt : Nat) (l : List FRes) : Tile :=
  let nf := l.any (fun e => nonfiniteElem fmt e.bits)
  if acc && t.nf then t
  else
    { t with
      nf := nf
      cinv := nf && l.any (fun e => e.cond.inv)
      covf := nf && l.any (fun e => e.cond.ovf)
      cnfi := nf && l.any (fun e => e.cond.nfi)
      ppc := if nf then ppcOf pc else 0 }

/-- Tile `u` is `t` after a marking operation: element (r, c) has the result `w r c`, or its old value where that is
none; no other byte changes, the marks of the rows written are gone and ZERO holds for the new elements
(09 R244 R247 R251 R259). -/
def Computed (t u : Tile) (acc : Bool) (pc : VAddr) (w : Nat → Nat → Option FRes) : Prop :=
  let h := t.shape
  u = { recorded t acc pc h.fmt ((List.range h.rows).flatMap (fun r => (List.range h.cols).filterMap (w r))) with
    image := u.image
    marks := u.marks
    zero := u.zero } ∧
  (∀ r c, r < h.rows → c < h.cols → elemAt u r c = ((w r c).map (fun e => e.bits)).getD (elemAt t r c)) ∧
  (∀ r j, r < 64 → j < 256 → (h.rows ≤ r ∨ h.rowBytes ≤ j) → rowByte u r j = rowByte t r j) ∧
  (∀ r, r < h.rows → tget u.marks r = if (List.range h.cols).any (fun c => (w r c).isSome) then none
    else tget t.marks r) ∧
  (u.zero = true ↔ ∀ r c, r < h.rows → c < h.cols → zeroElem h.fmt (elemAt u r c) = true)

/-- A result with the conditions of the values read (09 R251). -/
def reading (l : List FV) (r : FRes) : FRes := { r with cond := r.cond.merge (readNonfinite l) }

/-- What 09 R251 computes for one element: the patterns `a k` and `b k` at the positions `ks`, of formats `fa` and `fb`,
the scales of the two rows, and the old element. `exact` is the exact sum of exact products. -/
def productAt (path : TilePath) (exact : List ExactSum → ExactSum) (acc scl : Bool) (fa fb : Nat) (a b : Nat → Nat)
    (ks : List Nat) (sa sb : Word) (old : Nat) : FRes :=
  let start := if acc then old else 0
  let vals := ks.flatMap (fun k => [tileValue fa (a k), tileValue fb (b k)])
  let terms := ks.map (fun k => fvMul (tileValue fa (a k)) (tileValue fb (b k)))
  let rounded := fun (t : Fmt) (c : Cond) (l : List ExactSum) =>
    let r := finishSum t {} (sumProducts l)
    { r with cond := c.merge r.cond }
  match path with
  | .fp8 =>
    let blk := finishSum .f32 {} (exact terms)
    let s : FRes := if scl then fMul .f32 {} (f32v sa) (f32v sb) else { bits := 0x3F800000 }
    reading (FV.of .f32 start :: vals) (rounded .f32 (blk.cond.merge s.cond)
      [fvMul (.of .f32 blk.bits) (.of .f32 s.bits), { val := .of .f32 start }])
  | .bf16 => reading (FV.of .f32 start :: vals) ((List.range (ks.length / 8)).foldl (fun z g =>
      rounded .f32 z.cond ({ val := .of .f32 z.bits } :: (terms.drop (8 * g)).take 8)) { bits := start })
  | .int8 => { bits := zextI ((start : Int) + (ks.map (fun k => sextN (a k) 8 * sextN (b k) 8)).sum) 32 }
  | .f64 => reading (FV.of .f64 start :: vals) (terms.foldl (fun z e =>
      rounded .f64 z.cond [e, { val := .of .f64 z.bits }]) { bits := start })

/-- Element (m, n) of a product of tiles `a` and `b` over the positions `ks`, where both rows are valid
(09 R251 R252). -/
def productOf (a b : Tile) (exact : List ExactSum → ExactSum) (flags m n : Nat) (ks : List Nat) (old : Nat) :
    Option FRes :=
  if m < a.shape.valid ∧ n < b.shape.valid then
    (tilePath a.shape.fmt b.shape.fmt).map (fun path =>
      productAt path exact (bitOf flags 0) (bitOf flags 1) a.shape.fmt b.shape.fmt (elemAt a m) (elemAt b n) ks
        (a.scale m) (b.scale 0) old)
  else none

/-- Row `r` of a tile stores position `k` (09 R252). -/
def storedAt (t : Tile) (k r : Nat) : Bool := ((tget t.marks r).map (fun m => m.getLsbD k)).getD true

/-- The steps of an mmz: the positions stored in some valid row of A and in some valid row of B (09 R252). -/
def stepsOf (a b : Tile) : List Nat :=
  (List.range a.shape.cols).filter (fun k =>
    (List.range a.shape.valid).any (storedAt a k) && (List.range b.shape.valid).any (storedAt b k))

/-- The exact partial block sums of an mmz after the steps `ks`: those of the products of the positions that both rows
store (09 R253). -/
def partialSums (a b : Tile) (ks : List Nat) : List (List BlockSum) :=
  (List.range a.shape.rows).map (fun m => (List.range b.shape.rows).map (fun n =>
    (ks.filter (fun k => decide (m < a.shape.valid) && decide (n < b.shape.valid) && storedAt a k m && storedAt b k n)).foldl
      (fun q k => q.add (tileValue a.shape.fmt (elemAt a m k)) (tileValue b.shape.fmt (elemAt b n k))) {}))

/-- An mmz stands at a step boundary with the partial sums of the steps that it has performed (09 R253). -/
def MmzStands (x : Skein) (o : TileOp) : Prop :=
  o.step = 0 ∨ o.sums = partialSums (x.tile o.ta) (x.tile o.tb) ((stepsOf (x.tile o.ta) (x.tile o.tb)).take o.step)

/-- The exact sum of exact products, a finite one in units of 2^-32 (09 R252). -/
def unitSum (l : List ExactSum) : ExactSum :=
  let s := sumProducts l
  match s.val with
  | .fin _ _ _ =>
    let u : Int := (l.map (fun e => match e.val with
      | .fin n m x => toUnits n m x (-32)
      | _ => 0)).sum
    { val := if u = 0 then .fin (!l.isEmpty && l.all (fun e => e.val.isZero && e.val.neg)) 0 0
        else .fin (decide (u < 0)) u.natAbs (-32) }
  | _ => s

/-- A value rounded to a format under the default overflow results (09 R260, 00 R8). -/
def roundTo (t : Fmt) (v : FV) : FRes :=
  match v with
  | .nan => { bits := t.nanPat, cond := { nfi := true } }
  | .inf n => { bits := infOf t n, cond := { nfi := true } }
  | .fin n m x => finish t {} n m x false

/-- Byte `b` of row `r` of a tile in the stash, in the canonical or the row-major layout (09 R245). -/
def placeIn (canon : Bool) (soff r b : Nat) : Nat :=
  if canon then soff + 1024 * (b / 16) + 16 * r + b % 16 else soff + 256 * r + b

/-- Tile `u` has the scales of an area of the stash: 64 in an A tile, one in a B tile, where `c` holds, and else those
of `t` (09 R245 R255). -/
def ScalesFrom (s : State) (k : Nat) (t u : Tile) (area : Nat) (c : Bool) : Prop :=
  ∀ m, u.scale m = if c = true ∧ m < (if t.shape.layout = 0 then 64 else 1) then
    BitVec.ofNat 32 (stashNat s k (area + 4 * m) 4) else t.scale m

/-- Tile `u` is `t` with row bytes as `b` says where that is some, with ZERO of the new image (09 R240 R244). -/
def RowsHold (t u : Tile) (b : Nat → Nat → Option Byte) : Prop :=
  (∀ r j, r < 64 → j < 256 → rowByte u r j = (b r j).getD (rowByte t r j)) ∧
  (u.zero = true ↔ ∀ r c, r < t.shape.rows → c < t.shape.cols → zeroElem t.shape.fmt (elemAt u r c) = true)

/-- The place in a sparse line of position `k` of row `r`, if it is stored: the line, and behind the lines the overflow
slots (07 R205, 09 R259). -/
def sparsePlace (h : TileShape) (bits r k : Nat) : Option Nat :=
  if !bits.testBit k then none
  else
    let n := countBelow k (fun i => bits.testBit i)
    if n < 112 then some (h.soff + 128 * r + 16 + n)
    else some (h.soff + 128 * h.rows + 16 * r + (n - 112))

/-- The completion of the one operation of a skein: its destination is `u`, it has left the engine and TL, and nothing
else has changed (09 R247). -/
def TileDone (s t : State) (k : Nat) (x : Skein) (o : TileOp) (u : Tile) : Prop :=
  t = { withWorkers s s.fibres s.strands t.skeins with fresh := s.fresh + 1 } ∧
  ∀ j, tget t.skeins j = if j = k then some { x with
    tops := []
    tlq := []
    tiles := tput x.tiles o.td u } else tget s.skeins j

/-- Element (r, c) of the result of member `q` of a ply: row 64 (q mod 2) + r of the A rows of all members, eight of
each, and row 64 (q div 2) + c of the B rows, thirty-two of each (11 R287). -/
def plyElem (s : State) (l : List (Nat × TileOp)) (q flags r c old : Nat) : Option FRes :=
  let m := 64 * (q % 2) + r
  let n := 64 * (q / 2) + c
  let from_ := fun (i : Nat) (f : TileOp → Nat) => (l[i]?).bind (fun g => (tget s.skeins g.1).map (fun y => y.tile (f g.2)))
  match from_ (m / 8) (fun o => o.ta), from_ (n / 32) (fun o => o.tb) with
  | some a, some b =>
    if m % 8 < a.shape.valid ∧ n % 32 < b.shape.valid then
      (tilePath a.shape.fmt b.shape.fmt).map (fun path =>
        productAt path sumProducts (bitOf flags 0) (bitOf flags 1) a.shape.fmt b.shape.fmt (elemAt a (m % 8))
          (elemAt b (n % 32)) (List.range a.shape.cols) (a.scale (m % 8)) (b.scale 0) old)
    else none
  | _, _ => none

/-- Member `e` of a ply: the one operation of its skein, which passed its checks on tiles that are set (11 R285). -/
def PlyMember (s : State) (e : Nat × TileOp) (x : Skein) : Prop :=
  OneTileOp s e.1 x e.2 ∧ productRule s x e.2.word = none ∧ TilesSet x [e.2.td, e.2.ta, e.2.tb]

/-- The rank of a member of a phase: how many members have a smaller sr.fibre (06 R169). -/
def rankOf (l : List Member) (m : Member) : Nat := (l.filter (fun g => decide (g.idx < m.idx))).length

/-- The load of each member of a phase has its value, by the member's rank (09 R261 R262). -/
def LoadsGiven (t : State) (l : List Member) (v : Nat → Nat) : Prop :=
  ∀ m ∈ l, ∃ f, tget t.fibres m.fib = some f ∧
    ∀ y ∈ f.loads, m.load = some y.id → y.src = .value (v (rankOf l m))

/-! ### Barriers -/

/-- A state in which a fibre has arrived once more at a level (06 R171). -/
def arrived (s : State) (l : Lane) (level : Nat) : State :=
  { s with fibres := tput s.fibres l.k { l.f with
      arrivals := tputD l.f.arrivals level 0 (l.f.count level + 1) } }

/-- As `RetiresAlone`, and the end of a wait above the skein level drops the L1 copies of the lane's core
(12 R297). -/
def PassesBarrier (s t : State) (n : Nat) (x : Strand) (l : Lane) (g : Fibre) (level : Nat) : Prop :=
  t = { withWorkers s t.fibres t.strands t.skeins with cores := t.cores } ∧
  (∀ c, t.core c = if 1 ≤ level ∧ c = l.x.core then { s.core c with l1 := [] } else s.core c) ∧
  (∀ k, tget t.fibres k = if k = l.k then some { g with pos := placeAfter s x } else tget s.fibres k) ∧
  (∀ m, tget t.strands m = if m = n then some (strandAfter s x) else tget s.strands m) ∧
  ∀ j, tget t.skeins j = if j = l.f.sk then some { l.x with dog := 0 } else tget s.skeins j

/-! ### Layers -/

/-- The registers of a layer. -/
def layerRegs (acc : Bool) (d a : BitVec 7) (m : MvcLayer) : Regs :=
  let dst : Opd := { r := d.toNat, n := m.rows, al := 1 }
  { src := (if acc then [dst] else []) ++ [{ r := a.toNat, n := m.cols, al := 1 }]
    dst := [dst] }

/-- Output `i` of a layer in a lane: from the bias or the old output, one fused step for each input in
ascending order, then the activation (08 R231). -/
def layerOut (s : State) (acc : Bool) (m : MvcLayer) (l : Lane) (d a i : Nat) : Nat :=
  let at_ := fun (o : Nat) => ofBytes (s.constBytes l.x.core o 4)
  let start := if acc then (l.f.reg (d + i)).toNat else if m.boff = 2 ^ 32 - 1 then 0 else at_ (m.boff + 4 * i)
  let z := (List.range m.cols).foldl (fun z j =>
    (fFma .f32 {} (FV.of .f32 (at_ (m.woff + 4 * (i * m.cols + j)))) (FV.of .f32 (l.f.reg (a + j)).toNat)
      (FV.of .f32 z)).bits) start
  if m.act = 0 then z
  else if m.act = 1 then (fTanh .f32 {} (FV.of .f32 z)).bits
  else match FV.of .f32 z with
    | .nan => 0x7FC00000
    | .inf n => if n then 0 else z
    | .fin n _ _ => if n then 0 else z

/-! ### Mappings -/

/-- A skein whose front context has retired its word as `f`. -/
def frontDone (s : State) (x : Skein) (f : Front) : Skein :=
  { x with
    dog := 0
    front := frontAfter s x f }

/-- Slot `n` of a skein holds mapping `k`, which is `m`. -/
def SlotHolds (s : State) (x : Skein) (n k : Nat) (m : Mapping) : Prop :=
  tget x.slots n = some k ∧ tget s.maps k = some m

/-- Mapping `k` is as `m` and has no registration; skein `j` is `y`; nothing else has changed. -/
def MapLeft (s t : State) (k : Nat) (m : Option Mapping) (j : Nat) (y : Skein) : Prop :=
  t = { withWorkers s s.fibres s.strands t.skeins with
    maps := t.maps
    regs := t.regs } ∧
  (∀ i, tget t.maps i = if i = k then m else tget s.maps i) ∧
  (∀ i, tget t.regs i = (tget s.regs i).filter (fun r => r.map != k)) ∧
  ∀ i, tget t.skeins i = if i = j then some y else tget s.skeins i

/-! ### The reel -/

/-- A skein with one channel changed. -/
def withChan (x : Skein) (c : Nat) (y : Chan) : Skein := { x with chans := tput x.chans c y }

/-- The command of form `form` that a reel word issues (08 R216). -/
def reelCommand (x : Skein) (form : Nat) (a b : BitVec 6) (knot : Option Nat) (h : Shape) (entry : BitVec 512) :
    ReelCmd :=
  let reg := fun (i : Nat) => (x.front.reg i).toNat
  let args := reg (a.toNat + 1)
  { id := x.nextId, form := form, shape := h, stash := args % 2 ^ 20, rop := args / 2 ^ 20 % 16,
    vrows := args / 2 ^ 32 % 2 ^ 11, knot := knot, ovt := ctlOvt x.ctl, entry := entry
    origin := (List.range h.rank).map (fun d => (x.front.reg (b.toNat + d)).toInt)
    stream := reg (b.toNat + 1) % 2 ^ 32, counter := reg (b.toNat + 2) }

/-- A read of a range through a context's translation recalls no stash line (12 R305). -/
def RangeAtHand (s : State) (core ctx va n : Nat) : Prop :=
  ∀ e ∈ piecesOf va n, ∀ z, s.xlateNow core ctx e.1 false none = .ok z → z.plainTracked e.1 = true →
    ∀ q ∈ linePieces (z.pa e.1) e.2, s.reach q.1 q.2 ≠ .recall

/-- Skein `k` is as `y`; nothing else changes but what the checks and the reads of a word leave behind. -/
def FrontLeaves (s t : State) (k : Nat) (y : Skein) : Prop :=
  ChecksLeave s t 0 ∧ t.fibres = s.fibres ∧ t.strands = s.strands ∧
  ∀ j, tget t.skeins j = if j = k then some y else tget s.skeins j

/-- The core's copy of a shape record. -/
def shapeCopy (s : State) (x : Skein) (va : Nat) : Option ShapeCache :=
  (s.core x.core).shapes.find? (fun e => e.ctx == x.lr.ctx && e.va == va)

/-- The shape record at an address is the core's copy, or lies in pages and lines at hand. -/
def ShapeAt (s : State) (k : Nat) (x : Skein) (va : Nat) (h : Shape) : Prop :=
  match shapeCopy s x va with
  | some e => e.shape = h
  | none => RangeAtHand s x.core x.lr.ctx va 192 ∧
      ∃ l, s.frontPieces (.who (.front k)) x.core x.lr.ctx (piecesOf va 192) = .bytes l ∧ h = Shape.ofRecord l

/-- What the read of a shape record leaves behind: the core keeps the record, of at most 32 of them, and the read
its traces (08 R225). -/
def ShapeKept (s t : State) (x : Skein) (va : Nat) (h : Shape) : Prop :=
  let c := s.core x.core
  let l := if (shapeCopy s x va).isSome then c.shapes else c.shapes ++ [{ ctx := x.lr.ctx, va := va, shape := h }]
  ChecksLeave s { t with cores := tput t.cores x.core { t.core x.core with shapes := c.shapes } } 0 ∧
  (t.core x.core).shapes = (if (shapeCopy s x va).isSome then l else l.drop (l.length - 32)) ∧
  t.fibres = s.fibres ∧ t.strands = s.strands

/-- The buffer-table entry that a command uses (08 R220). -/
def entryOf (x : Skein) (form : Nat) (h : Shape) : Option Nat :=
  if formPool form then none else x.lr.binding h.bind

/-- Every access of a line of a channel lies in memory at hand, in a page that the core's translation cache
holds, and the fabric lets it be read. -/
def LineAtHand (s : State) (x : Skein) (l : List (Piece × List (Nat × Access))) : Prop :=
  ∀ e ∈ l, ∀ u ∈ e.2, InMemory s u.2 ∧ (∃ z, s.cached x.core u.2.ctx (u.2.va / 2 ^ 15) = some z) ∧
    s.readHeld x.core u.2 = false

/-! ### Clauses, bins and slots -/

/-- When the oldest fibre of a bin was filed (06 R158). -/
def filedAt (b : Bin) : Nat := (b.fibs.head?.map (fun e => e.2)).getD 0

/-- The oldest fibre in each home lane among those of a bin (06 R159). -/
def oldestInLanes (s : State) (l : List (Nat × Nat)) : List Nat :=
  (l.zipIdx.filter (fun e => (l.take e.2).all (fun g => s.laneOf g.1 != s.laneOf e.1.1))).map (fun e => e.1.1)

/-- The fibres of strand `n`, `x`, stand at a place with a clause, or with none; nothing else changes but what
the checks of the fetch leave behind (02 R41 R42). -/
def Stands (s t : State) (n : Nat) (x : Strand) (p : Pos) (c : Option Clause) : Prop :=
  ChecksLeave s t 0 ∧ t.skeins = s.skeins ∧
  (∀ l ∈ s.lanes x, tget t.fibres l.k = some { l.f with pos := p }) ∧
  (∀ k, k ∉ x.fibs → tget t.fibres k = tget s.fibres k) ∧
  ∀ m, tget t.strands m = if m = n then some { x with
    pos := p
    clause := c
    missed := false
    waits := false } else tget s.strands m

/-- Strand `n`, `x`, misses a line: its cluster's cache is asked for it, and the strand waits; its fibres count the
miss once for a clause. Nothing else changes but that the cache may have given up a line in error
(01 R17, 11 R282 R283). -/
def Misses (s t : State) (n : Nat) (x : Strand) (line : Nat) : Prop :=
  t = { withWorkers s t.fibres t.strands s.skeins with
    icache := t.icache
    ifetch := t.ifetch
    fresh := t.fresh } ∧
  line ∈ (tget t.ifetch (clusterOf x.core)).getD [] ∧
  (∀ k, tget t.fibres k = (tget s.fibres k).map (fun f =>
    if k ∈ x.fibs ∧ x.missed = false then { f with slip := f.slip + 1 } else f)) ∧
  ∀ m, tget t.strands m = if m = n then some (if x.missed then x else { x with
    missed := true
    waits := true }) else tget s.strands m

/-- The front context of skein `k`, `x`, stands at a place with a clause, or with none. -/
def FrontStands (s t : State) (k : Nat) (x : Skein) (p : Pos) (c : Option Clause) : Prop :=
  ChecksLeave s t 0 ∧ t.fibres = s.fibres ∧ t.strands = s.strands ∧
  ∀ j, tget t.skeins j = if j = k then some { x with front := { x.front with
    pos := p
    clause := c } } else tget s.skeins j

/-! ### Skeins off their cores -/

/-- The one skein of a die group is `k`, which is `x`. -/
def OnlyInGroup (s : State) (launch grp k : Nat) (x : Skein) : Prop := s.groupSkeins launch grp = [(k, x)]

/-- A skein has nothing under way and no mapping, and its fibres wait for something without an access of
their own; its core has nothing on its way to another die and keeps no region. -/
def AtRest (s : State) (k : Nat) (x : Skein) : Prop :=
  (∀ j f, tget s.fibres j = some f → f.sk = k →
    (∃ w p, f.run = .parked w p) ∧ f.loads = [] ∧ f.stores = [] ∧ f.steers = []) ∧
  x.front.loads = [] ∧ x.front.stores = [] ∧ x.chans = [] ∧ x.tops = [] ∧ x.slots = [] ∧
  s.flushed x.core 5 = true ∧ (s.core x.core).regions = []

/-! ### Commands of system software -/

/-- The state with the registers of a die changed alone. -/
def OnlyDie (s t : State) (die : Nat) (d : Die) : Prop :=
  t = { s with dies := t.dies } ∧ ∀ i, t.die i = if i = die then d else s.die i

/-- A fibre may be let go on: it is `f`, of skein `x`, which is on its core and has room in its bins, and no
fault record names it. -/
def MayGoOn (s : State) (die k : Nat) (f : Fibre) (x : Skein) : Prop :=
  tget s.fibres k = some f ∧ tget s.skeins f.sk = some x ∧ x.run = .resident ∧ x.core / 64 = die ∧
  (s.core x.core).bins.length < 32 ∧ (s.die die).waits = []

/-- The fibre goes on at a place, in a card bin; memory, the skeins, the strands and every other fibre are
unchanged (04 R127). -/
def GoesOn (s t : State) (k : Nat) (f : Fibre) (x : Skein) (p : Pos) : Prop :=
  t = { withWorkers s t.fibres s.strands s.skeins with
    cores := t.cores
    dies := t.dies } ∧
  (∀ j, tget t.fibres j = if j = k then some { f with
    pos := p
    run := .filed } else tget s.fibres j) ∧
  FiledIn t { k := k, f := f, x := x, act := .active } p.pc

/-- The place at which a stopped context resumes: its tr.pc, in the clause of its resume address
(04 R123 R127). -/
def resumesAt (pos : Pos) (tr : TrapRec) (resume : VAddr) : Pos :=
  { pc := tr.pc, hdr := resume, jumped := pos.pc == tr.pc && pos.jumped }

/-- A unit that writes `n` bytes at an address changes memory itself: no stash line has any of them registered and
their home dies are in service (12 R305, 15 R368). -/
def GoesToMemory (s : State) (pa n : Nat) : Prop :=
  ∀ e ∈ linePieces pa n, isPackage e.1 = true → s.reach e.1 e.2 = .memory ∧ s.homeGone e.1 = false

/-- A ring has room for a record of `n` bytes, which goes to memory itself. -/
def RingOpen (s : State) (r : Ring) (n : Nat) : Prop :=
  r.en = true ∧ r.full = false ∧ GoesToMemory s (r.slotAddr n) n

/-! ### Packets and remote requests -/

/-- covers(x, y) modulo 4,096 (15 R364). -/
def coversMod (x y : BitVec 12) : Prop := (x.toNat + 4096 - y.toNat) % 4096 < 2048

/-- The check of a packet at its destination passes (15 R364). -/
def PacketPasses (s : State) (k : Packet) : Prop :=
  tgetD (s.die k.dst).d k.src 0 + 1 = k.stamp.getD k.src 0 ∧
  ∀ i, i < 5 → i ≠ k.src → s.insvc.getLsbD i = true →
    coversMod (tgetD (s.die k.dst).d i 0) (k.stamp.getD i 0)

/-- The event that a posted record tells is in the event queue: its type, context, device, address and count
(16 R391). -/
def Posts (s t : State) (typ ctx dev pa count : Nat) : Prop :=
  t.eq = s.eq.push ∧ Wrote s t (s.eq.slotAddr 32) (bytesOf (typ + 2 ^ 16 * ctx + 2 ^ 32 * (dev % 2 ^ 14)) 8 ++
    bytesOf (pa / 128 * 128) 8 ++ bytesOf count 8 ++ bytesOf 0 8)

/-- The event queue has room for a record, which goes to memory itself. -/
def EventsOpen (s : State) : Prop := s.eq.full = false ∧ GoesToMemory s (s.eq.slotAddr 32) 32

/-- An export entry that is valid covers `n` bytes for a source device with the rights that a request needs: RD for a
read, WR for a write, and all three for an atomic or a reduction (05 R132, 16 R390 R392). -/
def Covers (e : Export) (src pa n : Nat) (read write : Bool) : Prop :=
  e.rt.getLsbD 3 = true ∧ e.base.toNat * 2 ^ 15 ≤ pa ∧ pa + n ≤ e.base.toNat * 2 ^ 15 + e.len.toNat ∧
  e.src.toNat % 2 ^ 14 ≤ src ∧ src ≤ e.src.toNat / 2 ^ 16 % 2 ^ 14 ∧
  (read = true → e.rt.getLsbD 0 = true) ∧ (write = true → e.rt.getLsbD 1 = true) ∧
  (read = true → write = true → e.rt.getLsbD 2 = true)

/-- The one request that may be lost now is `id`: every other one was sent less than RTMO cycles ago. -/
def OnlyDue (s : State) (id : Nat) (r : RemoteOut) : Prop :=
  tget s.remotes id = some r ∧ r.sent + s.rtmo.toNat ≤ s.clk.toNat ∧
  ∀ e ∈ s.remotes, e ≠ (id, r) → s.clk.toNat < e.2.sent + s.rtmo.toNat

/-- A message has left the package, and memory is unchanged. -/
def Answered (s t : State) (m : OutMsg) : Prop := t.outbox = s.outbox ++ [m] ∧ ∀ b, t.byte b = s.byte b

/-! ### Banks -/

/-- A bank that a refresh or a mitigation covers: its row is closed, and a mitigation that was due is done and its
activations count anew (14 R345-R347). -/
def closedBank (b : Bank) : Bank :=
  { b with
    isOpen := false
    alert := false
    acts := if b.alert then [] else b.acts }

/-- A row enters the fast segment of a bank: it takes the first slot from the hand on with P = 0 and F = 0, or where
the first turn of the hand finds none the first with P = 0; the slots with P = 0 that the hand passes lose F. The four
activations of the swap count, two for each row (14 R337 R339 R341). -/
def TakesVictim (b d : Bank) (row : Nat) (pin : Bool) (acts : Nat → Nat) : Prop :=
  let place := fun (i : Nat) => (b.hand + i) % 2048
  let slot := fun (i : Nat) => b.slot (place i)
  ∀ i whole, i < 2048 → (slot i).pin = false →
    (whole = false → (slot i).ref = false ∧ ∀ m, m < i → (slot m).pin = true ∨ (slot m).ref = true) →
    (whole = true → (∀ m, m < 2048 → (slot m).pin = true ∨ (slot m).ref = true) ∧
      ∀ m, m < i → (slot m).pin = true) →
    d.hand = place (i + 1) ∧ d.isOpen = false ∧
    (∀ m, m < 2048 → d.slot (place m) =
      if m = i then { row := row, pin := pin, ref := !pin }
      else if (slot m).pin = false ∧ (whole = true ∨ m < i) then { slot m with ref := false }
      else slot m) ∧
    ∀ j, tgetD d.acts j 0 = acts j + (if j = row then 2 else 0) + if j = (slot i).row then 2 else 0

/-- A channel after `n` refreshes that carry a step of its retraining (14 R348). -/
def stepsRun (n : Nat) (c : Channel) : Channel :=
  { c with
    train := c.train - n
    stepping := n != 0 && decide (n ≤ c.train) }

/-- How many refreshes of a pseudo-channel that issue now carry a step: not the one that mitigates, and with 8 owed
all of them (14 R347 R348). -/
def stepCount (alerted : Bool) (owed : Nat) : Nat :=
  if alerted then (if 8 ≤ owed then owed - 1 else 0) else if 0 < owed then 1 else 0

/-- The refreshes owed after one is issued: none where 8 are owed and a mitigation is due (14 R346 R347). -/
def owedAfter (alerted : Bool) (owed : Nat) : Nat := if alerted && decide (8 ≤ owed) then 0 else owed - 1

/-- The class under which a request acts on its row; none for a `demote` (14 R337 R343). -/
def requestClass (k : Stack) (r : BankReq) : Option LClass :=
  match r.op with
  | 0 => some r.cls
  | 1 => some (if k.pinen then .f else .c)
  | 2 => some .c
  | _ => none

/-- A slot after a request for the row in it: a pin where `pin` allows it (14 R337 R343). -/
def slotAfter (c : Option LClass) (pin : Bool) (e : RowSlot) : RowSlot :=
  match c with
  | some .s => e
  | some .c => { e with ref := true }
  | some .f => if pin then { e with pin := true } else { e with ref := true }
  | none => { e with
      pin := false
      ref := false }

/-- Two states that differ in banks, channels, pseudo-channels and stack registers alone. -/
def OnlyBanks (s t : State) : Prop := t = { s with
  banks := t.banks
  channels := t.channels
  pseudos := t.pseudos
  hbms := t.hbms }

/-! ### Units -/

/-- A cluster group of a launch has a skein on its core. -/
def GroupHere (s : State) (launch cgrp : Nat) : Prop :=
  ∃ e ∈ s.skeins, e.2.launch = launch ∧ e.2.cgrp = cgrp ∧ e.2.holding = true

/-- A member of a ply of launch `j` that has begun on plane `pl` is on a core of which `c` holds (11 R291). -/
def PlyBegunOn (s : State) (j pl : Nat) (c : Nat → Prop) : Prop :=
  ∃ g ∈ s.begunPly j pl, ∃ x, tget s.skeins g.1 = some x ∧ c x.core

/-- The images of a boot chain all pass: their keys, the first of the fused digest and the others taken by the stage
before, their signatures of 7,856 bytes, and the rollback counter (16 R388). -/
def BootPasses (l : List BootImage) : Prop :=
  ∀ (j : Nat) (i : BootImage), l[j]? = some i →
    i.signature.length = 7856 ∧ Config.slhVerify i.key (sha256 i.bytes) i.signature = true ∧
    Config.rollback ≤ i.version ∧
    (j = 0 → BitVec.ofNat 256 (ofBytes (sha256 (bytesOf i.key.toNat 32))) = Config.fusedDigest) ∧
    ∀ b, 0 < j → l[j - 1]? = some b → Config.stageTrusts b.bytes i.key = true

/-! ### The host -/

/-- No TDI is in RUN, so every stream reaches everything (16 R384). -/
def NoneRuns (s : State) : Prop := ∀ e ∈ s.tdis, e.2.state ≠ .run

/-! ### Words -/

/-- A context reads a word as an instruction. -/
noncomputable def readsAs (front : Bool) (w : Nat) (i : Instr) : Bool :=
  match decode front w with
  | .ok j => decide (j = i)
  | .error _ => false

/-- A context refuses a word for a reason (02 R56). -/
noncomputable def refusedAs (front : Bool) (w : Nat) (e : DecodeError) : Bool :=
  match decode front w with
  | .ok _ => false
  | .error x => decide (x = e)

/-- What taking turn `t` changes: the turn that was fixed is cleared; the event at the head of the agenda has
left it, and a request that is tried again no longer waits; each core keeps all but its notes of whom its slots
and its front thread tried; nothing else changes. -/
def TurnKept (t : Turn) (u v : State) : Prop :=
  v = { u with
    turn := none
    agenda := match u.turn, t with
      | none, .event i => if u.agenda.head? = some i then u.agenda.drop 1 else u.agenda
      | _, _ => u.agenda
    waiting := match t with
      | .again n => u.waiting.eraseIdx n
      | _ => u.waiting
    cores := v.cores } ∧
  (∀ c, ∃ l n, v.core c = { u.core c with tried := l, turn := n }) ∧
  (t.issuer = none → v.cores = u.cores)

end Sys2Proof.Safety
end

