-- ==== Sys2Proof/Certificates/Slice0/Obligations.lean ====
section
/-! DEFINITION. The statements about the machine, from the numbered rules of the spec. -/

open Sys2Proof Sys2Proof.Machine Sys2Proof.Safety

/-! ### Words that compute in each lane alone -/

/-- 03 R76: each form of major 0x01 writes the value of the table, taken modulo 2^32, to vd, in every
active lane, and nothing else changes but the place of the strand and the watchdogs of its skeins. -/
def Obligations.IntegerWordsWriteTheTableValue : Prop :=
  ∀ d a b : BitVec 7,
    Row3 d a b (.add d a b) (fun x y => x + y) ∧
    Row3 d a b (.sub d a b) (fun x y => x - y) ∧
    Row3 d a b (.mullo d a b) (fun x y => x * y) ∧
    Row3 d a b (.mulhiI32 d a b) (fun x y => sextN x 32 * sextN y 32 / 2 ^ 32) ∧
    Row3 d a b (.mulhiN32 d a b) (fun x y => x * y / 2 ^ 32) ∧
    Row3 d a b (.minI32 d a b) (fun x y => min (sextN x 32) (sextN y 32)) ∧
    Row3 d a b (.maxI32 d a b) (fun x y => max (sextN x 32) (sextN y 32)) ∧
    Row3 d a b (.minN32 d a b) (fun x y => min x y) ∧
    Row3 d a b (.maxN32 d a b) (fun x y => max x y) ∧
    Row3 d a b (.and d a b) (fun x y => (x &&& y : Nat)) ∧
    Row3 d a b (.or d a b) (fun x y => (x ||| y : Nat)) ∧
    Row3 d a b (.xor d a b) (fun x y => (x ^^^ y : Nat)) ∧
    Row3 d a b (.andn d a b) (fun x y => (x &&& (2 ^ 32 - 1 - y) : Nat)) ∧
    Row3 d a b (.shl d a b) (fun x y => x * 2 ^ (y % 32)) ∧
    Row3 d a b (.shrN32 d a b) (fun x y => x / 2 ^ (y % 32)) ∧
    Row3 d a b (.shrI32 d a b) (fun x y => sextN x 32 / 2 ^ (y % 32)) ∧
    Row3 d a b (.rotl d a b) (fun x y => (x * 2 ^ (y % 32) ||| x / 2 ^ (32 - y % 32) : Nat)) ∧
    Row2 d a (.abs d a) (fun x => (sextN x 32).natAbs) ∧
    Row2 d a (.neg d a) (fun x => -x) ∧
    Row2 d a (.clz d a) (fun x => zerosAhead 32 x) ∧
    Row2 d a (.popc d a) (fun x => onesIn 32 x) ∧
    Row2 d a (.brev d a) (fun x => mirrored x) ∧
    Row3 d a b (.bfxN32 d a b) (fun x y => x / 2 ^ posOf y % 2 ^ widthOf y) ∧
    Row3 d a b (.bfxI32 d a b) (fun x y =>
      if widthOf y = 0 then 0 else sextN (x / 2 ^ posOf y) (widthOf y)) ∧
    Row4 d a b (.bfi d a b) (fun x y z =>
      let f := (2 ^ widthOf y - 1) * 2 ^ posOf y
      (z &&& (2 ^ 32 - 1 - f) ||| (x * 2 ^ posOf y &&& f) : Nat)) ∧
    Row4 d a b (.mad d a b) (fun x y z => x * y + z)

/-- 03 R77: the immediate forms of majors 0x02-0x08, and the amounts from 32 to 63, which raise
ILLEGAL_FIELD. 03 R78: the 64-bit forms of major 0x09. -/
def Obligations.ImmediateAndPairWordsWriteTheTableValue : Prop :=
  ((∀ (d a : BitVec 7) (k : BitVec 12) (h : BitVec 19) (n : BitVec 6), n.toNat < 32 →
     Row2 d a (.addi d a k) (fun x => x + sextN k.toNat 12) ∧
     Row2 d a (.andi d a k) (fun x => (x &&& k.toNat : Nat)) ∧
     Row2 d a (.ori d a k) (fun x => (x ||| k.toNat : Nat)) ∧
     Row2 d a (.xori d a k) (fun x => (x ^^^ k.toNat : Nat)) ∧
     Row2 d a (.shli d a n) (fun x => x * 2 ^ n.toNat) ∧
     Row2 d a (.shriN32 d a n) (fun x => x / 2 ^ n.toNat) ∧
     Row2 d a (.shriI32 d a n) (fun x => sextN x 32 / 2 ^ n.toNat) ∧
     Row2 d a (.rotli d a n) (fun x => (x * 2 ^ n.toNat ||| x / 2 ^ (32 - n.toNat) : Nat)) ∧
     Computes (.lui d h) (fun _ => { dst := [one d] }) always
       (fun _ l => l.f.set d.toNat (BitVec.ofNat 32 (h.toNat * 2 ^ 13))) ∧
     Computes (.movi d h) (fun _ => { dst := [one d] }) always
       (fun _ l => l.f.set d.toNat (BitVec.ofInt 32 (sextN h.toNat 19)))) ∧
   ∀ (d a : BitVec 7) (n : BitVec 6) (s : State) (m : Nat) (x : Strand), 32 ≤ n.toNat → Issues s m x →
     ∀ i ∈ [Instr.shli d a n, .shriN32 d a n, .shriI32 d a n, .rotli d a n],
       TakesTrap i s { cause := .illegalField, mask := maskOf (s.lanes x) }) ∧
  (∀ d a b : BitVec 7,
     Pair3 d a b (.addI64 d a b) (fun x y => x + y) ∧
     Pair3 d a b (.subI64 d a b) (fun x y => x - y) ∧
     Pair3 d a b (.mulloI64 d a b) (fun x y => x * y) ∧
     Pair3 d a b (.mulhiI64 d a b) (fun x y => sextN x 64 * sextN y 64 / 2 ^ 64) ∧
     Pair3 d a b (.mulhiN64 d a b) (fun x y => x * y / 2 ^ 64) ∧
     Pair3 d a b (.minI64 d a b) (fun x y => min (sextN x 64) (sextN y 64)) ∧
     Pair3 d a b (.maxI64 d a b) (fun x y => max (sextN x 64) (sextN y 64)) ∧
     Pair3 d a b (.minN64 d a b) (fun x y => min x y) ∧
     Pair3 d a b (.maxN64 d a b) (fun x y => max x y) ∧
     Pair2w d a b (.shlB64 d a b) (fun x y => x * 2 ^ (y % 64)) ∧
     Pair2w d a b (.shrN64 d a b) (fun x y => x / 2 ^ (y % 64)) ∧
     Pair2w d a b (.shrI64 d a b) (fun x y => sextN x 64 / 2 ^ (y % 64)) ∧
     Pair2 d a (.negI64 d a) (fun x => -x) ∧
     Pair2 d a (.clzB64 d a) (fun x => zerosAhead 64 x) ∧
     Pair2 d a (.popcB64 d a) (fun x => onesIn 64 x) ∧
     Widen d a b (.mulwI32 d a b) (fun x y => sextN x 32 * sextN y 32) ∧
     Widen d a b (.mulwN32 d a b) (fun x y => x * y) ∧
     Pair2w d a b (.addxI64 d a b) (fun x y => x + sextN y 32))

/-- 03 R79: compares write the truth of their condition to pd; the floating ones use the ordering of IEEE
754 on the values of the patterns, without a flush. 03 R80-R82: predicate words, select and the moves. -/
def Obligations.ComparesAndPredicateWordsWriteTheirTruth : Prop :=
  (∀ (p : BitVec 3) (a b : BitVec 7),
     Cmp32 p a b (.cmpEqI32 p a b) (fun x y => x = y) ∧
     Cmp32 p a b (.cmpNeI32 p a b) (fun x y => x ≠ y) ∧
     Cmp32 p a b (.cmpLtI32 p a b) (fun x y => sextN x 32 < sextN y 32) ∧
     Cmp32 p a b (.cmpLeI32 p a b) (fun x y => sextN x 32 ≤ sextN y 32) ∧
     Cmp32 p a b (.cmpLtN32 p a b) (fun x y => x < y) ∧
     Cmp32 p a b (.cmpLeN32 p a b) (fun x y => x ≤ y) ∧
     Cmp64 p a b (.cmpEqI64 p a b) (fun x y => x = y) ∧
     Cmp64 p a b (.cmpNeI64 p a b) (fun x y => x ≠ y) ∧
     Cmp64 p a b (.cmpLtI64 p a b) (fun x y => sextN x 64 < sextN y 64) ∧
     Cmp64 p a b (.cmpLeI64 p a b) (fun x y => sextN x 64 ≤ sextN y 64) ∧
     Cmp64 p a b (.cmpLtN64 p a b) (fun x y => x < y) ∧
     Cmp64 p a b (.cmpLeN64 p a b) (fun x y => x ≤ y) ∧
     Cmp32 p a b (.cmpEqF32 p a b) (fun x y => fvEq (FV.of .f32 x) (FV.of .f32 y)) ∧
     Cmp32 p a b (.cmpNeF32 p a b) (fun x y => !fvEq (FV.of .f32 x) (FV.of .f32 y)) ∧
     Cmp32 p a b (.cmpLtF32 p a b) (fun x y => fvLess (FV.of .f32 x) (FV.of .f32 y)) ∧
     Cmp32 p a b (.cmpLeF32 p a b) (fun x y =>
       fvLess (FV.of .f32 x) (FV.of .f32 y) || fvEq (FV.of .f32 x) (FV.of .f32 y)) ∧
     Cmp32 p a b (.cmpUnF32 p a b) (fun x y => FV.of .f32 x = .nan || FV.of .f32 y = .nan) ∧
     Cmp64 p a b (.cmpEqF64 p a b) (fun x y => fvEq (FV.of .f64 x) (FV.of .f64 y)) ∧
     Cmp64 p a b (.cmpNeF64 p a b) (fun x y => !fvEq (FV.of .f64 x) (FV.of .f64 y)) ∧
     Cmp64 p a b (.cmpLtF64 p a b) (fun x y => fvLess (FV.of .f64 x) (FV.of .f64 y)) ∧
     Cmp64 p a b (.cmpLeF64 p a b) (fun x y =>
       fvLess (FV.of .f64 x) (FV.of .f64 y) || fvEq (FV.of .f64 x) (FV.of .f64 y)) ∧
     Cmp64 p a b (.cmpUnF64 p a b) (fun x y => FV.of .f64 x = .nan || FV.of .f64 y = .nan)) ∧
  ((∀ (d a b : BitVec 3),
     let pw := fun (i : Instr) (f : Bool → Bool → Bool) =>
       Computes i (fun _ => { pdst := [d.toNat] }) always (fun _ l =>
         l.f.setPred d.toNat (f (l.f.pred a.toNat) (l.f.pred b.toNat)))
     pw (.pand d a b) (fun x y => x && y) ∧ pw (.por d a b) (fun x y => x || y) ∧
     pw (.pxor d a b) (fun x y => x != y) ∧ pw (.pandn d a b) (fun x y => x && !y) ∧
     pw (.pnot d a) (fun x _ => !x) ∧ pw (.pmov d a) (fun x _ => x)) ∧
   ∀ (d a b : BitVec 7) (n : BitVec 1) (p : BitVec 3),
     let chosen := fun (l : Lane) => l.f.pred p.toNat != (n == 1#1)
     Computes (.sel d a b n p) (fun _ => { src := [one a, one b], dst := [one d] }) always (fun _ l =>
       l.f.set d.toNat (l.f.reg (if chosen l then a.toNat else b.toNat))) ∧
     Computes (.sel64 d a b n p) (fun _ => { src := [two a, two b], dst := [two d] }) always (fun _ l =>
       l.f.setPair d.toNat (l.f.pair (if chosen l then a.toNat else b.toNat))) ∧
     Computes (.mov d a) (fun _ => { src := [one a], dst := [one d] }) always (fun _ l =>
       l.f.set d.toNat (l.f.reg a.toNat)) ∧
     Computes (.mov64 d a) (fun _ => { src := [two a], dst := [two d] }) always (fun _ l =>
       l.f.setPair d.toNat (l.f.pair a.toNat)) ∧
     Computes (.pget d) (fun _ => { dst := [one d] }) always (fun _ l =>
       l.f.set d.toNat (BitVec.ofNat 32 (((List.range 8).map (fun i =>
         if l.f.pred i then 2 ^ i else 0)).sum))) ∧
     Computes (.pput a) (fun _ => { src := [one a], pdst := [1, 2, 3, 4, 5, 6, 7] }) always (fun _ l =>
       [1, 2, 3, 4, 5, 6, 7].foldl (fun f i => f.setPred i ((l.f.reg a.toNat).getLsbD i)) l.f))

/-- 03 R84-R87: the floating words of majors 0x10 and 0x11, after the flush of inputs and under the
lane's mode; a condition that is not enabled leaves its sticky flag. -/
def Obligations.FloatWordsWriteTheirResult : Prop :=
  ∀ d a b : BitVec 7,
    (∀ t ∈ [(Fmt.f32, Instr.addF32 d a b, fAdd), (.f32, .subF32 d a b, fSub), (.f32, .mulF32 d a b, fMul),
        (.f32, .divF32 d a b, fDiv), (.f64, .addF64 d a b, fAdd), (.f64, .subF64 d a b, fSub),
        (.f64, .mulF64 d a b, fMul), (.f64, .divF64 d a b, fDiv)],
      Float2 t.1 d a b t.2.1 (fun md x y => t.2.2 t.1 md (FV.of t.1 x) (FV.of t.1 y))) ∧
    (∀ t ∈ [(Fmt.f32, Instr.minF32 d a b, false, false), (.f32, .maxF32 d a b, true, false),
        (.f32, .minmF32 d a b, false, true), (.f32, .maxmF32 d a b, true, true),
        (.f64, .minF64 d a b, false, false), (.f64, .maxF64 d a b, true, false)],
      Float2 t.1 d a b t.2.1 (fun md x y => fMinMaxM t.1 md t.2.2.1 t.2.2.2 x y)) ∧
    (∀ t ∈ [(Fmt.f32, Instr.sqrtF32 d a, fSqrt), (.f32, .rcpF32 d a, fRcp), (.f32, .rsqrtF32 d a, fRsqrt),
        (.f32, .exp2F32 d a, fExp2), (.f32, .log2F32 d a, fLog2), (.f32, .tanhF32 d a, fTanh),
        (.f64, .sqrtF64 d a, fSqrt)],
      Float1 t.1 d a t.2.1 (fun md x => t.2.2 t.1 md (FV.of t.1 x))) ∧
    (∀ t ∈ [(Fmt.f32, Instr.floorF32 d a, some RMode.rdn), (.f32, .ceilF32 d a, some .rup),
        (.f32, .truncF32 d a, some .rtz), (.f32, .rintF32 d a, none),
        (.f64, .floorF64 d a, some .rdn), (.f64, .ceilF64 d a, some .rup),
        (.f64, .truncF64 d a, some .rtz), (.f64, .rintF64 d a, none)],
      Float1 t.1 d a t.2.1 (fun md x => fIntegral t.1 (t.2.2.getD md.mode) x)) ∧
    Float3 .f32 d a b (.fmaF32 d a b) ∧ Float3 .f64 d a b (.fmaF64 d a b) ∧
    Row2 d a (.absF32 d a) (fun x => x % 2 ^ 31) ∧
    Row2 d a (.negF32 d a) (fun x => x + 2 ^ 31) ∧
    Row3 d a b (.copysignF32 d a b) (fun x y => x % 2 ^ 31 + y / 2 ^ 31 * 2 ^ 31) ∧
    Pair2 d a (.absF64 d a) (fun x => x % 2 ^ 63) ∧
    Pair2 d a (.negF64 d a) (fun x => x + 2 ^ 63) ∧
    Computes (.classF32 d a) (fun _ => { src := [one a], dst := [one d] }) always (fun s l =>
      l.f.set d.toNat (BitVec.ofNat 32 (fClass .f32 (Fmt.f32.flushIn (s.mode l.f).fzi (l.f.reg a.toNat).toNat)))) ∧
    FloatRow (.ldexpF32 d a b) (fun _ => { src := [one a, one b], dst := [one d] }) d.toNat 1 (fun s l =>
      fLdexp .f32 (s.mode l.f) (inVal .f32 (s.mode l.f) (l.f.reg a.toNat).toNat)
        (sextN (l.f.reg b.toNat).toNat 32))

/-- 03 R86 R88-R90: packed words, conversions and dot products. -/
def Obligations.PackedConvertAndDotWords : Prop :=
  (∀ d a b : BitVec 7,
    (∀ t ∈ [(Fmt.f16, Instr.addF16x2 d a b, fAdd), (.f16, .subF16x2 d a b, fSub),
        (.f16, .mulF16x2 d a b, fMul), (.bf16, .addBf16x2 d a b, fAdd), (.bf16, .subBf16x2 d a b, fSub),
        (.bf16, .mulBf16x2 d a b, fMul)],
      Packed2 t.1 d a b t.2.1 (fun md x y => t.2.2 t.1 md (FV.of t.1 x) (FV.of t.1 y))) ∧
    (∀ t ∈ [(Fmt.f16, Instr.minF16x2 d a b, false), (.f16, .maxF16x2 d a b, true),
        (.bf16, .minBf16x2 d a b, false), (.bf16, .maxBf16x2 d a b, true)],
      Packed2 t.1 d a b t.2.1 (fun md x y => fMinMaxM t.1 md t.2.2 false x y)) ∧
    Packed3 .f16 d a b (.fmaF16x2 d a b) ∧ Packed3 .bf16 d a b (.fmaBf16x2 d a b) ∧
    DotRow .f16 2 d a b (.dot2F16x2 d a b) ∧ DotRow .bf16 2 d a b (.dot2Bf16x2 d a b) ∧
    DotRow .fp8 4 d a b (.dot4E4m3x4 d a b) ∧
    (∀ t ∈ [(Instr.dot4I8x4 d a b, fun (x : Nat) => sextN x 8), (.dot4N8x4 d a b, fun x => (x : Int))],
      Computes t.1 (fun _ => { src := [one a, one b, one d], dst := [one d] }) always (fun _ l =>
        let el := fun (r : BitVec 7) j => t.2 ((l.f.reg r.toNat).toNat / 2 ^ (8 * j) % 2 ^ 8)
        l.f.set d.toNat (BitVec.ofInt 32 ((l.f.reg d.toNat).toNat + el a 0 * el b 0 + el a 1 * el b 1 +
          el a 2 * el b 2 + el a 3 * el b 3))))) ∧
  ∀ (d a : BitVec 7) (src dst : BitVec 5), cvtPairLegal src.toNat dst.toNat = true →
    let n := cvtCount src.toNat dst.toNat
    FloatRow (.cvt d a src dst)
      (fun _ => { src := [cvtOpd src.toNat n a], dst := [cvtOpd dst.toNat n d] })
      d.toNat (cvtOpd dst.toNat n d).n (fun s l =>
        cvtElems (ctlOvt l.x.ctl) (s.mode l.f) src.toNat dst.toNat
          (l.f.val a.toNat (cvtOpd src.toNat n a).n) n 0)

/-- 04 R115, 08 R238: `rsr` and `rdclk` of every listed special register, and `dstat`. 01 R15 R16, 04 R115
R116: `wsr` writes its register in every lane, sr.ctl keeping OVT and SUP, and `lovt` the overflow table of
the skein. -/
def Obligations.SpecialRegistersAreReadAndWritten : Prop :=
  ((∀ (d : BitVec 7) (r : BitVec 8), specialListed r.toNat = true →
     Computes (.rsr d r) (fun _ => { dst := [if specialWide r.toNat then two d else one d] }) always
       (fun s l => if specialWide r.toNat then l.f.setPair d.toNat (readSpecial s l.f l.x r.toNat)
         else l.f.set d.toNat ((readSpecial s l.f l.x r.toNat).setWidth 32)) ∧
     Computes (.rdclk d) (fun _ => { dst := [two d] }) always (fun s l => l.f.setPair d.toNat s.clk) ∧
     Computes (.dstat d) (fun _ => { dst := [two d] }) always
       (fun _ l => l.f.setPair d.toNat (draftStatus l.x))) ∧
   ∀ (d : BitVec 7) (r : BitVec 8) (s : State) (n : Nat) (x : Strand), specialListed r.toNat = false →
     Issues s n x → TakesTrap (.rsr d r) s { cause := .illegalField, mask := maskOf (s.lanes x) }) ∧
  ((∀ (s : State) (n : Nat) (x : Strand) (a : BitVec 7) (r : BitVec 8) (v : DWord), Inv s = true →
     Ready s n x { src := [if specialWide r.toNat then two a else one a] } → specialListed r.toNat = true →
     (∀ l ∈ s.lanes x, (specialRS r.toNat = true → l.x.lr.sup = true) ∧
       specialRefused r.toNat (specialValue l.f a.toNat r.toNat) = false) →
     (r = 0x12 → ∀ l ∈ s.lanes x, l.f.pair a.toNat = v) →
     ∃ t, exec (.wsr a r) s = .next t ∧ OnlyWorkers s t ∧
       (∀ l ∈ s.lanes x, tget t.fibres l.k = some { writeSpecial l.f (laneBlock l.x.lane0 l.x.lr.span)
         r.toNat (specialValue l.f a.toNat r.toNat) with pos := placeAfter s x }) ∧
       (∀ j, tget t.strands j = if j = n then some (strandAfter s x) else tget s.strands j) ∧
       SkeinsAfter s t x (fun _ y => if r = 0x12 then { y with
         ctl := (y.ctl &&& 0xFFFFFF00C000FFFF) ||| (v &&& 0x000000FF3FFF0000) } else y)) ∧
   ∀ (s : State) (n : Nat) (x : Strand) (a : BitVec 7) (w : Word), Inv s = true →
     Ready s n x { src := [one a] } →
     (∀ l ∈ s.lanes x, l.x.lr.sup = true ∧ l.f.reg a.toNat = w ∧ l.x.converting = false) →
     ovtLegal (w.setWidth 16) = true →
     ∃ t, exec (.lovt a) s = .next t ∧ OnlyWorkers s t ∧
       (∀ l ∈ s.lanes x, tget t.fibres l.k = some { l.f with pos := placeAfter s x }) ∧
       (∀ j, tget t.strands j = if j = n then some (strandAfter s x) else tget s.strands j) ∧
       SkeinsAfter s t x (fun _ y => { y with
         ctl := (y.ctl &&& 0xFFFFFFFFFFFF0000) ||| (w.zeroExtend 64 &&& 0xFFFF) }))

/-! ### Checks, waits and traps -/

/-- 01 R11: an operand beyond G raises ILLEGAL_FIELD, and a misaligned one below G OPERAND_ALIGN; the word
then has no other effect. 02 R58, 01 R15, 04 R116 R118: user code that writes a supervisor register, loads
the overflow table or halts takes PRIVILEGED. 04 R97: an indirect target that is misaligned or beyond 51
bits traps, naming the target. 01 R35: where an active lane raises an enabled condition the word takes
NONFINITE in every lane, which names the lanes that raised it and their conditions together. -/
def Obligations.FailedChecksTrap : Prop :=
  (∀ (s : State) (n : Nat) (x : Strand) (g : Nat) (d a b : BitVec 7), Issues s n x →
     (∀ l ∈ s.lanes x, l.x.lr.regs = g) →
     ((g ≤ d.toNat ∨ g ≤ a.toNat ∨ g ≤ b.toNat) →
       TakesTrap (.add d a b) s { cause := .illegalField, mask := maskOf (s.lanes x) }) ∧
     ((g < d.toNat + 2 ∨ g < a.toNat + 2 ∨ g < b.toNat + 2) →
       TakesTrap (.addI64 d a b) s { cause := .illegalField, mask := maskOf (s.lanes x) }) ∧
     (d.toNat + 2 ≤ g ∧ a.toNat + 2 ≤ g ∧ b.toNat + 2 ≤ g →
       (d.toNat % 2 = 1 ∨ a.toNat % 2 = 1 ∨ b.toNat % 2 = 1) →
       TakesTrap (.addI64 d a b) s { cause := .operandAlign, mask := maskOf (s.lanes x) })) ∧
  (∀ (s : State) (n : Nat) (x : Strand) (a : BitVec 7) (r : BitVec 8), Issues s n x →
     (∀ l ∈ s.lanes x, l.x.lr.sup = false ∧ a.toNat + 2 ≤ l.x.lr.regs) →
     (specialRS r.toNat = true →
       TakesTrap (.wsr a r) s { cause := .privileged, mask := maskOf (s.lanes x) }) ∧
     TakesTrap (.lovt a) s { cause := .privileged, mask := maskOf (s.lanes x) } ∧
     TakesTrap .halt s { cause := .privileged, mask := maskOf (s.lanes x) }) ∧
  (∀ (s : State) (m : Nat) (x : Strand) (a : BitVec 7) (v : DWord),
     Ready s m x { src := [two a] } → (∀ l ∈ s.lanes x, l.f.pair a.toNat = v) →
     ∀ i ∈ [Instr.jmp a, .ret a, .jmpU a],
       (v.toNat % 4 ≠ 0 →
         TakesTrap i s { cause := .misaligned, addr := v.toNat, mask := maskOf (s.lanes x) }) ∧
       (v.toNat % 4 = 0 → 2 ^ 51 ≤ v.toNat →
         TakesTrap i s { cause := .bounds, addr := v.toNat, mask := maskOf (s.lanes x) })) ∧
  (∀ (s : State) (n : Nat) (x : Strand) (d a b : BitVec 7),
     Ready s n x { src := [one a, one b], dst := [one d] } →
     ∀ e ∈ [(Instr.addF32 d a b, fAdd), (.subF32 d a b, fSub), (.mulF32 d a b, fMul), (.divF32 d a b, fDiv)],
       let up := fun (l : Lane) =>
         let md := s.mode l.f
         (e.2 .f32 md (inVal .f32 md (l.f.reg a.toNat).toNat)
           (inVal .f32 md (l.f.reg b.toNat).toNat)).cond.raised l.f.fpc
       let bad := (s.lanes x).filter (fun l => l.on && up l != 0)
       bad ≠ [] → TakesTrap e.1 s { cause := .nonfinite, mask := maskOf bad,
                                    detail := bad.foldl (fun m l => m ||| up l) 0 })

/-- 03 R73, 06 R160: a word that reads a register which an outstanding load has still to write waits; only its
strand changes, which its slot may now exchange. 04 R111 R112: `wait` retires once every counter lies within
its bound; `nop`, `yield` and `ipf` change nothing but the place, `yield` besides that the slot may exchange the
strand, `ipf` besides what its prefetch asks the instruction cache for. -/
def Obligations.WaitsHoldWordsBack : Prop :=
  (∀ (s : State) (n : Nat) (x : Strand) (d a b : BitVec 7), Issues s n x →
     (∀ l ∈ s.lanes x, Fits { src := [one a, one b], dst := [one d] } l.x.lr.regs) →
     (∃ l ∈ s.lanes x, l.on = true ∧ ∃ y ∈ l.f.loads, y.covers a.toNat = true ∨ y.covers b.toNat = true) →
     (∀ l ∈ s.lanes x, ∀ y ∈ l.f.loads, y.poisoned = false) →
     ∀ i ∈ [Instr.add d a b, .sub d a b, .xor d a b, .addF32 d a b, .mulF32 d a b],
       ∃ t, exec i s = .next t ∧ t = withWorkers s s.fibres t.strands s.skeins ∧
         ∀ m, tget t.strands m = if m = n then some { x with waits := true } else tget s.strands m) ∧
  ((∀ (s : State) (m : Nat) (x : Strand) (l st : BitVec 4) (c t : BitVec 3), Inv s = true → Issues s m x →
     (∀ y ∈ s.lanes x, y.f.ld ≤ l.toNat ∧ y.f.st ≤ st.toNat ∧ y.x.cp ≤ c.toNat ∧ y.x.tl ≤ t.toNat) →
     (∀ i ∈ [Instr.wait l st c t, .nop], ∃ u, exec i s = .next u ∧ Retires s u m x (fun y => y.f)) ∧
     ∃ u, exec .yield s = .next u ∧
       RetiresAs s u m x { strandAfter s x with yields := true } (fun y => y.f)) ∧
   (∀ (s : State) (k : Nat) (x : Skein) (c t : BitVec 3), Inv s = true → FrontReady s k x → x.cp ≤ c.toNat →
     x.tl ≤ t.toNat → ∀ i ∈ [Instr.wait 15 15 c t, .nop, .yield],
       ∃ u, exec i s = .next u ∧ OnlySkein s u k { x with dog := 0, front := frontAfter s x x.front }) ∧
   ∀ (s : State) (m : Nat) (x : Strand) (o : BitVec 22), Inv s = true → Issues s m x →
     ∃ u, exec (.ipf o) s = .next u ∧
       (∀ y ∈ s.lanes x, tget u.fibres y.k = some { y.f with pos := placeAfter s x }) ∧
       (∀ j, tget u.strands j = if j = m then some (strandAfter s x) else tget s.strands j) ∧
       SkeinsAfter s u x (fun _ y => y) ∧
       ∀ l, (s.lanes x).head? = some l →
         let va := (targetOf x o).toNat
         ((s.cached x.core l.x.lr.ctx (va / 2 ^ 15)).isSome = true → ∀ a, u.byte a = s.byte a) ∧
         ∀ e y, s.buf x.core l.x.lr.ctx l.x.lr.codebuf = some e → e.owner = l.x.lr.ctx → e.ex = true →
           e.base ≤ va → va + 4 ≤ e.base + e.len →
           s.xlateNow x.core l.x.lr.ctx va false (some e.ilv) = .ok y →
           let line := codeLine (if e.ilv = 3 then some e.rdev else none) (y.pa va)
           isRegister (y.pa va) = false → s.cachedCode (clusterOf x.core) line = none →
           line ∈ (tget u.ifetch (clusterOf x.core)).getD [])

/-- 04 R121 R122: a trap whose group is routed enters the handler of every fibre of the issuing strand. 04
R121 R126: any other trap that is not reported through the fault queue stops every fibre of the issuing
strand for system software; in a front context it stops that context. -/
def Obligations.TrapsAreTaken : Prop :=
  (∀ (s : State) (n : Nat) (x : Strand) (t : Trap), Inv s = true → Issues s n x → BinsHaveRoom s x →
     (∀ l ∈ s.lanes x, goesToHandler t l = true) →
     ∃ u, commit s (trapWord t) = .next u ∧ EntersHandler s u n x t) ∧
  ((∀ (s : State) (n : Nat) (x : Strand) (t : Trap), Inv s = true → Issues s n x →
     (∀ l ∈ s.lanes x, goesToHandler t l = false) → t.cause.viaFaultQueue = false →
     ∃ u, commit s (trapWord t) = .next u ∧ StopsForSoftware s u n x t) ∧
   ∀ (s : State) (k : Nat) (x : Skein) (t : Trap), Inv s = true → s.cur.who = some (.front k) →
     tget s.skeins k = some x → t.cause.viaFaultQueue = false →
     ∃ u, commit s (trapWord t) = .next u ∧ FrontStops s u k x t)

/-- 04 R112 R114: `brk` takes BREAKPOINT with the low byte of its code and `trap` takes USER_TRAP with its
code, in every fibre of the strand or in the front context, as their traps are routed. 04 R123: `tret` with
H set clears H and continues at tr.pc in the clause of f.resume, through a card bin, at a header as the target
of the transfer that had led there (02 R41); with H clear it takes PRIVILEGED. -/
def Obligations.BreakTrapAndTretTakeEffect : Prop :=
  ((∀ (s : State) (n : Nat) (x : Strand) (c : BitVec 16) (d : BitVec 8), Inv s = true → Issues s n x →
     BinsHaveRoom s x →
     ∀ e ∈ [(Instr.brk c, Cause.breakpoint, c.toNat % 256), (.trap d, .userTrap, d.toNat)],
       let t : Trap := { cause := e.2.1, detail := e.2.2, mask := maskOf (s.lanes x) }
       ((∀ l ∈ s.lanes x, goesToHandler t l = true) → ∃ u, exec e.1 s = .next u ∧ EntersHandler s u n x t) ∧
       ((∀ l ∈ s.lanes x, goesToHandler t l = false) →
         ∃ u, exec e.1 s = .next u ∧ StopsForSoftware s u n x t)) ∧
   ∀ (s : State) (k : Nat) (x : Skein) (c : BitVec 16) (d : BitVec 8), Inv s = true → FrontReady s k x →
     ∀ e ∈ [(Instr.brk c, Cause.breakpoint, c.toNat % 256), (.trap d, .userTrap, d.toNat)],
       ∃ u, exec e.1 s = .next u ∧ FrontStops s u k x { cause := e.2.1, detail := e.2.2 }) ∧
  (∀ (s : State) (n : Nat) (x : Strand), Inv s = true → Issues s n x → BinsHaveRoom s x →
     ((∀ l ∈ s.lanes x, l.f.h = true ∧ l.f.tr.pc.toNat % 4 = 0) →
       ∃ t, exec .tret s = .next t ∧ Refiles s t n x (fun l =>
         { l.f with
           h := false
           clause := none
           pos := { pc := l.f.tr.pc, hdr := l.f.resume,
                    jumped := l.f.rjump && l.f.tr.pc == l.f.resume } })) ∧
     ((∀ l ∈ s.lanes x, l.f.h = false) →
       TakesTrap .tret s { cause := .privileged, mask := maskOf (s.lanes x) }))

/-! ### Control transfers -/

/-- 04 R97-R104: direct and indirect transfers whose lanes agree: the strand goes on as one, at the target
or behind the clause; calls write the return address. 04 R98 R101 R104 R105: a divergent transfer is a
reform point, `card` is one always; a divergent asserted-uniform branch takes UNIFORMITY, or with DEMOTE set
counts in sr.slip and goes on. -/
def Obligations.TransfersMoveTheirStrands : Prop :=
  ((∀ (s : State) (m : Nat) (x : Strand) (p : BitVec 3) (n : BitVec 1) (o : BitVec 22) (o' : BitVec 14)
     (go : Bool), Inv s = true → Issues s m x → (∀ l ∈ s.lanes x, taken p n l = go) →
     let pos := fun (t : VAddr) => if go then posTo t else posAt (fallOf s x)
     (∃ t, exec (.bra p n o) s = .next t ∧
       Moves s t m x (fun l => { l.f with pos := pos (targetOf x o) }) (pos (targetOf x o)).pc) ∧
     (∃ t, exec (.bruP p n o') s = .next t ∧
       Moves s t m x (fun l => { l.f with pos := pos (targetOf x o') }) (pos (targetOf x o')).pc) ∧
     (∃ t, exec (.call p n o) s = .next t ∧
       Moves s t m x (fun l => { (if go then l.f.setPair 0 ((fallOf s x).zeroExtend 64) else l.f) with
         pos := pos (targetOf x o) }) (pos (targetOf x o)).pc)) ∧
   ∀ (s : State) (m : Nat) (x : Strand) (d a : BitVec 7) (v : DWord), Inv s = true →
     Ready s m x { src := [two a], dst := [two d] } → (∀ l ∈ s.lanes x, l.f.pair a.toNat = v) →
     v.toNat % 4 = 0 → v.toNat < 2 ^ 51 →
     (∀ i ∈ [Instr.jmp a, .ret a, .jmpU a], ∃ t, exec i s = .next t ∧
       Moves s t m x (fun l => { l.f with pos := posTo (v.setWidth 51) }) (v.setWidth 51)) ∧
     ∃ t, exec (.callr d a) s = .next t ∧
       Moves s t m x (fun l => { l.f.setPair d.toNat ((fallOf s x).zeroExtend 64) with
         pos := posTo (v.setWidth 51) }) (v.setWidth 51)) ∧
  (∀ (s : State) (m : Nat) (x : Strand), Inv s = true → Issues s m x → BinsHaveRoom s x →
     (∃ t, exec .card s = .next t ∧ Refiles s t m x (fun l => { l.f with pos := posAt (fallOf s x) })) ∧
     ∀ (p : BitVec 3) (n : BitVec 1) (o : BitVec 22) (o' : BitVec 14) (l1 l2 : Lane), l1 ∈ s.lanes x →
       l2 ∈ s.lanes x → taken p n l1 = true → taken p n l2 = false →
       let pos := fun (t : VAddr) (l : Lane) => if taken p n l then posTo t else posAt (fallOf s x)
       (targetOf x o ≠ fallOf s x → ∃ t, exec (.bra p n o) s = .next t ∧
         Refiles s t m x (fun l => { l.f with pos := pos (targetOf x o) l })) ∧
       ((∀ l ∈ s.lanes x, bitOf l.x.ctl.toNat 22 = true) → targetOf x o' ≠ fallOf s x →
         ∃ t, exec (.bruP p n o') s = .next t ∧
           Refiles s t m x (fun l => { l.f with
             pos := pos (targetOf x o') l
             slip := l.f.slip + 1 })) ∧
       ((∃ l ∈ s.lanes x, bitOf l.x.ctl.toNat 22 = false) →
         TakesTrap (.bruP p n o') s { cause := .uniformity, detail := 2, mask := maskOf (s.lanes x) }))

/-- 03 R83, 04 R101, 06 R163: `dqpop` and `bru.d` take the entry at each active fibre's cursor, which
advances; an entry of another tag traps, and the entries that the cursor of every live fibre has passed are
freed. -/
def Obligations.DecisionWordsTakeTheirEntry : Prop :=
  ∀ (s : State) (m : Nat) (x : Strand) (d t : BitVec 7) (o : BitVec 14) (e : Lane → Decision),
    Inv s = true → Ready s m x { dst := [one d] } →
    (∀ l ∈ s.lanes x, l.on = true → l.x.decision l.f = some (e l)) →
    let kept := fun (u : State) => SkeinsAfter s u x (fun j y =>
      let m := if (s.lanes x).any (fun l => l.on && l.f.sk == j) then passedBy u j y.dqBase y.dq.length else 0
      { y with
        dq := y.dq.drop m
        dqBase := y.dqBase + m })
    ((∀ l ∈ s.lanes x, l.on = true → (e l).tag = t) →
      (∃ u, exec (.dqpop d t) s = .next u ∧ OnlyWorkers s u ∧ kept u ∧
        (∀ l ∈ s.lanes x, tget u.fibres l.k = some { laneAfter { dst := [one d] } (fun l =>
          { l.f.set d.toNat (e l).value with cursor := l.f.cursor + 1 }) l with pos := placeAfter s x }) ∧
        ∀ j, tget u.strands j = if j = m then some (strandAfter s x) else tget s.strands j) ∧
      ∀ go, (∀ l ∈ s.lanes x, l.act = .active ∧ (e l).taken = go) →
        ∃ u, exec (.bruD t o) s = .next u ∧ OnlyWorkers s u ∧ kept u ∧
          ∀ l ∈ s.lanes x, tget u.fibres l.k = some { l.f with
            cursor := l.f.cursor + 1
            pos := if go then posTo (targetOf x o) else posAt (fallOf s x) }) ∧
    ∀ l1, (s.lanes x).filter (fun l => l.on && (e l).tag != t) = [l1] →
      let u : Trap := { cause := .decisionMismatch, mask := l1.bit,
                        detail := (e l1).tag.toNat + if (e l1).taken then 128 else 0 }
      TakesTrap (.dqpop d t) s u ∧ TakesTrap (.bruD t o) s u

/-! ### Special registers, halt and the end of a fibre -/

/-- 04 R118: `halt` stops its issuer behind the word, marks every skein of the strand halted and reports it;
fibres of other skeins go on. -/
def Obligations.HaltStopsTheSkein : Prop :=
  (∀ (s : State) (n : Nat) (x : Strand), Inv s = true → Issues s n x → (∀ l ∈ s.lanes x, l.x.lr.sup = true) →
    ∃ t, exec .halt s = .next t ∧ (∀ a, t.byte a = s.byte a) ∧
      (∀ l ∈ s.lanes x,
        tget t.fibres l.k = some { l.f with
          pos := placeAfter s x
          clause := none
          run := .halted none } ∧
        (∃ y, tget t.skeins l.f.sk = some y ∧ y.halted = true ∧ y.dog = 0) ∧
        stopRecord l.x 2 0 0 {} ∈ (t.die (l.x.core / 64)).stops) ∧
      ∀ k f, k ∉ x.fibs → tget s.fibres k = some f → inStrand s x f.sk = false → tget t.fibres k = some f) ∧
  ∀ (s : State) (k : Nat) (x : Skein), Inv s = true → FrontReady s k x → x.lr.sup = true →
    ∃ t, exec .halt s = .next t ∧ (∀ a, t.byte a = s.byte a) ∧
      tget t.skeins k = some { x with
        dog := 0
        halted := true
        front := { x.front with
          pos := frontPlace s x
          run := .halted
          clause := none } } ∧
      stopRecord x 2 0 0 {} ∈ (t.die (x.core / 64)).stops

/-- 04 R107-R110: `exit` in relay mode without a counter ends the fibres of the strand and leaves memory
alone; in count mode it adds 1 to the 64-bit completion counter, in memory or by a request to the remote device
that holds it, and ends the fibre; in a front context it ends that context.
04 R107 R109: in relay mode `exit.relay` restarts every fibre of the strand at the entry of its table and
keeps the registers that KEEP names; in count mode, or beyond the table, it takes EXIT_MODE. -/
def Obligations.ExitsEndOrRestartTheFibre : Prop :=
  ((∀ (s : State) (n : Nat) (x : Strand), Inv s = true → Issues s n x →
     (∀ l ∈ s.lanes x, l.f.st = 0 ∧ draftLeaveFails l.x l.k = false ∧ l.x.lr.relayMode = true ∧
       l.x.lr.cvalid = false) →
     ∃ t, exec .exit s = .next t ∧ (∀ a, t.byte a = s.byte a) ∧ ∀ l ∈ s.lanes x, tget t.fibres l.k = none) ∧
   (∀ (s : State) (n : Nat) (x : Strand) (l : Lane) (a : Access), Inv s = true → Issues s n x →
     s.lanes x = [l] → l.f.st = 0 → draftLeaveFails l.x l.k = false → l.x.lr.counts = true →
     passes s (counterAsk n l) a → counterReady s l a = true →
     (InMemory s a → isHost a.pa = false →
       ∃ t, exec .exit s = .next t ∧ tget t.fibres l.k = none ∧
         Wrote s t a.pa (bytesOf (ofBytes (s.bytes a.pa 8) + 1) 8)) ∧
     ∀ dev, a.remote = some dev → ∃ t id inc, exec .exit s = .next t ∧ tget t.fibres l.k = none ∧
       (∀ b, t.byte b = s.byte b) ∧ .request id dev inc a.pa (.atomic 1 8 1 0 false) ∈ t.outbox) ∧
   ∀ (s : State) (k : Nat) (x : Skein), Inv s = true → FrontReady s k x →
     ∃ t, exec .exit s = .next t ∧
       OnlySkein s t k { x with dog := 0, front := { frontAfter s x x.front with run := .ended } }) ∧
  ((∀ (s : State) (n : Nat) (x : Strand) (e : BitVec 8) (r : RelayEntry), Inv s = true → Issues s n x →
     BinsHaveRoom s x →
     (∀ l ∈ s.lanes x, l.f.st = 0 ∧ draftLeaveFails l.x l.k = false ∧ l.x.lr.relayMode = true ∧
       l.x.lr.relay[e.toNat]? = some r) →
     ∃ t, exec (.exitRelay e) s = .next t ∧ (∀ a, t.byte a = s.byte a) ∧
       ∀ l ∈ s.lanes x, ∃ g, tget t.fibres l.k = some g ∧ Relayed l.f g r.keep ∧
         g.pos = posTo (BitVec.ofNat 51 r.entry)) ∧
   ∀ (s : State) (n : Nat) (x : Strand) (e : BitVec 8) (mode : Bool), Issues s n x →
     (∀ l ∈ s.lanes x, l.x.lr.relayMode = mode ∧ (mode = true → l.x.lr.relay.length ≤ e.toNat)) →
     TakesTrap (.exitRelay e) s
       { cause := .exitMode, detail := if mode then 1 else 0, mask := maskOf (s.lanes x) })

/-! ### Words of a front context -/

/-- 08 R206: each general form of major 0x3B writes the value of the table, taken modulo 2^64, to s[sd]. 08
R207 R208: `cmps`, the immediate forms and `cmpi`. -/
def Obligations.FrontWordsWriteTheTableValue : Prop :=
  (∀ d a b : BitVec 6,
     FrontRow d a b (.frontAdd d a b) (fun x y => x + y) ∧
     FrontRow d a b (.frontSub d a b) (fun x y => x - y) ∧
     FrontRow d a b (.frontMul d a b) (fun x y => x * y) ∧
     FrontRow d a b (.frontAnd d a b) (fun x y => (x &&& y : Nat)) ∧
     FrontRow d a b (.frontOr d a b) (fun x y => (x ||| y : Nat)) ∧
     FrontRow d a b (.frontXor d a b) (fun x y => (x ^^^ y : Nat)) ∧
     FrontRow d a b (.frontShl d a b) (fun x y => x * 2 ^ (y % 64)) ∧
     FrontRow d a b (.frontShr d a b) (fun x y => x / 2 ^ (y % 64)) ∧
     FrontRow d a b (.frontSra d a b) (fun x y => sextN x 64 / 2 ^ (y % 64)) ∧
     FrontRow d a b (.frontMin d a b) (fun x y => min (sextN x 64) (sextN y 64)) ∧
     FrontRow d a b (.frontMax d a b) (fun x y => max (sextN x 64) (sextN y 64)) ∧
     FrontRow d a a (.frontMov d a) (fun x _ => x)) ∧
  (∀ (d a : BitVec 6) (q : BitVec 3) (k : BitVec 17) (j : BitVec 14),
     let v := fun (x : Skein) (r : BitVec 6) => (x.front.reg r.toNat).toNat
     FrontTest (.cmps q a 0) q (fun x => v x a = 0) ∧
     FrontTest (.cmps q a 1) q (fun x => v x a ≠ 0) ∧
     FrontTest (.cmps q a 2) q (fun x => sextN (v x a) 64 < 0) ∧
     FrontTest (.cmps q a 3) q (fun x => sextN (v x a) 64 ≤ 0) ∧
     FrontTest (.cmps q a 4) q (fun x => 0 < sextN (v x a) 64) ∧
     FrontTest (.cmps q a 5) q (fun x => 0 ≤ sextN (v x a) 64) ∧
     FrontRow d d d (.movsi d k) (fun _ _ => sextN k.toNat 17) ∧
     FrontRow d d d (.addsi d k) (fun x _ => x + sextN k.toNat 17) ∧
     FrontRow d d d (.shlor d k) (fun x _ => (x * 2 ^ 17 ||| k.toNat : Nat)) ∧
     FrontTest (.cmpiEq d q j) q (fun x => sextN (v x d) 64 = sextN j.toNat 14) ∧
     FrontTest (.cmpiLt d q j) q (fun x => sextN (v x d) 64 < sextN j.toNat 14) ∧
     FrontTest (.cmpiLtn d q j) q (fun x => v x d < j.toNat))

/-- 08 R209, 04 R97: front branches go to their target when the guard holds, else behind the clause; `fcall`
writes s63; a bad indirect target traps. -/
def Obligations.FrontBranchesGoToTheirTarget : Prop :=
  ∀ (s : State) (k : Nat) (x : Skein) (q : BitVec 3) (n : BitVec 1) (o : BitVec 20) (a : BitVec 6),
    Inv s = true → FrontReady s k x →
    let go := x.front.pred q.toNat != (n == 1#1)
    let there := x.front.pos.hdr + BitVec.ofInt 51 (4 * o.toInt)
    (go = true →
      FrontGoes (.fbra q n o) s k x x.front (posTo there) ∧
      FrontGoes (.fcall q n o) s k x (x.front.set 63 ((frontFall x).zeroExtend 64)) (posTo there) ∧
      ∀ e ∈ [(Instr.fret q n, 63), (.fjmpr q n a, a.toNat)],
        let t := x.front.reg e.2
        (t.toNat % 4 = 0 → t.toNat < 2 ^ 51 → FrontGoes e.1 s k x x.front (posTo (t.setWidth 51))) ∧
        (t.toNat % 4 ≠ 0 → TakesTrap e.1 s { cause := .misaligned, addr := t.toNat }) ∧
        (t.toNat % 4 = 0 → 2 ^ 51 ≤ t.toNat → TakesTrap e.1 s { cause := .bounds, addr := t.toNat })) ∧
    (go = false → ∀ i ∈ [Instr.fbra q n o, .fcall q n o, .fret q n, .fjmpr q n a],
      FrontGoes i s k x x.front (posAt (frontFall x)))

/-- 04 R115 R116: special registers of a front context: the reads it may make, `wsr` of sr.ctl and `lovt`;
any other number raises ILLEGAL_FIELD, and user code that writes takes PRIVILEGED. 06 R163, 08 R207:
`dqpush` adds an entry with its tag, the truth of its predicate and the low word of its register, as a
release at core scope; entries that every live cursor has passed are freed. -/
def Obligations.FrontSpecialAndQueuePushWords : Prop :=
  ((∀ (d : BitVec 6) (r : BitVec 8), specialFrontReadable r.toNat = true →
     FrontComputes (.rsrFront d r) (fun s x => x.front.set d.toNat (readFrontSpecial s x r.toNat)) ∧
     FrontComputes (.rdclkFront d) (fun s x => x.front.set d.toNat s.clk)) ∧
   ∀ (s : State) (k : Nat) (x : Skein) (a : BitVec 6) (r : BitVec 8), Inv s = true → FrontReady s k x →
     let v := x.front.reg a.toNat
     (specialFrontReadable r.toNat = false → TakesTrap (.rsrFront a r) s { cause := .illegalField }) ∧
     (r ≠ 0x12 → TakesTrap (.wsrFront a r) s { cause := .illegalField }) ∧
     (x.lr.sup = false → TakesTrap (.wsrFront a 0x12) s { cause := .privileged } ∧
       TakesTrap (.lovtFront a) s { cause := .privileged }) ∧
     (x.lr.sup = true → specialRefused 0x12 v = false →
       ∃ t, exec (.wsrFront a 0x12) s = .next t ∧ OnlySkein s t k { x with
         dog := 0
         front := frontAfter s x x.front
         ctl := (x.ctl &&& 0xFFFFFF00C000FFFF) ||| (v &&& 0x000000FF3FFF0000) }) ∧
     (x.lr.sup = true → ovtLegal (v.setWidth 16) = true → x.converting = false →
       ∃ t, exec (.lovtFront a) s = .next t ∧ OnlySkein s t k { x with
         dog := 0
         front := frontAfter s x x.front
         ctl := (x.ctl &&& 0xFFFFFFFFFFFF0000) ||| (v &&& 0xFFFF) })) ∧
  (∀ (s : State) (k : Nat) (x : Skein) (g : BitVec 7) (q : BitVec 3) (a : BitVec 6), Inv s = true →
     FrontReady s k x → x.dq.length < 64 → x.front.stores = [] →
     let e : Decision := { tag := g, taken := x.front.pred q.toNat,
                           value := (x.front.reg a.toNat).setWidth 32 }
     let m := passedBy s k x.dqBase (x.dq.length + 1)
     ∃ t v, exec (.dqpush g q a) s = .next t ∧ Raised true 0 x.front.ivl v ∧ OnlySkein s t k { x with
       dog := 0
       dq := (x.dq ++ [e]).drop m
       dqBase := x.dqBase + m
       front := { frontAfter s x x.front with ivl := v } })

/-! ### Memory words of fibres -/

/-- 05 R137 R138 R140 R146, 07 R176 R197, 11 R277: a load counts one on LD and leaves its destination to be
written when it completes; the word itself changes no other register. 05 R137 R146, 07 R176 R197, 11 R277: a
load completes with the value that its source holds: the constant store, the pool, the stash, a value that
has arrived, or memory at the point of coherence. 11 R292: one that meets an error of the pool is poisoned. -/
def Obligations.LoadsIssueAndComplete : Prop :=
  (∀ (d a : BitVec 7) (b : BitVec 6) (c : BitVec 2) (p : BitVec 1) (x : BitVec 3) (i : BitVec 9)
     (j : BitVec 8),
     let global := fun (e : Instr × Img) (cache scope : Nat) (acq : Bool) =>
       Accesses e.1 (loadRegs e.2 d a) 0 loadRoom
         (fun s n l y => passes s (laneAsk n l a b.toNat s.prefixOffset e.2.bytes true false false
           cache scope) y ∧ y.remote = none)
         (fun s st v l => withLoad s st l.f e.2 d (.mem (v l) acq))
     (∀ e ∈ [(Instr.ldN8 d a b c p, Img.n8), (.ldI8 d a b c p, .i8), (.ldN16 d a b c p, .n16),
         (.ldI16 d a b c p, .i16), (.ldB32 d a b c p, .b32), (.ldB64 d a b c p, .b64),
         (.ldB128 d a b c p, .b128)], global e c.toNat 7 false) ∧
     (∀ e ∈ [(Instr.ldaN8 d a b x, Img.n8), (.ldaI8 d a b x, .i8), (.ldaN16 d a b x, .n16),
         (.ldaI16 d a b x, .i16), (.ldaB32 d a b x, .b32), (.ldaB64 d a b x, .b64),
         (.ldaB128 d a b x, .b128)], global e 1 x.toNat true) ∧
     (∀ e ∈ [(Instr.sldN8 d a i, Img.n8), (.sldI8 d a i, .i8), (.sldN16 d a i, .n16), (.sldI16 d a i, .i16),
         (.sldB32 d a i, .b32), (.sldB64 d a i, .b64), (.sldB128 d a i, .b128)],
       StashRow e.1 (loadRegs e.2 d a) 0 e.2.bytes loadRoom
         (fun s l o => offsetFits s l a i e.2.bytes l.x.lr.stash o ∧ stashOpen s l o e.2.bytes false)
         (fun s st v l => withLoad s st l.f e.2 d (.stash (v l)))) ∧
     (∀ e ∈ [(Instr.cldN8 d a i, Img.n8), (.cldI8 d a i, .i8), (.cldN16 d a i, .n16), (.cldI16 d a i, .i16),
         (.cldB32 d a i, .b32), (.cldB64 d a i, .b64), (.cldB128 d a i, .b128)],
       Accesses e.1 (loadRegs e.2 d a) 0 loadRoom
         (fun s _ l o => offsetFits s l a i e.2.bytes l.x.lr.clen o)
         (fun s st v l => withLoad s st l.f e.2 d (.const (v l)))) ∧
     ∀ e ∈ [(Instr.pldN8 d a j, Img.n8), (.pldI8 d a j, .i8), (.pldN16 d a j, .n16), (.pldI16 d a j, .i16),
         (.pldB32 d a j, .b32), (.pldB64 d a j, .b64), (.pldB128 d a j, .b128)],
       Accesses e.1 (loadRegs e.2 d a) 0 loadRoom
         (fun s _ l o => offsetFits s l a j e.2.bytes l.x.lr.pool o)
         (fun s st v l => withLoad s st l.f e.2 d (.pool (v l)))) ∧
  (∀ (s : State) (k : Nat) (f : Fibre) (x : Skein) (y : Load), Inv s = true → OneLoad s k f x y →
     (∀ o, y.src = .pool o →
       (Config.softError s.fresh = false → (∀ e, s.poolOf f.sk = some e → e.2.poisoned = []) →
         ∃ t, exec (.loadComplete (.fibre k) y.id) s = .next t ∧
           Delivered s t k f y (ofBytes (s.poolBytes f.sk o y.img.bytes))) ∧
       ∀ e, Config.softError s.fresh = true → s.poolOf f.sk = some e → tget s.pools e.1 = some e.2 →
         ∃ t q, exec (.loadComplete (.fibre k) y.id) s = .next t ∧ (∀ b, t.byte b = s.byte b) ∧
           (∀ j, tget t.fibres j = if j = k then some { f with loads := [{ y with poisoned := true }] }
             else tget s.fibres j) ∧
           tget t.pools e.1 = some q ∧ q.bytes = e.2.bytes ∧ ∀ i, i ∈ q.poisoned ↔ i ∈ e.2.poisoned ∨ i = o / 32) ∧
     (∀ o v, (y.src = .const o ∧ v = s.constBytes x.core o y.img.bytes) ∨
         (y.src = .stash o ∧ v = s.stashBytes f.sk o y.img.bytes ∧
           s.stashPoisoned f.sk o y.img.bytes = false ∧ s.fillNeeds f.sk o y.img.bytes false = []) ∨
         (y.src = .value o ∧ v = bytesOf o 16) →
       ∃ t, exec (.loadComplete (.fibre k) y.id) s = .next t ∧ OnlyWorkers s t ∧
         Delivered s t k f y (ofBytes v)) ∧
     ∀ a, y.src = .mem a false → a.n = y.img.bytes → 1 ≤ a.policy → InMemory s a → s.readHeld x.core a = false →
       ∃ t, exec (.loadComplete (.fibre k) y.id) s = .next t ∧
         Delivered s t k f y (ofBytes (s.bytes a.pa a.n)))

/-- 05 R137 R140 R145 R146, 07 R176 R178, 11 R277: a store takes its place at the end of its fibre's queue,
with the low bytes of its registers, and counts one on ST; the word changes no register and no byte of
memory. 05 R140 R145 R146, 11 R279, 15 R361 R374: the oldest store of a fibre whose turn it is is performed:
its bytes are written at its place, or a write packet carries them to the holder of another die; a release
raises the interval counters. -/
def Obligations.StoresQueueAndArePerformed : Prop :=
  (∀ (d a : BitVec 7) (b : BitVec 6) (c : BitVec 2) (x : BitVec 3) (i : BitVec 9) (j : BitVec 8),
     (∀ e ∈ [(Instr.stB8 d a b c, 1), (.stB16 d a b c, 2), (.stB32 d a b c, 4), (.stB64 d a b c, 8),
         (.stB128 d a b c, 16)],
       Accesses e.1 (storeRegs e.2 d a) 1 storeRoom
         (fun s n l y => passes s (laneAsk n l a b.toNat s.prefixOffset e.2 false true false c.toNat 7) y)
         (fun s _ v l => withStore s l.f d e.2 (.mem (v l) none))) ∧
     (∀ e ∈ [(Instr.stlB8 d a b x, 1), (.stlB16 d a b x, 2), (.stlB32 d a b x, 4), (.stlB64 d a b x, 8),
         (.stlB128 d a b x, 16)],
       Accesses e.1 (storeRegs e.2 d a) 1 storeRoom
         (fun s n l y => passes s (laneAsk n l a b.toNat s.prefixOffset e.2 false true false 0 x.toNat) y)
         (fun s _ v l => withStore s l.f d e.2 (.mem (v l) (some (v l).scope)))) ∧
     (∀ e ∈ [(Instr.sstB8 d a i, 1), (.sstB16 d a i, 2), (.sstB32 d a i, 4), (.sstB64 d a i, 8),
         (.sstB128 d a i, 16)],
       StashRow e.1 (storeRegs e.2 d a) 1 e.2 storeRoom
         (fun s l o => offsetFits s l a i e.2 l.x.lr.stash o ∧ stashOpen s l o e.2 true)
         (fun s _ v l => withStore s l.f d e.2 (.stash (v l)))) ∧
     ∀ e ∈ [(Instr.pstB8 d a j, 1), (.pstB16 d a j, 2), (.pstB32 d a j, 4), (.pstB64 d a j, 8),
         (.pstB128 d a j, 16)],
       Accesses e.1 (storeRegs e.2 d a) 1 storeRoom
         (fun s _ l o => offsetFits s l a j e.2 l.x.lr.pool o)
         (fun s _ v l => withStore s l.f d e.2 (.pool (v l)))) ∧
  (∀ (s : State) (k : Nat) (f : Fibre) (core : Nat) (x : Store) (r : List Store), Inv s = true →
     StoreTurn s k f core x r →
     (∀ a rel, x.kind = .mem a rel → a.n = x.data.length → InMemory s a →
       (a.tracked = true → s.server a = core / 64) →
       ∃ t, exec (.storePerformed (.fibre k)) s = .next t ∧ Wrote s t a.pa x.data ∧ LeftQueue t k f x r ∧
         ∃ g, tget t.fibres k = some g ∧ Raised rel.isSome (rel.getD 0) f.ivl g.ivl) ∧
     (∀ a, x.kind = .mem a none → a.remote = none → isPackage a.pa = true → a.tracked = true →
       s.homeGone a.pa = false → s.server a ≠ core / 64 →
       ∃ t, exec (.storePerformed (.fibre k)) s = .next t ∧ (∀ b, t.byte b = s.byte b) ∧
         LeftQueue t k f x r ∧ ∃ q, t.packets = s.packets ++ [q] ∧ q.src = core / 64 ∧
         q.dst = s.server a ∧ q.origin = core ∧ q.access = a ∧ q.data = x.data ∧ q.at_ = .flight) ∧
     (∀ o p, x.kind = .pool o → s.poolOf f.sk = some p → tget s.pools p.1 = some p.2 →
       ∃ t, exec (.storePerformed (.fibre k)) s = .next t ∧ (∀ b, t.byte b = s.byte b) ∧
         LeftQueue t k f x r ∧ ∃ q, tget t.pools p.1 = some q ∧ ∀ i, tget q.bytes i =
           if o ≤ i ∧ i < o + x.data.length then some (x.data.getD (i - o) 0) else tget p.2.bytes i) ∧
     (∀ o y, x.kind = .stash o → tget s.skeins f.sk = some y → y.slots = [] →
       ∃ t, exec (.storePerformed (.fibre k)) s = .next t ∧ (∀ b, t.byte b = s.byte b) ∧
         LeftQueue t k f x r ∧ ∀ i, t.stashByte f.sk i =
           if o ≤ i ∧ i < o + x.data.length then x.data.getD (i - o) 0 else s.stashByte f.sk i))

/-- 05 R141 R142: an atomic takes its place in the store queue with its operation, data and compare value
and, unless `.nr`, counts on LD as the load of the old value. 05 R141-R143: an atomic whose turn it is
reads, computes and writes as one, and its load has the old value; the aggregator performs a group of
atomics of one word to one place one after another. -/
def Obligations.AtomicsQueueAndArePerformed : Prop :=
  (∀ (d a : BitVec 7) (b : BitVec 6) (n : BitVec 1),
     ∀ e ∈ [(Instr.atomAddI32 d a b n, 0), (.atomAddI64 d a b n, 1), (.atomMinI32 d a b n, 2),
         (.atomMaxI32 d a b n, 3), (.atomMinN32 d a b n, 4), (.atomMaxN32 d a b n, 5),
         (.atomAndB32 d a b n, 6), (.atomOrB32 d a b n, 7), (.atomXorB32 d a b n, 8),
         (.atomXchgB32 d a b n, 9), (.atomXchgB64 d a b n, 10), (.atomCasB32 d a b n, 11),
         (.atomCasB64 d a b n, 12), (.atomCasB128 d a b n, 13), (.atomFaddF32 d a b n, 14),
         (.atomFaddF64 d a b n, 15), (.atomFaddF16x2 d a b n, 16), (.atomFaddBf16x2 d a b n, 17),
         (.atomFminF32 d a b n, 18), (.atomFmaxF32 d a b n, 19), (.atomFminF64 d a b n, 20),
         (.atomFmaxF64 d a b n, 21), (.atomFminF16x2 d a b n, 22), (.atomFmaxF16x2 d a b n, 23),
         (.atomFminBf16x2 d a b n, 24), (.atomFmaxBf16x2 d a b n, 25)],
       Accesses e.1 { src := [one a, (atomForm e.2).opd d] } 1
         (fun l => storeRoom l ∧ (n = 0 → loadRoom l))
         (fun s k l y => passes s { laneAsk k l a b.toNat s.prefixOffset (atomBytes e.2) true true true 0
             s.atomScope with aop := some e.2 } y ∧ y.remote = none)
         (fun s x v l => withAtomic s x l.f e.2 d (n != 0) (v l))) ∧
  ((∀ (s : State) (k : Nat) (f : Fibre) (core : Nat) (x : Store) (r : List Store) (a : Access)
     (op scope cmp : Nat) (load : Option Nat), Inv s = true → StoreTurn s k f core x r →
     x.kind = .atom a op scope cmp load → InMemory s a → s.groupMembers x.group = [(k, f)] →
     let old := ofBytes (s.bytes a.pa a.n)
     ∃ t, exec (.storePerformed (.fibre k)) s = .next t ∧
       Wrote s t a.pa (bytesOf (atomValue op a.n old (ofBytes x.data) cmp) a.n) ∧ LeftQueue t k f x r ∧
       ∃ g, tget t.fibres k = some g ∧ ∀ i y, load = some i → f.loads.find? (fun z => z.id == i) = some y →
         ∃ z, g.loads.find? (fun z => z.id == i) = some z ∧ z.src = .value old) ∧
   ∀ (s : State) (k1 k2 : Nat) (f1 f2 : Fibre) (x1 x2 : Store) (r1 r2 : List Store) (core : Nat)
     (a : Access) (op scope c1 c2 : Nat), Inv s = true → StoreTurn s k1 f1 core x1 r1 →
     s.groupMembers x1.group = [(k1, f1), (k2, f2)] → x2.group = x1.group →
     tget s.fibres k2 = some f2 → f2.stores = x2 :: r2 → x2.sent = false → s.coreOf (.fibre k2) = some core →
     (∀ y ∈ r1, y.group ≠ x1.group) → f1.loads = [] → f2.loads = [] → k1 ≠ k2 →
     x1.kind = .atom a op scope c1 none → x2.kind = .atom a op scope c2 none →
     a.tracked = false → InMemory s a →
     let mid := atomValue op a.n (ofBytes (s.bytes a.pa a.n)) (ofBytes x1.data) c1
     ∃ t, exec (.aggregatorGroup [k1, k2]) s = .next t ∧
       Wrote s t a.pa (bytesOf (atomValue op a.n (ofBytes (bytesOf mid a.n)) (ofBytes x2.data) c2) a.n) ∧
       LeftQueue t k1 f1 x1 r1 ∧ LeftQueue t k2 f2 x2 r2)

/-- 05 R131 R133: the checks of an access in their order, in a strand of one lane: the first that fails
gives the trap, with the address that its rule names. -/
def Obligations.AccessChecksTrapInOrder : Prop :=
  ∀ (s : State) (n : Nat) (x : Strand) (l : Lane) (d a : BitVec 7) (b : BitVec 6) (c : BitVec 2)
    (p : BitVec 1),
    ∀ e ∈ [(Instr.ldN8 d a b c p, 1, false), (.ldI8 d a b c p, 1, false), (.ldN16 d a b c p, 2, false),
        (.ldI16 d a b c p, 2, false), (.ldB32 d a b c p, 4, false), (.ldB64 d a b c p, 8, false),
        (.ldB128 d a b c p, 16, false), (.stB8 d a b c, 1, true), (.stB16 d a b c, 2, true),
        (.stB32 d a b c, 4, true), (.stB64 d a b c, 8, true), (.stB128 d a b c, 16, true)],
    Inv s = true → Ready s n x (storeRegs e.2.1 d a) → s.lanes x = [l] → l.on = true → l.f.awaited = none →
    loadRoom l → storeRoom l → Quiet s →
    let off : Int := (l.f.reg a.toNat).toNat + s.prefixOffset
    let traps := fun (c : Cause) (addr : Int) => TakesTrap e.1 s
      { cause := c, detail := if e.2.2 then 1 else 0, mask := l.bit, addr := zextI addr 64 }
    (l.x.lr.binding b.toNat = none → traps .binding off) ∧
    ∀ k, l.x.lr.binding b.toNat = some k →
      s.entryHeld l.x.core l.x.lr.ctx k = false →
      (s.buf l.x.core l.x.lr.ctx k = none → traps .binding off) ∧
      ∀ y, s.buf l.x.core l.x.lr.ctx k = some y →
        let right := if e.2.2 then y.wr else y.rd
        (y.owner ≠ l.x.lr.ctx → traps .owner (y.base + off)) ∧
        (y.owner = l.x.lr.ctx → right = false → traps .rights (y.base + off)) ∧
        (y.owner = l.x.lr.ctx → right = true →
          (off % e.2.1 ≠ 0 → traps .misaligned (y.base + off)) ∧
          (off % e.2.1 = 0 → (off < 0 ∨ (y.len : Int) < off + e.2.1) → traps .bounds (y.base + off)))

/-- 05 R144, 02 R47, 15 R374: a fence whose orders hold retires: an acquire of wider than core scope drops
the L1 copies of its core, the flags drop shape records and code, and a release raises the interval counters
of its scope and of every narrower one. -/
def Obligations.FencesRetireWhenTheyHold : Prop :=
  ∀ (f i r e : BitVec 1) (c : BitVec 3),
    ∀ w ∈ [(Instr.fenceAcq f c i r e, true, false), (.fenceRel f c i r e, false, true),
        (.fenceAcqrel f c i r e, true, true), (.fenceSc f c i r e, true, true)],
    let acq := w.2.1
    let rel := w.2.2
    (∀ (s : State) (n : Nat) (x : Strand) (l0 : Lane), Inv s = true → Issues s n x →
      (s.lanes x).head? = some l0 →
      (∀ l ∈ s.lanes x, (∀ y ∈ l.f.loads, y.poisoned = true ∨ y.abandoned = true) ∧
        (rel = true ∨ i ≠ 0 → l.f.stores = [] ∧ l.f.twrs = 0 ∧ s.flushed l0.x.core c.toNat = true) ∧
        (e ≠ 0 → l.f.steers = [])) →
      ∃ t, exec w.1 s = .next t ∧ FenceEffects s t l0.x.core c.toNat acq (i != 0) (r != 0) ∧
        (∀ l ∈ s.lanes x, ∃ v, Raised rel c.toNat l.f.ivl v ∧
          tget t.fibres l.k = some { l.f with
            ivl := v
            pos := placeAfter s x }) ∧
        (∀ k, k ∉ x.fibs → tget t.fibres k = tget s.fibres k) ∧
        (∀ m, tget t.strands m = if m = n then some (strandAfter s x) else tget s.strands m) ∧
        SkeinsAfter s t x (fun _ y => y)) ∧
    ∀ (s : State) (k : Nat) (x : Skein), Inv s = true → FrontReady s k x →
      (rel = true ∨ i ≠ 0 → x.front.stores = [] ∧ s.flushed x.core c.toNat = true) →
      (e ≠ 0 → x.cpq = [] ∧ x.tlq = []) →
      ∃ t, exec w.1 s = .next t ∧ FenceEffects s t x.core c.toNat acq (i != 0) (r != 0) ∧
        t.fibres = s.fibres ∧ t.strands = s.strands ∧ ∃ v, Raised rel c.toNat x.front.ivl v ∧
        ∀ j, tget t.skeins j = if j = k then some { x with
          dog := 0
          front := { frontAfter s x x.front with ivl := v } } else tget s.skeins j

/-- 14 R343 R344: a steering word counts one on ST in each active lane whose range is not empty and not of a
remote device, and works in the background: page by page, on every row that holds a byte of a translated page or,
for `pfl2`, on each line of the range, one at a time; a page that does not translate or is not of package memory
is skipped, and behind the last page ST falls. -/
def Obligations.SteeringWordsBeginAndEnd : Prop :=
  (∀ (d a : BitVec 7) (b : BitVec 6),
    ∀ e ∈ [(Instr.promotePin d a b, 0), (.promoteCache d a b, 1), (.demote d a b, 2), (.pfl2 d a b, 3)],
      Accesses e.1 { src := [one a, one d] } 0 storeRoom
        (fun s _ l (v : Option Steer) =>
          let len := (l.f.reg d.toNat).toNat
          let off : Int := (l.f.reg a.toNat).toNat + s.prefixOffset
          ∃ k y, l.x.lr.binding b.toNat = some k ∧ s.entryHeld l.x.core l.x.lr.ctx k = false ∧
            EntryAtHand s l.x.core l.x.lr.ctx k ∧ s.buf l.x.core l.x.lr.ctx k = some y ∧
            y.owner = l.x.lr.ctx ∧ y.rd = true ∧ (len ≠ 0 → 0 ≤ off ∧ off + len ≤ y.len) ∧
            v = if len = 0 ∨ y.ilv = 3 then none else some
              { id := 0, op := e.2, ctx := l.x.lr.ctx, base := (y.base + off).toNat, len := len,
                ilv := y.ilv, lcls := y.lcls, trk := y.trk })
        (fun _ _ v l => match v l with
          | none => l.f
          | some u => { l.f with
              steers := l.f.steers ++ [{ u with id := l.f.nextId }]
              nextId := l.f.nextId + 1 })) ∧
  ∀ (s : State) (k : Nat) (f : Fibre) (x : Skein) (u : Steer), Inv s = true → tget s.fibres k = some f →
    tget s.skeins f.sk = some x → f.steers = [u] →
    let step := exec (.steeringComplete k u.id) s
    let pages := piecesOf u.base u.len
    let at_ := fun (t : State) (page item : Nat) => ∀ j, tget t.fibres j = if j = k then some { f with
      steers := if pages.length ≤ page then [] else [{ u with page := page, item := item }] } else tget s.fibres j
    let skips := ∃ t, step = .next t ∧ OnlyWorkers s t ∧ at_ t (u.page + 1) 0
    (pages.length ≤ u.page → ∃ t, step = .next t ∧ OnlyWorkers s t ∧ at_ t u.page 0) ∧
    ∀ va n, pages[u.page]? = some (va, n) →
      (s.xlateHeld x.core u.ctx va false = true → step = .next s) ∧
      (s.xlateHeld x.core u.ctx va false = false →
        (∀ c, s.xlateNow x.core u.ctx va false (some u.ilv) = .error c → skips) ∧
        ∀ y, s.xlateNow x.core u.ctx va false (some u.ilv) = .ok y →
          let base := y.pa va / 32768 * 32768
          let rows := s.rowsIn base 32768
          let lines := linesIn (y.pa va) n
          let m := if u.op = 3 then lines.length else rows.length
          (∀ r, r ∈ rows ↔ ∃ i, i < 256 ∧ r = (s.bankOf (base + 128 * i), rowOfPa (base + 128 * i))) ∧
          (isPackage (y.pa va) = false ∨ m ≤ u.item → skips) ∧
          (isPackage (y.pa va) = true → u.item < m → (s.cached x.core u.ctx (va / 2 ^ 15)).isSome = true →
            let goes := ∃ t, step = .next t ∧
              (if u.item + 1 < m then at_ t u.page (u.item + 1) else at_ t (u.page + 1) 0) ∧
              t.regs = s.regs ∧ ∀ b, t.byte b = s.byte b
            (u.op ≠ 3 → goes) ∧
            ∀ i, u.op = 3 → lines[u.item]? = some i →
              let a : Access := { unitAccess (i * 128) 128 with tracked := u.trk && bitOf y.pte.toNat 5 }
              (s.readHeld x.core a = true → step = .next s) ∧
              (s.readHeld x.core a = false → (a.tracked = true → s.reach a.pa a.n ≠ .recall) → goes)))

/-! ### Cross-lane words -/

/-- 03 R91-R96: shuffles, reductions and votes over members that are the lanes of the strand: each active
lane takes its result from the active members, and the members go on together. -/
def Obligations.CrossLaneWordsActTogether : Prop :=
  ∀ (d a b : BitVec 7) (p q m : BitVec 3),
    CrossShuffle (.xshflIdx d a b m) d a b m (fun l k => some (l.x.lane0 + k % l.x.lr.span)) ∧
    CrossShuffle (.xshflUp d a b m) d a b m (fun l k =>
      if l.x.lane0 + k ≤ l.f.lane.toNat then some (l.f.lane.toNat - k) else none) ∧
    CrossShuffle (.xshflDown d a b m) d a b m (fun l k =>
      if l.f.lane.toNat + k < l.x.lane0 + l.x.lr.span then some (l.f.lane.toNat + k) else none) ∧
    CrossShuffle (.xshflXor d a b m) d a b m (fun l k =>
      some (l.x.lane0 + ((l.f.lane.toNat - l.x.lane0) ^^^ (k % l.x.lr.span)))) ∧
    CrossRed (.xredAddI32 d a m) d a m (fun v => (v.sum : Nat)) ∧
    CrossRed (.xredMinI32 d a m) d a m (fun v => v.foldl (fun x y => min x (sextN y 32)) (2 ^ 31)) ∧
    CrossRed (.xredMaxI32 d a m) d a m (fun v => v.foldl (fun x y => max x (sextN y 32)) (-2 ^ 31)) ∧
    CrossRed (.xredMinN32 d a m) d a m (fun v => (v.foldl min (2 ^ 32 - 1) : Nat)) ∧
    CrossRed (.xredMaxN32 d a m) d a m (fun v => (v.foldl max 0 : Nat)) ∧
    CrossRed (.xredAnd d a m) d a m (fun v => (v.foldl (fun x y => x &&& y) (2 ^ 32 - 1) : Nat)) ∧
    CrossRed (.xredOr d a m) d a m (fun v => (v.foldl (fun x y => x ||| y) 0 : Nat)) ∧
    CrossRed (.xredXor d a m) d a m (fun v => (v.foldl (fun x y => x ^^^ y) 0 : Nat)) ∧
    CrossFloat (.xredAddF32 d a m) d a m (fun s l v =>
      let md := (laneMode s.rs l.f.fpc).mode
      finishSum .f32 { mode := md } (exactSum md (v.map f32v))) ∧
    CrossFloat (.xredMinF32 d a m) d a m (fun _ _ v =>
      { bits := reduceExtreme false (v.map (fun w => w.toNat)) }) ∧
    CrossFloat (.xredMaxF32 d a m) d a m (fun _ _ v =>
      { bits := reduceExtreme true (v.map (fun w => w.toNat)) }) ∧
    CrossRow (.ballot d q m) { dst := [two d] } m (fun _ _ _ => True) (fun _ ls l =>
      l.f.setPair d.toNat (maskOf (ls.filter (fun y => y.f.pred q.toNat)))) ∧
    CrossRow (.any p q m) { pdst := [p.toNat] } m (fun _ _ _ => True) (fun _ ls l =>
      l.f.setPred p.toNat (ls.any (fun y => y.f.pred q.toNat))) ∧
    CrossRow (.all p q m) { pdst := [p.toNat] } m (fun _ _ _ => True) (fun _ ls l =>
      l.f.setPred p.toNat (ls.all (fun y => y.f.pred q.toNat))) ∧
    CrossRow (.uni p a m) { src := [one a], pdst := [p.toNat] } m (fun _ _ _ => True) (fun _ ls l =>
      l.f.setPred p.toNat (ls.all (fun y => ls.all (fun z => y.f.reg a.toNat == z.f.reg a.toNat))))

/-! ### Memory words of a front context -/

/-- 08 R210 R211: the loads and stores of a front context: a load leaves its destination to be written when
it completes, a store takes its place in the queue; the word changes no s register. -/
def Obligations.FrontMemoryWordsIssue : Prop :=
  ∀ (s : State) (k : Nat) (x : Skein) (d a b i : BitVec 6) (u : Access), Inv s = true → FrontReady s k x →
    (∀ e ∈ [(Instr.ldS64 d a b i, Img.b64), (.ldS32 d a b i, .b32)],
      passes s (frontAsk k x a b i e.2.bytes true false) u → u.remote = none →
      ∃ t, exec e.1 s = .next t ∧ FrontChecked s t k x 0 { x.front with
        loads := [{ id := x.front.nextId, img := e.2, dst := d.toNat, n := 1, src := .mem u false,
                    pc := x.front.pos.pc, word := s.cur.word }]
        nextId := x.front.nextId + 1 }) ∧
    ∀ e ∈ [(Instr.stS64 d a b i, 8), (.stS32 d a b i, 4)],
      passes s (frontAsk k x a b i e.2 false true) u →
      ∃ t, exec e.1 s = .next t ∧ FrontChecked s t k x 1 { x.front with
        stores := x.front.stores ++ [{ id := x.front.nextId, group := s.nextKey, kind := .mem u none,
                                       data := bytesOf (x.front.reg d.toNat).toNat e.2 }]
        nextId := x.front.nextId + 1 }

/-! ### Sliver records and stash fills -/

/-- 07 R199-R204: sliver words in a strand of one lane whose stash has no mapping windows: `shdr` writes the
header's four words, `sst.sliv` the record of a dense vector, and `sld.sliv` the dense vector of a record; the
passes are the lines that the word touches (07 R179). -/
def Obligations.SliverWordsMoveTheirRecord : Prop :=
  ∀ (s : State) (n : Nat) (x : Strand) (l : Lane) (d a : BitVec 7) (f : BitVec 2), Inv s = true →
    s.lanes x = [l] → l.on = true → l.f.loads = [] → l.f.stores = [] → storeRoom l → l.x.slots = [] →
    (Ready s n x { src := [one a], dst := [four d] } →
      (l.f.reg a.toNat).toNat % 128 = 0 → (l.f.reg a.toNat).toNat + 16 ≤ l.x.lr.stash →
      ∃ t, exec (.shdr d a) s = .next t ∧ RetiresChecked s t n x 0 (fun l =>
        { l.f.setVal d.toNat 4 (ofBytes (s.stashBytes l.f.sk (l.f.reg a.toNat).toNat 16)) with
          spass := l.f.spass + 1 })) ∧
    let es := (slivForm f).2
    let num := stashNat s l.f.sk
    let reg := fun (r : Nat) => (l.f.reg r).toNat
    let size := l.x.lr.stash
    let legal := fun (e : Nat) => e % 64 = 0 ∧ 64 ≤ e ∧ e ≤ 65536
    let leaves := fun (i : Instr) (lines lo hi : Nat) (wrote : (Nat → Nat → Nat) → Prop) =>
      ∃ t, exec i s = .next t ∧ (∀ j, t.byte j = s.byte j) ∧ wrote (stashNat t l.f.sk) ∧
        (∀ j, j < lo ∨ hi ≤ j → t.stashByte l.f.sk j = s.stashByte l.f.sk j) ∧
        tget t.fibres l.k = some { l.f with
          spass := l.f.spass + BitVec.ofNat 32 lines
          pos := placeAfter s x }
    (f ≠ 3 → Ready s n x { src := [two d, two a] } →
      let rec_ := reg d.toNat
      let cap := reg (d.toNat + 1)
      let dense := reg a.toNat
      let e := reg (a.toNat + 1)
      let el := fun (i : Nat) => num (dense + es * i) es
      let kept := fun (i : Nat) => decide (el i % 2 ^ (8 * es - 1) ≠ 0)
      let z := countBelow e kept
      let v := slivValues e
      let bytes := v + z * es
      rec_ % 128 = 0 → dense % 16 = 0 → legal e → 1 ≤ cap → cap ≤ 4096 → rec_ + 128 * cap ≤ size →
      dense + e * es ≤ size → dense + e * es ≤ rec_ ∨ rec_ + 128 * cap ≤ dense → bytes ≤ 128 * cap →
      leaves (.sstSliv d a f) (linesMet size [(dense, e * es), (rec_, bytes)]) rec_ (rec_ + bytes) (fun now =>
        now rec_ 2 = 0x534C ∧ now (rec_ + 2) 1 = (slivForm f).1 ∧
        now (rec_ + 3) 1 = (if z = 0 then 3 else 2) ∧ now (rec_ + 4) 4 = e ∧ now (rec_ + 8) 4 = z ∧
        now (rec_ + 12) 2 = cap ∧
        now (rec_ + 14) 2 = (if num rec_ 2 = 0x534C ∧ (num (rec_ + 3) 1).testBit 1 = true
          then (num (rec_ + 14) 2 + 1) % 65536 else 1) ∧ now (rec_ + 16) 16 = 0 ∧
        (∀ i, i < e → (now (rec_ + 32 + i / 8) 1).testBit (i % 8) = kept i) ∧
        (∀ i, 32 + e / 8 ≤ i → i < v → now (rec_ + i) 1 = 0) ∧
        ∀ i, i < e → kept i = true → now (rec_ + v + es * countBelow i kept) es = el i)) ∧
    (f ≠ 3 → Ready s n x { src := [two d, one a] } →
      let rec_ := reg a.toNat
      let dense := reg d.toNat
      let e := num (rec_ + 4) 4
      let z := num (rec_ + 8) 4
      let cap := num (rec_ + 12) 2
      let zero := (num (rec_ + 3) 1).testBit 0
      let kept := fun (i : Nat) => (num (rec_ + 32 + i / 8) 1).testBit (i % 8)
      let v := slivValues e
      let bytes := v + z * es
      rec_ % 128 = 0 → dense % 16 = 0 → rec_ + bytes ≤ size → dense + reg (d.toNat + 1) * es ≤ size →
      num rec_ 2 = 0x534C → (num (rec_ + 3) 1).testBit 1 = true → num (rec_ + 2) 1 = (slivForm f).1 → legal e →
      z ≤ e → 1 ≤ cap → cap ≤ 4096 → bytes ≤ 128 * cap → e ≤ reg (d.toNat + 1) →
      (zero = false → countBelow e kept = z) → dense + e * es ≤ rec_ ∨ rec_ + bytes ≤ dense →
      leaves (.sldSliv d a f) (linesMet size [(rec_, if zero then 16 else bytes), (dense, e * es)])
        dense (dense + e * es) (fun now => ∀ i, i < e → now (dense + es * i) es =
          if zero = false ∧ kept i = true then num (rec_ + v + es * countBelow i kept) es else 0))

/-- 07 R183 R184, 12 R304 R307: a stash fill whose bytes translate and are not poisoned leaves its line filled
with the bytes of memory, its tracked bytes registered, and the fill is over for the words that waited for it. 05 R134, 12 R308 R309: a page walk that reaches a
leaf which serves its one waiter holds the translation in the die's cache and sets the A bit, and the D bit
for a write; a walk that fails keeps its cause for the waiter. -/
def Obligations.FillsAndPageWalksEnd : Prop :=
  (∀ (s : State) (f : Fill) (m : Mapping) (l : List FillByte), Inv s = true → s.fills = [f] →
     f.done = false → f.writes = none → tget s.maps f.map = some m → m.filled.contains f.line = false →
     m.ilv ≠ 3 → s.regs = [] → s.fillHeld { map := f.map, line := f.line, writes := none } = false →
     s.fillBytes m ((List.range 128).filterMap (fun i =>
       if f.line * 128 + i < m.desc.size then some (f.line * 128 + i) else none)) = .ok l →
     (∀ b ∈ l, s.fillPoisoned b = false ∧ (s.cached m.core m.ctx (b.va / 2 ^ 15)).isSome = true ∧
       ∀ c ∈ l, c.pa = b.pa → c.o = b.o) →
     (linesOf (l.filter (fun b => b.tracked))).length ≤ 16 →
     ∃ t, exec (.stashFillComplete f.map f.line) s = .next t ∧ (∀ b, t.byte b = s.byte b) ∧
       (∃ y, tget t.maps f.map = some y ∧ y.filled.contains f.line = true ∧ y = { m with
           bytes := y.bytes
           filled := y.filled
           poisoned := m.poisoned.filter (fun k => k != f.line) } ∧
         (∀ b ∈ l, y.byte b.o = s.byte b.pa) ∧ ∀ o, (∀ b ∈ l, b.o ≠ o) → y.byte o = m.byte o) ∧
       (∀ b ∈ l, b.tracked = true → ∃ r, tget t.regs (lineOf b.pa) = some r ∧ r.map = f.map ∧
         tget r.offs (b.pa % 128) = some b.o) ∧
       ∀ g ∈ t.fills, g.done = true ∧ g.fault = none) ∧
  (∀ (s : State) (die ctx page : Nat) (y : WalkWaiter), Inv s = true →
     (s.die die).walks = [{ ctx := ctx, page := page, waiters := [y] }] →
     s.agentCore die y.agent / 64 = die → s.regs = [] → s.walkHeld die ctx (page * 2 ^ 15) = false →
     (∀ c, s.walk die ctx (page * 2 ^ 15) = .error c →
       ∃ t, exec (.pageWalkComplete die ctx page) s = .next t ∧ (∀ b, t.byte b = s.byte b) ∧
         (t.die die).kept y.agent ctx page = some c) ∧
     ∀ l, s.walk die ctx (page * 2 ^ 15) = .ok l → s.leafCheck l page y.write y.ilv = none →
       s.readsPoison (unitAccess l.at_ 8) = false →
       ∃ t, exec (.pageWalkComplete die ctx page) s = .next t ∧ (t.die die).walks = [] ∧
         (∃ x ∈ (t.die die).xlats, x.ctx = ctx ∧ x.page = l.page ∧ x.size = l.size ∧ x.pte.toNat = l.pte ∧
           x.frame = l.frame ∧ x.dirty = (y.write || bitOf l.pte 13)) ∧
         t.readMem l.at_ 8 = s.readMem l.at_ 8 ||| (2 ^ 12 + if y.write then 2 ^ 13 else 0) ∧
         ∀ b, (b < l.at_ ∨ l.at_ + 8 ≤ b) → t.byte b = s.byte b)

/-! ### Knots -/

/-- 06 R165 R167 R168: `karm` and `karm.byte` begin phase 0 and reset every fibre's record; `kexpect` posts
its bytes and completes the phase when they are credited; `kwait` passes or waits; `kstat` reads. -/
def Obligations.KnotWordsActOnTheirKnot : Prop :=
  ∀ (s : State) (n : Nat) (x : Strand) (l : Lane) (k : BitVec 4) (v d : BitVec 7),
    let y := l.x.knot k.toNat
    let c := (l.f.reg v.toNat).toNat
    k.toNat < l.x.lr.knots → NoOneWaits s l.f.sk → l.x.halted = false →
    (∀ e ∈ [(Instr.karm k v, { src := [one v] : Regs }, true), (.karmByte k, {}, false)],
      Alone s n x l e.2.1 → y.ties = 0 → y.posted = false → (e.2.2 = true → 1 ≤ c ∧ c ≤ 1024) →
      ∃ t, exec e.1 s = .next t ∧ OnlyWorkers s t ∧
        tget t.skeins l.f.sk = some { withKnot l.x k.toNat { y with
          memberMode := e.2.2
          c := if e.2.2 then c else y.c
          b := if e.2.2 then y.b else 0
          p := 0
          ties := 0
          posted := false
          error := false } with dog := 0 } ∧
        ∀ j f, tget s.fibres j = some f → tget t.fibres j =
          some (let g := if f.sk = l.f.sk then f.setRec k.toNat 0xFFFFFFFF else f
            if j = l.k then { g with pos := placeAfter s x } else g)) ∧
    (Alone s n x l { src := [one v] } → y.error = false → y.memberMode = false → y.posted = false →
      y.open_ = none → 1 ≤ c → c < 2 ^ 31 →
      let z : Knot := { y with
        b := y.b - c
        posted := true }
      ∃ t, exec (.kexpect k v) s = .next t ∧ RetiresAlone s t n x l (l.f.setRec k.toNat y.p)
        (withKnot l.x k.toNat (if (c : Int) ≤ y.b then nextPhase z else z))) ∧
    (Alone s n x l {} → y.error = false →
      (serialPassed y.p (l.f.phase k.toNat) = true →
        ∃ t, exec (.kwait k) s = .next t ∧ RetiresAlone s t n x l l.f l.x) ∧
      (serialPassed y.p (l.f.phase k.toNat) = false →
        ∃ t, exec (.kwait k) s = .next t ∧ ParksAlone s t n x l l.f l.x (.knot k.toNat))) ∧
    (Alone s n x l { dst := [two d] } →
      ∃ t, exec (.kstat k d) s = .next t ∧ RetiresAlone s t n x l (l.f.setPair d.toNat
        (y.p ++ (if y.memberMode then BitVec.ofNat 32 y.ties else BitVec.ofInt 32 y.b))) l.x)

/-- 06 R167 R169, 08 R233 R236: `tie`, `tiew`, `dload` and `dend` join the open phase; the last tie completes
it: P advances, and a `dload` opens the draft set or a `dend` closes it. -/
def Obligations.TiesJoinAndCompletePhases : Prop :=
  ∀ (k : BitVec 4) (a : BitVec 7),
    TieRow (.tie k) {} k.toNat .tie (fun _ => []) none false (fun _ _ => True) ∧
    TieRow (.dload a k) { src := [two a] } k.toNat .dload
      (fun l => [l.f.reg a.toNat, l.f.reg (a.toNat + 1)]) none false
      (fun _ l => l.x.lr.draft = true ∧ l.x.draft.loaded = false) ∧
    TieRow (.dend k) {} k.toNat .dend (fun _ => []) none false
      (fun _ l => ∃ r, DraftMemberOf l r ∧ l.x.draft.undealt r = false) ∧
    ∀ (s : State) (n : Nat) (x : Strand) (l : Lane), NoOneWaits s l.f.sk →
      let y := l.x.knot k.toNat
      let last := y.ties + 1 = y.c
      (Alone s n x l {} → TieOpen s l k.toNat .tie →
        (∀ i ∈ [Instr.tie k, .tiew k], last → (∀ w, y.open_ = some w → w.op = .tie) →
          ∃ t v, exec i s = .next t ∧ Raised true 0 l.f.ivl v ∧
            RetiresAlone s t n x l (tiedFibre s x l k.toNat none false v)
              (withKnot l.x k.toNat (nextPhase y))) ∧
        (¬ last → l.x.halted = false →
          ∃ t v, exec (.tiew k) s = .next t ∧ Raised true 0 l.f.ivl v ∧
            ParksAlone s t n x l (tiedFibre s x l k.toNat none false v)
              (withKnot l.x k.toNat (joinedKnot s x l k.toNat .tie [] none)) (.knot k.toNat))) ∧
      (Alone s n x l { src := [two a] } → TieOpen s l k.toNat .dload → l.x.lr.draft = true →
        l.x.draft.loaded = false → y.open_ = none → y.members = [] → y.c = 1 → y.ties = 0 →
        let len := (l.f.reg (a.toNat + 1)).toNat
        ∃ t z, exec (.dload a k) s = .next t ∧ tget t.skeins l.f.sk = some z ∧
          z.draft = { isOpen := true, n := 1, total := len, members :=
            [{ fib := l.k, start := l.f.reg a.toNat, len := len }] } ∧
          z.knot k.toNat = nextPhase y ∧ ∀ b, t.byte b = s.byte b) ∧
      (∀ r, Alone s n x l {} → TieOpen s l k.toNat .dend → DraftMemberOf l r →
        l.x.draft.undealt r = false → y.open_ = none → last →
        ∃ t z g, exec (.dend k) s = .next t ∧ tget t.skeins l.f.sk = some z ∧ z.draft = {} ∧
          tget t.fibres l.k = some g ∧ g.dtag = l.f.dtag &&& 0x0FFFFFFFFFF ∧ ∀ b, t.byte b = s.byte b)

/-- 09 R246-R249 R261 R262, 06 R169: a knotted tile word joins the phase of its knot; the last tie issues its
operation; a `trd` or `tstat` counts on LD and a `twr` on ST until the phase is performed, which gives the members their
bytes of the slice, or the status, or writes their bytes into the tile. -/
def Obligations.KnottedTileWordsTieTheirOperation : Prop :=
  ∀ (d a b k sl : BitVec 4) (r : BitVec 7) (f : BitVec 1) (c : BitVec 1) (e : BitVec 1) (w : BitVec 2),
    let pr := c.toNat + 2 * f.toNat
    let three := fun (minor : Nat) => (⟨minor, pr, d.toNat, a.toNat, b.toNat⟩ : TileWord)
    let ops : List (Instr × TileWord) :=
      [(.mmaKnotted d a b k f c, three 0), (.mmzKnotted d a b k f c, three 1),
       (.plyKnotted d a b k f c, three 2),
       (.tldKnotted d k e f c, { minor := 3, flags := pr + 4 * e.toNat, td := d.toNat }),
       (.tstKnotted a k f w, { minor := 4, flags := w.toNat + 4 * f.toNat, ta := a.toNat }),
       (.tzeroKnotted d k, { minor := 5, flags := 0, td := d.toNat }),
       (.tsclKnotted d k, { minor := 6, flags := 0, td := d.toNat }),
       (.tcvtKnotted d a k, { minor := 7, flags := 0, td := d.toNat, ta := a.toNat })]
    let op := fun (w : TileWord) => KnotOp.tile w.minor w.flags w.td w.ta w.tb
    (∀ e ∈ ops, TieRow e.1 {} k.toNat (op e.2) (fun _ => []) none false (tileLegal e.2)) ∧
    (∀ e ∈ ops, e.2.minor ≠ 2 → ∀ s n x l, Alone s n x l {} → TieOpen s l k.toNat (op e.2) →
      tileLegal e.2 s l → NoOneWaits s l.f.sk → (l.x.knot k.toNat).open_ = none →
      (l.x.knot k.toNat).ties + 1 = (l.x.knot k.toNat).c →
      ∃ t v, exec e.1 s = .next t ∧ Raised true 0 l.f.ivl v ∧
        RetiresAlone s t n x l (tiedFibre s x l k.toNat none false v)
          (withTileOp (withKnot l.x k.toNat (nextPhase (l.x.knot k.toNat))) e.2 x.pos.pc none)) ∧
    TieRow (.trd d r k sl) { dst := [four r] } k.toNat (.trd d.toNat sl.toNat r.toNat) (fun _ => [])
      (some (.b128, r)) false (tileLegal { minor := 8, flags := 0, td := d.toNat }) ∧
    TieRow (.twr d r k sl) { src := [four r] } k.toNat (.twr d.toNat sl.toNat r.toNat)
      (fun l => [l.f.reg r.toNat, l.f.reg (r.toNat + 1), l.f.reg (r.toNat + 2), l.f.reg (r.toNat + 3)])
      none true (tileLegal { minor := 9, flags := 0, td := d.toNat }) ∧
    TieRow (.tstatKnotted d r k c) { dst := [two r] } k.toNat (.tstat d.toNat r.toNat (c == 1))
      (fun _ => []) (some (.b64, r)) false (tileLegal { minor := 10, flags := c.toNat, td := d.toNat }) ∧
    ∀ s n x l,
      let y := l.x.knot k.toNat
      let own := fun (load : Bool) (cap : List Word) =>
        (⟨l.k, l.f.idx.toNat, cap, if load then some l.f.nextId else none⟩ : Member)
      let all := fun (m : Member) => y.members ++ [m]
      let tile := l.x.tile d.toNat
      let place := fun (j : Nat) => 1024 * sl.toNat + 16 * j
      let ends := fun (m : Member) => l.x.tops = [] ∧ l.x.queues = [] ∧ NoOneWaits s l.f.sk ∧ y.ties + 1 = y.c ∧
        ((all m).map (fun g => g.idx)).Nodup ∧ ((all m).map (fun g => g.fib)).Nodup ∧
        ∀ g ∈ all m, (tget s.fibres g.fib).isSome = true
      let done := fun (t : State) (tiles : Table Tile) => (∀ b, t.byte b = s.byte b) ∧
        tget t.skeins l.f.sk = some { withKnot l.x k.toNat (nextPhase y) with
          dog := 0
          nextId := l.x.nextId + 1
          tiles := tiles }
      (Alone s n x l { dst := [four r] } → TieOpen s l k.toNat (.trd d.toNat sl.toNat r.toNat) → loadRoom l →
        tileLegal { minor := 8, flags := 0, td := d.toNat } s l → ends (own true []) →
        ∃ t, exec (.trd d r k sl) s = .next t ∧ done t l.x.tiles ∧
          LoadsGiven t (all (own true [])) (fun j => if j < 64 then ofBytes (tile.bytes (place j) 16) else 0)) ∧
      (Alone s n x l { dst := [two r] } → TieOpen s l k.toNat (.tstat d.toNat r.toNat (c == 1)) → loadRoom l →
        tileLegal { minor := 10, flags := c.toNat, td := d.toNat } s l → ends (own true []) →
        ∃ t, exec (.tstatKnotted d r k c) s = .next t ∧
          done t (if c = 1 then tput l.x.tiles d.toNat tile.cleared else l.x.tiles) ∧
          LoadsGiven t (all (own true [])) (fun _ => (tile.status (l.x.tileBusy d.toNat)).toNat)) ∧
      let data := [l.f.reg r.toNat, l.f.reg (r.toNat + 1), l.f.reg (r.toNat + 2), l.f.reg (r.toNat + 3)]
      (Alone s n x l { src := [four r] } → TieOpen s l k.toNat (.twr d.toNat sl.toNat r.toNat) → storeRoom l →
        tileLegal { minor := 9, flags := 0, td := d.toNat } s l → ends (own false data) →
        tableWf tile.image = true → (∀ g ∈ y.members, g.captured.length = 4) →
        ∃ t u, exec (.twr d r k sl) s = .next t ∧ done t (tput l.x.tiles d.toNat u) ∧
          u = { tile with
            image := u.image
            zero := u.zero } ∧
          (u.zero = true ↔ ∀ i j, i < tile.shape.rows → j < tile.shape.cols →
            zeroElem tile.shape.fmt (elemAt u i j) = true) ∧
          (∀ g ∈ all (own false data), rankOf (all (own false data)) g < 64 → ∀ i, i < 16 →
            u.bytes (place (rankOf (all (own false data)) g) + i) 1 =
              [BitVec.ofNat 8 ((g.captured.getD (i / 4) 0).toNat / 256 ^ (i % 4))]) ∧
          (∀ i, i < 16384 → (∀ g ∈ all (own false data), rankOf (all (own false data)) g < 64 →
              (i < place (rankOf (all (own false data)) g) ∨ place (rankOf (all (own false data)) g) + 16 ≤ i)) →
            u.bytes i 1 = tile.bytes i 1) ∧
          (∃ g, tget t.fibres l.k = some g ∧ g.twrs = l.f.twrs) ∧
          ∀ g ∈ y.members, ∃ f h, tget s.fibres g.fib = some f ∧ tget t.fibres g.fib = some h ∧
            h = { f with twrs := f.twrs - 1 })

/-! ### Tiles -/

/-- 09 R246-R249, 11 R286: a front-issued tile word that passes its checks joins the engine and TL; a dense
`tld` and a `tzero` clear the status of their destination, and a `ply` takes the next number of its core. 08
R207, 09 R241-R243 R262: `tstat`, `wtc` and `rtc` in a front context. -/
def Obligations.FrontTileWordsAndRegisters : Prop :=
  (∀ (s : State) (k : Nat) (x : Skein) (d a b : BitVec 4) (f c e : BitVec 1) (w : BitVec 2),
     let pr := c.toNat + 2 * f.toNat
     let three := fun (minor : Nat) => (⟨minor, pr, d.toNat, a.toNat, b.toNat⟩ : TileWord)
     (∀ o ∈ [(Instr.mma d a b f c, three 0), (.mmz d a b f c, three 1),
         (.tld d e f c, { minor := 3, flags := pr + 4 * e.toNat, td := d.toNat }),
         (.tst a f w, { minor := 4, flags := w.toNat + 4 * f.toNat, ta := a.toNat }),
         (.tzero d, { minor := 5, flags := 0, td := d.toNat }),
         (.tscl d, { minor := 6, flags := 0, td := d.toNat }),
         (.tcvt d a, { minor := 7, flags := 0, td := d.toNat, ta := a.toNat })],
       TileReady s k x o.2 → ∃ t, exec o.1 s = .next t ∧ OnlySkein s t k
         { withTileOp x o.2 x.front.pos.pc none with
           dog := 0
           front := frontAfter s x x.front }) ∧
     (TileReady s k x (three 2) →
       let q := tgetD (s.core x.core).plies x.launch 0
       ∃ t, exec (.ply d a b f c) s = .next t ∧
         t = { withWorkers s s.fibres s.strands t.skeins with
           cores := t.cores
           nextKey := s.nextKey + 1 } ∧
         (∀ j, t.core j = if j = x.core then
           { s.core j with plies := tput (s.core j).plies x.launch (q + 1) } else s.core j) ∧
         ∀ j, tget t.skeins j = if j = k then some { withTileOp x (three 2) x.front.pos.pc (some (q, s.nextKey)) with
           dog := 0
           front := frontAfter s x x.front } else tget s.skeins j)) ∧
  (∀ (s : State) (k : Nat) (x : Skein) (t4 : BitVec 4) (a : BitVec 6) (c : BitVec 1), Inv s = true →
     FrontReady s k x → t4.toNat < x.lr.tiles →
     let y := x.tile t4.toNat
     let v := (x.front.reg a.toNat).toNat % 2 ^ 60
     ((c = 1 → x.marking t4.toNat = false) →
       ∃ t, exec (.tstat t4 a c) s = .next t ∧ OnlySkein s t k { x with
         dog := 0
         tiles := if c = 1 then tput x.tiles t4.toNat y.cleared else x.tiles
         front := frontAfter s x (x.front.set a.toNat (y.status (x.tileBusy t4.toNat))) }) ∧
     (∃ t, exec (.rtc a t4) s = .next t ∧ OnlySkein s t k { x with
       dog := 0
       front := frontAfter s x (x.front.set a.toNat (y.control (x.tileBusy t4.toNat))) }) ∧
     (tcLegal v = false → TakesTrap (.wtc t4 a) s { cause := .tileShape, detail := 1 }) ∧
     (tcLegal v = true → x.tileBusy t4.toNat = false →
       ∃ t, exec (.wtc t4 a) s = .next t ∧ OnlySkein s t k { x with
         dog := 0
         tiles := tput x.tiles t4.toNat ({ y with tc := BitVec.ofNat 60 v } : Tile).rezero
         front := frontAfter s x x.front }))

/-- 09 R245 R247 R251-R260, 07 R205, 11 R286 R287 R291: the oldest operation of a skein is performed and leaves the
engine and TL: a product, a load, a store, `tzero`, `tscl` and `tcvt` leave what their rules compute; an mmz stands at
a step boundary between. Sixteen plies that agree begin together and complete with their blocks; those that do not
agree end with ERR, and a ply that fails leaves ERR and is reported. -/
def Obligations.TileOperationsComplete : Prop :=
  (∀ (s : State) (k : Nat) (x : Skein) (o : TileOp), Inv s = true → OneTileOp s k x o → x.onCore = true →
    o.held = false → x.slots = [] →
    let a := x.tile o.ta
    let b := x.tile o.tb
    let d := x.tile o.td
    let acc := bitOf o.flags 0
    let goes := exec (.tileOpComplete k) s
    (productRule s x o.word = none → TilesSet x [o.td, o.ta, o.tb] →
      (o.minor = 0 → ∃ t u, goes = .next t ∧ TileDone s t k x o u ∧ Computed d u acc o.pc (fun m n =>
        productOf a b sumProducts o.flags m n (List.range a.shape.cols) (elemAt d m n))) ∧
      (o.minor = 1 → MmzStands x o → o.step ≤ (stepsOf a b).length →
        ((stepsOf a b).length ≤ o.step + 16 →
          ∃ t u, goes = .next t ∧ TileDone s t k x o u ∧ Computed d u acc o.pc (fun m n =>
            productOf a b unitSum o.flags m n ((List.range a.shape.cols).filter (fun i =>
              storedAt a i m && storedAt b i n)) (elemAt d m n))) ∧
        (o.step + 16 < (stepsOf a b).length → ∃ t, goes = .next t ∧ OnlySkein s t k { x with
          tops := [{ o with
            step := o.step + 16
            sums := partialSums a b ((stepsOf a b).take (o.step + 16)) }] }))) ∧
    (o.minor = 5 → ∃ t, goes = .next t ∧ TileDone s t k x o { d with
      image := []
      scales := []
      marks := []
      zero := true }) ∧
    (o.minor = 7 → cvtPair a.shape.fmt d.shape.fmt = true → a.shape.rows = d.shape.rows →
      a.shape.cols = d.shape.cols → o.td ≠ o.ta → TilesSet x [o.td, o.ta] →
      ∃ t u f, goes = .next t ∧ TileDone s t k x o u ∧ tileFmt d.shape.fmt = some f ∧
        Computed d u false o.pc (fun r c =>
          if r < a.shape.valid then some (roundTo f (tileValue a.shape.fmt (elemAt a r c))) else none)) ∧
    (o.minor = 3 → o.word.sparse = false → moveRule x o.word = none → TilesSet x [o.td] →
      let h := d.shape
      let canon := h.layout != 2 && !bitOf o.flags 2
      ∃ t u, goes = .next t ∧ TileDone s t k x o u ∧ u = { d with
          image := u.image
          scales := u.scales
          marks := []
          zero := u.zero } ∧
        RowsHold d u (fun r j => if r < h.valid ∧ j < h.rowBytes then
          some (s.stashByte k (placeIn canon h.soff r j)) else none) ∧
        ScalesFrom s k d u (h.soff + if canon then 64 * h.rowBytes else 256 * h.rows) acc) ∧
    (o.minor = 3 → o.word.sparse = true → moveRule x o.word = none → TilesSet x [o.td] →
      let h := d.shape
      let bits := fun (r : Nat) => stashNat s k (h.soff + 128 * r) 16
      let ones := fun (r : Nat) => onesIn 128 (bits r)
      let fine := fun (r : Nat) => ones r ≤ 112 ∨ ones r = 128
      let value := fun (r j : Nat) => ((sparsePlace h (bits r) r j).map (fun i => s.stashByte k i)).getD 0
      ((∀ r, r < h.valid → fine r) →
        ∃ t u, goes = .next t ∧ TileDone s t k x o u ∧
          u = { recorded d false o.pc 0 ((List.range h.valid).flatMap (fun r => (List.range 128).map (fun j =>
              { bits := (value r j).toNat }))) with
            image := u.image
            scales := u.scales
            marks := u.marks
            zero := u.zero } ∧
          (∀ r, tget u.marks r = if r < h.valid then some (BitVec.ofNat 128 (bits r)) else tget d.marks r) ∧
          RowsHold d u (fun r j => if r < h.valid ∧ j < 128 then some (value r j) else none) ∧
          ScalesFrom s k d u ((h.soff + 144 * h.rows + 127) / 128 * 128) acc) ∧
      ((∃ r, r < h.valid ∧ ¬ fine r) →
        ∃ t u, goes = .next t ∧ TileDone s t k x o u ∧ u.err = true ∧ u.ecode = 6 ∧ u.ppc = ppcOf o.pc ∧
          ∀ r, r < 64 → (∀ j, j < 256 → rowByte u r j = rowByte d r j) ∨
            (r < h.valid ∧ fine r ∧ (∀ j, j < 128 → rowByte u r j = value r j) ∧
              ∀ j, 128 ≤ j → j < 256 → rowByte u r j = rowByte d r j))) ∧
    (o.minor = 6 → moveRule x o.word = none → TilesSet x [o.td] →
      ∃ t u, goes = .next t ∧ TileDone s t k x o u ∧ u = { d with scales := u.scales } ∧
        ScalesFrom s k d u (d.shape.soff + 64 * d.shape.rowBytes) true) ∧
    (o.minor = 4 → moveRule x o.word = none → TilesSet x [o.ta] →
      let h := a.shape
      let row := fun (r : Nat) => match convFmt (o.flags % 4) with
        | none => a.row r h.rowBytes
        | some f => (List.range h.cols).flatMap (fun c =>
            bytesOf (convert o.ovt {} (.flt .f32) (.flt f) (elemAt a r c)).bits (f.width / 8))
      let at_ := placeIn (bitOf o.flags 2) h.soff
      ∃ t z, goes = .next t ∧ (∀ i, t.byte i = s.byte i) ∧ tget t.skeins k = some { x with
          tops := []
          tlq := []
          stash := z } ∧
        (∀ r j, r < h.valid → j < (row r).length → t.stashByte k (at_ r j) = (row r).getD j 0) ∧
        (∀ i, (∀ r j, r < h.valid → j < (row r).length → i ≠ at_ r j) → t.stashByte k i = s.stashByte k i) ∧
        (∀ j f, tget s.fibres j = some f → ∃ g, tget t.fibres j = some g ∧ g = { f with loads := g.loads }) ∧
        ∀ j, j ≠ k → tget t.skeins j = tget s.skeins j)) ∧
  ∀ (s : State) (launch plane : Nat) (l : List (Nat × TileOp)) (xs : Nat → Skein), Inv s = true →
    (∀ e ∈ l, PlyMember s e (xs e.1)) →
    let agree := ∀ e ∈ l, ∀ g ∈ l, s.plyKey e = s.plyKey g
    let ended := fun (t : State) (e : Nat × TileOp) (z : Tile) => tget t.skeins e.1 = some { xs e.1 with
      tops := []
      tlq := []
      tiles := tput (xs e.1).tiles e.2.td z }
    (s.plySet launch plane false = some l → s.plyTurn launch plane = true →
      (agree → ∃ t, exec (.plyBegin launch plane) s = .next t ∧ t = { s with skeins := t.skeins } ∧
        ∀ e ∈ l, tget t.skeins e.1 = some { xs e.1 with tops := [{ e.2 with begun := true }] }) ∧
      (¬ agree → ∃ t, exec (.plyBegin launch plane) s = .next t ∧ t = { s with skeins := t.skeins } ∧
        ∀ e ∈ l, ended t e { (xs e.1).tile e.2.td with
          err := true
          ecode := 8
          ppc := ppcOf e.2.pc })) ∧
    (s.plySet launch plane true = some l → agree →
      let at_ := fun (q : Nat) (e : Nat × TileOp) (r c : Nat) =>
        plyElem s l q e.2.flags r c (elemAt ((xs e.1).tile e.2.td) r c)
      (∃ t, exec (.plyComplete launch plane) s = .next t ∧ t = { s with skeins := t.skeins } ∧
        ∀ q e, l[q]? = some e → ∃ u, ended t e u ∧
          Computed ((xs e.1).tile e.2.td) u (bitOf e.2.flags 0) e.2.pc (at_ q e)) ∧
      ∃ t, exec (.plyFail launch plane) s = .next t ∧ t = { s with
          skeins := t.skeins
          fresh := s.fresh + 1
          outbox := s.outbox ++ [.plyFailed launch plane] } ∧
        ∀ q e, l[q]? = some e → ∃ u, ended t e u ∧ u.err = true ∧ u.ecode = 10 ∧ u.ppc = ppcOf e.2.pc ∧
          ∀ r c, r < 64 → c < 64 → elemAt u r c = elemAt ((xs e.1).tile e.2.td) r c ∨
            (at_ q e r c).map (fun g => g.bits) = some (elemAt u r c))

/-! ### Draft sets -/

/-- 08 R234 R235: `dnext` deals the next iteration of the flattened loop to its member, `dred` adds a term to
the accumulator of the iteration's owner, and `dget` reads the member's own result once every iteration is
reduced. -/
def Obligations.DraftWordsDealAndReduce : Prop :=
  ∀ (s : State) (n : Nat) (x : Strand) (l : Lane) (r : Nat) (d : BitVec 7) (p : BitVec 3) (t2 o2 : BitVec 2),
    DraftMemberOf l r →
    let u := l.x.draft
    let m := u.at_ r
    let g := m.cursor * u.n + r
    let opd := if t2 = 2 then two d else one d
    let mode := (t2.toNat, o2.toNat)
    let begun := fun (b : Bool) (y : DraftMember) => { y with
      pending := b
      cursor := m.cursor + 1 }
    (Alone s n x l { dst := [two d], pdst := [p.toNat] } → m.pending = false →
      (∀ own off, g < u.total → own < u.members.length → off < (u.at_ own).len →
        g = ((u.members.take own).map (fun y => y.len)).sum + off →
        ∃ t, exec (.dnext d p) s = .next t ∧ RetiresAlone s t n x l
          { ((l.f.set d.toNat ((u.at_ own).start + BitVec.ofNat 32 off)).set (d.toNat + 1)
              (BitVec.ofNat 32 own)).setPred p.toNat true with
            dtag := BitVec.ofNat 41 (2 ^ 40 + own * 2 ^ 32 + off) }
          { l.x with draft := { u.mapAt r (begun true) with dealt := u.dealt + 1 } }) ∧
      (u.total ≤ g → ∃ t, exec (.dnext d p) s = .next t ∧
        RetiresAlone s t n x l (l.f.setPred p.toNat false)
          { l.x with draft := u.mapAt r (begun false) })) ∧
    (Alone s n x l { src := [opd] } → m.pending = true → u.mode.getD mode = mode →
      let own := l.f.dtag.toNat / 2 ^ 32 % 2 ^ 8
      let added := fun (y : DraftMember) => { y with acc := y.acc.add mode (l.f.val d.toNat opd.n) }
      let ended := fun (y : DraftMember) => { y with pending := false }
      ∃ t, exec (.dred d t2 o2) s = .next t ∧ RetiresAlone s t n x l l.f
        { l.x with draft := { (u.mapAt own added).mapAt r ended with
            reduced := u.reduced + 1
            mode := some mode } }) ∧
    (Alone s n x l { dst := [opd] } → u.total ≤ u.reduced → u.mode.getD mode = mode →
      ∃ t, exec (.dget d t2 o2) s = .next t ∧
        RetiresAlone s t n x l (l.f.setVal d.toNat opd.n (m.acc.result mode))
          { l.x with draft := { u with mode := some mode } })

/-! ### Barriers -/

/-- 06 R170 R171, 11 R281, 12 R297, 13 R328: `bar` arrives and passes when its generation is complete, else it
waits; `barv` arrives, writes the generation and goes on; `barw` waits for the generation that it reads. -/
def Obligations.BarrierWordsArriveAndWait : Prop :=
  ∀ (s : State) (n : Nat) (x : Strand) (l : Lane) (a : BitVec 7), (∀ k, NoOneWaits s k) → l.f.stores = [] →
    l.x.halted = false →
    ∀ e ∈ [(0, Instr.barSkein, Instr.barvSkein a, Instr.barwSkein a), (1, .barClus, .barvClus a, .barwClus a),
        (2, .barDie, .barvDie a, .barwDie a), (3, .barPkg, .barvPkg a, .barwPkg a)],
      let level : Nat := e.1
      let here := fun (f : Fibre) (v : Table DWord) => { f with
        arrivals := tputD f.arrivals level 0 (l.f.count level + 1)
        ivl := v }
      (1 ≤ level → s.flushed l.x.core level = true) →
      (Alone s n x l {} →
        let done := (arrived s l level).barrierDone l.f.sk level (l.f.count level)
        (done = true → ∃ t v, exec e.2.1 s = .next t ∧ Raised true level l.f.ivl v ∧
          PassesBarrier s t n x l (here l.f v) level) ∧
        (done = false → ∃ t v, exec e.2.1 s = .next t ∧ Raised true level l.f.ivl v ∧
          ParksAlone s t n x l (here l.f v) l.x (.barrier level (l.f.count level)))) ∧
      (Alone s n x l { dst := [one a] } →
        ∃ t v, exec e.2.2.1 s = .next t ∧ Raised true level l.f.ivl v ∧
          RetiresAlone s t n x l (here (l.f.set a.toNat (l.f.count level)) v) l.x) ∧
      (Alone s n x l { src := [one a] } →
        let done := s.barrierDone l.f.sk level (l.f.reg a.toNat)
        (done = true → ∃ t, exec e.2.2.2 s = .next t ∧ PassesBarrier s t n x l l.f level) ∧
        (done = false → ∃ t, exec e.2.2.2 s = .next t ∧
          ParksAlone s t n x l l.f l.x (.barrier level (l.f.reg a.toNat))))

/-! ### Bobbin queues and the decision queue -/

/-- 08 R212-R215: a push writes its value at the tail of the ring in the stash, a pop reads the head; where
the queue is full or empty the fibre waits; `qallow` sets the allowance and `qinit` the queue. -/
def Obligations.QueueWordsPassValues : Prop :=
  (∀ (s : State) (n : Nat) (x : Strand) (l : Lane) (v : BitVec 7) (q : BitVec 4), QueueReady s l q.toNat →
    let y := l.x.queue q.toNat
    let w := l.f.reg v.toNat
    let head := s.headEntry l.f.sk y
    (Alone s n x l { src := [one v] } →
      ∀ e ∈ [(Instr.qpush v q, QueueOp.push), (.qhpush v q, .hpush)],
        (e.2 = .hpush → w.toNat % 16 < l.x.lr.tiles ∧ l.x.tileBusy (w.toNat % 16) = false) →
        (y.count < y.allow →
          ∃ t z g, exec e.1 s = .next t ∧ (∀ b, t.byte b = s.byte b) ∧
            StashWrote s t l.f.sk (y.base + 4 * (y.tail % y.depth)) w ∧
            tget t.skeins l.f.sk = some z ∧ z.queue q.toNat = { y with
              tail := y.tail + 1
              count := y.count + 1 } ∧
            tget t.fibres l.k = some g ∧ Raised true 0 l.f.ivl g.ivl ∧ g.v = l.f.v ∧
            g.pos = placeAfter s x) ∧
        (y.allow ≤ y.count → l.x.halted = false → ∃ t, exec e.1 s = .next t ∧
          ParksAlone s t n x l l.f { l.x with nextId := l.x.nextId + 1 }
            (.queue q.toNat e.2 v.toNat l.x.nextId))) ∧
    (Alone s n x l { dst := [one v] } →
      ∀ e ∈ [(Instr.qpop v q, QueueOp.pop), (.qhpop v q, .hpop)],
        (y.count ≠ 0 → (e.2 = .hpop → head.toNat % 16 < l.x.lr.tiles) →
          ∃ t, exec e.1 s = .next t ∧ RetiresAlone s t n x l (l.f.set v.toNat head)
            (withQueue l.x q.toNat { y with
              head := y.head + 1
              count := y.count - 1 })) ∧
        (y.count = 0 → l.x.halted = false → ∃ t, exec e.1 s = .next t ∧
          ParksAlone s t n x l l.f { l.x with nextId := l.x.nextId + 1 }
            (.queue q.toNat e.2 v.toNat l.x.nextId))) ∧
    (Alone s n x l { src := [one v] } → w.toNat ≤ y.depth → ∃ t, exec (.qallow v q) s = .next t ∧
      RetiresAlone s t n x l l.f (withQueue l.x q.toNat { y with allow := w.toNat }))) ∧
  ∀ (s : State) (k : Nat) (x : Skein) (d : BitVec 6) (q : BitVec 4), Inv s = true → FrontReady s k x →
    q.toNat < x.lr.queues → NoOneWaits s k → (∀ e ∈ s.fibres, e.2.sk = k → e.2.atQueue q.toNat = false) →
    s.queueRefused x (x.front.reg d.toNat).toNat = false →
    ∃ t, exec (.qinit d q) s = .next t ∧ OnlySkein s t k { withQueue x q.toNat
        { init := true, base := bitsOf (x.front.reg d.toNat).toNat 19 0,
          depth := bitsOf (x.front.reg d.toNat).toNat 44 32,
          allow := bitsOf (x.front.reg d.toNat).toNat 60 48 } with
      dog := 0
      front := frontAfter s x x.front }

/-! ### Layers and mapping words -/

/-- 08 R229-R231: `mvc` and `mvc.acc` write each output of the layer in every active lane, in the order of
the rule, with the conditions of all steps; a descriptor that does not fit traps by its first failed
check. -/
def Obligations.LayerWordsWriteTheirOutputs : Prop :=
  ∀ (s : State) (n : Nat) (x : Strand) (d a : BitVec 7) (j : BitVec 8) (acc : Bool) (y : Lane),
    Inv s = true → Ready s n x {} → (s.lanes x).head? = some y →
    let i := if acc then Instr.mvcAcc d a j else .mvc d a j
    let m := MvcLayer.ofRecord (ofBytes (s.constBytes y.x.core (16 * j.toNat) 16))
    let r := fun (l : Lane) => s.mvcRows acc m l d.toNat a.toNat (List.range m.rows)
    let bad := fun (e : Nat) => TakesTrap i s { cause := .constBounds, detail := e,
                                                mask := maskOf ((s.lanes x).filter (fun l => l.on)) }
    let record := 16 * j.toNat + 16 ≤ y.x.lr.clen
    let legal := 1 ≤ m.rows ∧ m.rows ≤ 32 ∧ 1 ≤ m.cols ∧ m.cols ≤ 32 ∧ m.act ≤ 2 ∧ m.reserved = 0
    let within := m.woff % 4 = 0 ∧ m.woff + 4 * m.rows * m.cols ≤ y.x.lr.clen ∧
      (m.boff = 2 ^ 32 - 1 ∨ m.boff % 4 = 0 ∧ m.boff + 4 * m.rows ≤ y.x.lr.clen)
    (record → legal → within → Ready s n x (layerRegs acc d a m) →
      (∀ l ∈ s.lanes x, l.on = true → (r l).cond.raised l.f.fpc = 0) →
      (∃ t, exec i s = .next t ∧ Retires s t n x (laneAfter (layerRegs acc d a m) (fun l =>
        { l.f.setVal d.toNat m.rows (r l).bits with fpc := (r l).cond.sticky l.f.fpc }))) ∧
      ∀ l ∈ s.lanes x, ∀ q, q < m.rows →
        (r l).bits / 2 ^ (32 * q) % 2 ^ 32 = layerOut s acc m l d.toNat a.toNat q) ∧
    ((∃ l ∈ s.lanes x, l.on = true) →
      (¬ record → bad 1) ∧ (record → ¬ legal → bad 3) ∧
      (record → legal → Fits (layerRegs acc d a m) y.x.lr.regs → ¬ within → bad 2))

/-- 07 R180 R188 R192: `smap` sets a mapping up in a free slot from its descriptor and gives status 0; an
occupied slot gives 0x10, an address off its alignment or a malformed descriptor 0x12, a window that does
not fit 0x11, and a buffer that does not 0x13, and nothing is set up then; a kept region of its key and shape is
found again and gives status 1. 07 R187 R193 R194: what `sinfo`,
`sfind`, `sinv`, `swb` and `sunmap` do with the mapping in a slot; a free slot has no effect, and `sinfo`
gives 0 for it. -/
def Obligations.MappingsAreSetUpAndUsed : Prop :=
  (∀ (s : State) (k : Nat) (x : Skein) (d a b : BitVec 6), Inv s = true → FrontReady s k x → Quiet s →
     x.front.stores = [] →
     let slot := (x.front.reg b.toNat).toNat % 16
     let va := (x.front.reg a.toNat).toNat
     let gives := fun (v : BitVec 64) => frontDone s x (x.front.set d.toNat v)
     let only := fun (v : BitVec 64) => ∃ t, exec (.smap d a b) s = .next t ∧ OnlySkein s t k (gives v)
     ((tget x.slots slot).isSome = true → only 0x10) ∧
     (tget x.slots slot = none → va % 64 ≠ 0 → only 0x12) ∧
     ∀ l, tget x.slots slot = none → va % 64 = 0 →
       s.frontPieces (.who (.front k)) x.core x.lr.ctx (piecesOf (va % 2 ^ 51) 64) = .bytes l →
       RangeAtHand s x.core x.lr.ctx (va % 2 ^ 51) 64 →
       s.bindingHeld x.core x.lr (MapDesc.ofBits (ofBytes l)).bind = false →
       let e := ofBytes l
       let m := MapDesc.ofBits e
       let leaves := fun (v : BitVec 64) => ∃ t, exec (.smap d a b) s = .next t ∧ FrontLeaves s t k (gives v)
       (descOk e = false → leaves 0x12) ∧
       (descOk e = true → s.windowFits x m.sbase m.top = false → leaves 0x11) ∧
       (descOk e = true → s.windowFits x m.sbase m.top = true →
         (∀ i, x.lr.binding m.bind = some i → ∃ z ∈ (s.core x.core).bufs, z.ctx = x.lr.ctx ∧ z.index = i) →
         (s.mapBuffer x.core x.lr m = none → leaves 0x13) ∧
         ∀ i u, s.mapBuffer x.core x.lr m = some (i, u) →
           (s.keptRegion x.core x.lr.ctx m.key = none →
             ∃ t, exec (.smap d a b) s = .next t ∧ ChecksLeave s { t with maps := s.maps } 1 ∧
               t.fibres = s.fibres ∧ t.strands = s.strands ∧
               (∀ j, tget t.maps j = if j = s.nextKey then
                 some { ctx := x.lr.ctx, core := x.core, desc := m, bufIndex := i, base := u.base, ilv := u.ilv,
                        trk := u.trk, lcls := u.lcls, rdev := u.rdev, serial := s.nextKey }
                 else tget s.maps j) ∧
               ∀ j, tget t.skeins j = if j = k then
                 some { gives 0 with slots := tput x.slots slot s.nextKey } else tget s.skeins j) ∧
           ∀ n y, s.keptRegion x.core x.lr.ctx m.key = some (n, y) → y.core = x.core → y.bufIndex = i →
             y.desc.offset = m.offset → y.desc.stride = m.stride → y.desc.foff = m.foff → y.desc.flen = m.flen →
             y.desc.count = m.count → y.desc.mode = m.mode →
             let others := (s.core x.core).regions.filter (fun r => r != n)
             ∃ t, exec (.smap d a b) s = .next t ∧ (t.core x.core).regions = others ∧
               ChecksLeave s { t with
                 maps := s.maps
                 cores := tput t.cores x.core { t.core x.core with regions := (s.core x.core).regions } } 0 ∧
               t.fibres = s.fibres ∧ t.strands = s.strands ∧
               (∀ j, tget t.maps j = if j = n then some { y with
                 desc := { y.desc with sbase := m.sbase, bind := m.bind }
                 found := true } else tget s.maps j) ∧
               ∀ j, tget t.skeins j = if j = k then
                 some { gives 1 with slots := tput x.slots slot n } else tget s.skeins j)) ∧
  (∀ (s : State) (k : Nat) (x : Skein) (d a b : BitVec 6), Inv s = true → FrontReady s k x →
     tableWf s.regs = true →
     let slot := (x.front.reg a.toNat).toNat % 16
     (tget x.slots slot = none → (∀ i ∈ [Instr.swb a, .sinv a, .sunmap a],
         ∃ t, exec i s = .next t ∧ OnlySkein s t k (frontDone s x x.front)) ∧
       ∃ t, exec (.sinfo d a) s = .next t ∧ OnlySkein s t k (frontDone s x (x.front.set d.toNat 0))) ∧
     (∀ n m, SlotHolds s x slot n m →
       (∃ t, exec (.sinfo d a) s = .next t ∧ OnlySkein s t k (frontDone s x (x.front.set d.toNat
         (BitVec.ofNat 64 (1 + 2 * m.desc.mode + (if m.found then 8 else 0) +
           (if m.dirty = [] then 0 else 16) + 2 ^ 32 * m.filled.length))))) ∧
       (∃ t, exec (.sinv a) s = .next t ∧ MapLeft s t n (some { m with
         filled := []
         dirty := []
         loose := []
         poisoned := [] }) k (frontDone s x x.front)) ∧
       (m.ilv ≠ 3 → m.dirty = [] →
         (∃ t, exec (.swb a) s = .next t ∧ OnlySkein s t k (frontDone s x x.front)) ∧
         ∃ t y, exec (.sunmap a) s = .next t ∧ MapLeft s t n none k y ∧
           y = { frontDone s x x.front with
             slots := tdel x.slots slot
             stash := y.stash } ∧
           ∀ o, tget y.stash o = if m.desc.sbase ≤ o ∧ o < m.desc.top then some (m.byte (o - m.desc.sbase))
             else tget x.stash o) ∧
       ∀ o z c, m.ilv ≠ 3 → m.dirty = [o] → m.poisoned = [] → s.poison = [] →
         s.xlateNow m.core m.ctx (m.va o) true (some m.ilv) = .ok z → isRegister (z.pa (m.va o)) = false →
         s.cached m.core m.ctx (m.va o / 2 ^ 15) = some c → c.dirty = true →
         s.homeGone (z.pa (m.va o)) = false →
         ∃ t, exec (.swb a) s = .next t ∧
           (∀ q, t.byte q = if q = z.pa (m.va o) then m.byte o else s.byte q) ∧
           (∀ j, tget t.maps j = if j = n then some { m with dirty := [] } else tget s.maps j) ∧
           ∀ j, tget t.skeins j = if j = k then some (frontDone s x x.front) else tget s.skeins j) ∧
     let free := (x.front.reg b.toNat).toNat % 16
     let gives := fun (v : Nat) => frontDone s x (x.front.set d.toNat (BitVec.ofNat 64 v))
     let kept := s.keptRegion x.core x.lr.ctx ((x.front.reg a.toNat).toNat % 2 ^ 32)
     ((tget x.slots free).isSome = true →
       ∃ t, exec (.sfind d a b) s = .next t ∧ OnlySkein s t k (gives 0x10)) ∧
     (tget x.slots free = none →
       (kept = none → ∃ t, exec (.sfind d a b) s = .next t ∧ OnlySkein s t k (gives 0)) ∧
       ∀ n m, kept = some (n, m) →
         (s.windowFits x m.desc.sbase m.desc.top = false →
           ∃ t, exec (.sfind d a b) s = .next t ∧ OnlySkein s t k (gives 0x11)) ∧
         (s.windowFits x m.desc.sbase m.desc.top = true →
           ∃ t, exec (.sfind d a b) s = .next t ∧
             (∀ j, tget t.maps j = if j = n then some { m with found := true } else tget s.maps j) ∧
             (∀ c, t.core c = if c = m.core then { s.core c with
               regions := (s.core c).regions.filter (fun i => i != n) } else s.core c) ∧
             (∀ j, tget t.skeins j = if j = k then
               some { gives (1 + 2 ^ 32 * m.desc.sbase) with slots := tput x.slots free n }
               else tget s.skeins j) ∧
             t = { withWorkers s s.fibres s.strands t.skeins with
               maps := t.maps
               cores := t.cores })))

/-! ### The reel -/

/-- 08 R211 R216 R220 R225 R228, 06 R164: a reel command whose registers, record and checks pass joins its channel
with one more on CP; on a channel that has failed it is discarded: it completes for CP, in order, with no effect, and
the knot that it credits has its error bit set. It waits while CP is 7 or an earlier store has not been performed.
Its checks trap in their order: fields, s63, a record off its alignment, then those of R220. The record is the
core's copy, or is read and kept. 08 R226: `reel.wp` writes the write pointer of a channel to s[sa] and its status
word to s[sb], and clears what it has reported; equal registers or a channel that is not there raise ILLEGAL_FIELD.
08 R226, 16 R386: the reel in the background: a line of `reel.get` is moved into the stash, the write pointer
advances and a command that has moved all its lines ends; `reel.dec` is verified before its plaintext is
released, and a tag that does not match leaves error 4 and counts in the slot. -/
def Obligations.ReelCommandsIssueAndComplete : Prop :=
  (∀ (s : State) (k : Nat) (x : Skein) (a b : BitVec 6) (kn : BitVec 4) (e : BitVec 1) (c : BitVec 3)
     (h : Shape), Inv s = true → FrontReady s k x → Quiet s →
     let va := (x.front.reg a.toNat).toNat % 2 ^ 51
     let o0 := (x.front.reg b.toNat).toInt
     let args := ReelArgs.of (x.front.reg (a.toNat + 1)).toNat
     let knot := if e = 1 then some kn.toNat else none
     let legal := c.toNat < x.lr.reels ∧ (e = 1 → kn.toNat < x.lr.knots) ∧ (e = 0 → kn = 0)
     let stored := s.remotes.any (fun r => r.2.use.isStore x.lr.ctx x.core) = false
     ∀ i ∈ [(Instr.reelGet a b kn e c, 0), (.reelPut a b kn e c, 1), (.reelPget a b kn e c, 2),
         (.reelPput a b kn e c, 3), (.reelExp a b kn e c, 4), (.reelDec a b kn e c, 5),
         (.reelRget a b kn e c, 6), (.reelRred a b kn e c, 7)],
       (¬ legal → TakesTrap i.1 s { cause := .illegalField }) ∧
       (legal → (7 ≤ x.cp ∨ (∃ y ∈ x.front.stores, y.sent = false) ∨ ¬ stored) → exec i.1 s = .next s) ∧
       (legal → x.cp < 7 → x.front.stores = [] → stored →
         (a = 63 → TakesTrap i.1 s { cause := .reelFault, detail := 7 }) ∧
         (a ≠ 63 → va % 64 ≠ 0 → TakesTrap i.1 s { cause := .reelFault, detail := 8 }) ∧
         (a ≠ 63 → va % 64 = 0 → ShapeAt s k x va h →
           ((shapeCopy s x va).isSome = true ∨ ∀ n, entryOf x i.2 h = some n →
             ∃ z ∈ (s.core x.core).bufs, z.ctx = x.lr.ctx ∧ z.index = n) →
           (∀ n, entryOf x i.2 h = some n →
             s.entryHeld x.core x.lr.ctx n = false ∧ EntryAtHand s x.core x.lr.ctx n) →
           (∀ t, commandTrap s k x i.2 b.toNat h args o0 = some t →
             ∃ v, exec i.1 s = commit v (trapWord t) ∧ ShapeKept s v x va h ∧ v.skeins = s.skeins ∧
               ((shapeCopy s x va).isSome = true → v = s)) ∧
           (commandTrap s k x i.2 b.toNat h args o0 = none →
             let entry := match entryOf x i.2 h with
               | some n => BitVec.ofNat 512 (s.bufBits x.core x.lr.ctx n)
               | none => 0
             let cmd := reelCommand x i.2 a b knot h entry
             let y := x.chan c.toNat
             let counted := x.cpq ++ [(x.nextId, false)]
             let settled := (counted.map (fun r => if r.1 = x.nextId then (r.1, true) else r)).dropWhile
               (fun r => r.2)
             let leaves := fun (z : Skein) => ∃ t, exec i.1 s = .next t ∧ ShapeKept s t x va h ∧
               ∀ j, tget t.skeins j = if j = k then some { z with nextId := x.nextId + 1 } else tget s.skeins j
             (y.failed = false →
               leaves { withChan (frontDone s x x.front) c.toNat { y with cmds := y.cmds ++ [cmd] } with
                 cpq := counted }) ∧
             (y.failed = true → knot = none → leaves { frontDone s x x.front with cpq := settled }) ∧
             (y.failed = true → knot ≠ none →
               (∀ q ∈ s.fibres, ∀ m, q.2.run ≠ .parked (.knot kn.toNat) m ∧ q.2.run ≠ .parked (.reopen kn.toNat) m) →
               leaves { frontDone s x x.front with
                 cpq := settled
                 knots := tput x.knots kn.toNat { x.knot kn.toNat with error := true } })))))  ∧
  (∀ (s : State) (k : Nat) (x : Skein) (a b : BitVec 6) (c : BitVec 3), Inv s = true → FrontReady s k x →
     let y := x.chan c.toNat
     let on := fun (p : Bool) (i : Nat) => if p then 2 ^ i else 0
     let status := on (y.cmds != []) 0 + on y.err 1 + 2 ^ 8 * y.code.toNat + on y.inv 16 + on y.ovf 17 +
       on y.unf 18 + on y.sat 19 + on y.crlost 20
     (a ≠ b → c.toNat < x.lr.reels → ∃ t, exec (.reelWp a b c) s = .next t ∧
       OnlySkein s t k (withChan
         (frontDone s x ((x.front.set a.toNat y.wp).set b.toNat (BitVec.ofNat 64 status))) c.toNat
         { wp := y.wp, cmds := y.cmds, held := y.held })) ∧
     (a = b ∨ x.lr.reels ≤ c.toNat → TakesTrap (.reelWp a b c) s { cause := .illegalField })) ∧
  (∀ (s : State) (k ch : Nat) (x : Skein) (c : ReelCmd), Inv s = true → tget s.skeins k = some x →
     x.run = .resident → (x.chan ch).cmds = [c] → (x.chan ch).held = false → x.cpq = [(c.id, false)] →
     let y := x.chan ch
     (c.form ≠ 5 → c.current = none → ∃ t, exec (.reelLineComplete k ch) s = .next t ∧
       OnlySkein s t k { withChan x ch { y with cmds := [] } with cpq := [] }) ∧
     (∀ q a b, c.form = 0 → c.current = some [q] → c.knot = none → c.buffer = some b →
       ({ c with line := c.line + 1, asked := false, got := [] } : ReelCmd).current = none →
       s.lineAccess x c false [q] = .ok [(q, [(0, a)])] → LineAtHand s x [(q, [(0, a)])] → a.n = q.n →
       (∃ va, q.src = .mem va) → x.slots = [] →
       ∃ t z, exec (.reelLineComplete k ch) s = .next t ∧ (∀ p, t.byte p = s.byte p) ∧
         tget t.skeins k = some z ∧ z.cpq = [] ∧ (z.chan ch).cmds = [] ∧
         (z.chan ch).wp = y.wp + BitVec.ofNat 64 q.n ∧
         ∀ o, t.stashByte k o = if q.so ≤ o ∧ o < q.so + q.n then s.byte (a.pa + (o - q.so))
           else s.stashByte k o) ∧
     ∀ l, c.form = 5 → c.plain = none →
       let ps := (boxIndices [c.shape.boxAt 0]).map c.piece ++ [{ so := 0, n := 16, src := .mem c.tagAt }]
       s.lineAccess x c false ps = .ok l → LineAtHand s x l →
       let all := l.flatMap (fun e => (loadBytes s k c e).1)
       let n := (c.buffer.map (fun b => b.kslot)).getD 0
       let slot := tgetD s.slots n {}
       let out := decOutcome x.lr.ctx slot c (all.take (all.length - 16)) (all.drop (all.length - 16))
       (out.1 = 0 → ∃ t z, exec (.reelDecVerify k ch) s = .next t ∧ (∀ p, t.byte p = s.byte p) ∧
         tget t.skeins k = some z ∧ (z.chan ch).cmds = [{ c with plain := some out.2 }] ∧
         tgetD t.slots n {} = { slot with lastctr := BitVec.ofNat 64 c.counter }) ∧
       (out.1 = 4 → c.knot = none → ∃ t z, exec (.reelDecVerify k ch) s = .next t ∧
         (∀ p, t.byte p = s.byte p) ∧
         tget t.skeins k = some z ∧ (z.chan ch).cmds = [] ∧ (z.chan ch).err = true ∧
         (z.chan ch).code = (if y.code = 0 then 4 else y.code) ∧
         tgetD t.slots n {} = { slot with fails := slot.fails + 1 }))

/-! ### Clauses, card bins and slots -/

/-- 02 R41 R42 R46, 11 R283: a clause that is there is issued: one of the other context is skipped, one
whose thresholds are met begins at its first word, and one whose are not leaves its context waiting; a line
that is not there is asked for, with a miss in sr.slip, and its fill gives the bytes it has then; a line in error is
discarded and missed. 06 R159 R160: a bin whose oldest fibre has waited BINAGE cycles ages; the eligible bin whose
oldest fibre was filed first is drawn into a strand of its oldest fibre in each home lane; the oldest ready pending
strand of a slot becomes active, in place of one that has stalled or yielded where eight are. -/
def Obligations.ClausesAndBinsFeedTheStrands : Prop :=
  ((∀ (s : State) (n : Nat) (x : Strand) (l : Lane) (c : Clause) (line : Nat), Inv s = true → Quiet s →
     tget s.strands n = some x → (s.lanes x).head? = some l → x.clause = none → x.pos.pc = x.pos.hdr →
     s.strandRuns x = true → EntryAtHand s x.core l.x.lr.ctx l.x.lr.codebuf →
     (∀ y ∈ s.lanes x, y.x.halted = false ∧ y.f.rejoin = none ∧ ∀ z ∈ y.f.loads, z.poisoned = false) →
     s.fetchClause (.who (.strand n)) x.core l.x.lr x.pos = .clause c line →
     c.header.formOk x.pos.hdr.toNat = true →
     let h := c.header
     let met := fun (y : Lane) => y.f.ld ≤ h.ldt.toNat ∧ y.f.st ≤ h.stt.toNat ∧ y.x.cp ≤ h.cpt.toNat ∧
       y.x.tl ≤ h.tlt.toNat
     let sound := Config.softError s.fresh = false
     (sound → fibreSkips h.cls.toNat = true → (∀ y ∈ s.lanes x, y.f.pos.jumped = false) →
       ∃ t, exec (.clauseIssue (.strand n)) s = .next t ∧ Stands s t n x (posAt c.fall) none) ∧
     (sound → fibreSkips h.cls.toNat = false → (∀ y ∈ s.lanes x, met y) →
       ∃ t, exec (.clauseIssue (.strand n)) s = .next t ∧
         Stands s t n x { pc := x.pos.hdr + 4, hdr := x.pos.hdr } (some c)) ∧
     (sound → fibreSkips h.cls.toNat = false → (∃ y ∈ s.lanes x, ¬ met y) →
       ∃ t, exec (.clauseIssue (.strand n)) s = .next t ∧ ChecksLeave s t 0 ∧ t.fibres = s.fibres ∧
         (∀ m, tget t.strands m = if m = n then some { x with waits := true } else tget s.strands m) ∧
         t.skeins = s.skeins) ∧
     (¬ sound → ∃ t, exec (.clauseIssue (.strand n)) s = .next t ∧ Misses s t n x line ∧
       t.cachedCode (clusterOf x.core) line = none)) ∧
   (∀ (s : State) (n : Nat) (x : Strand) (l : Lane) (line : Nat), Inv s = true → Quiet s →
     tget s.strands n = some x → (s.lanes x).head? = some l → x.clause = none → x.pos.pc = x.pos.hdr →
     s.strandRuns x = true → (∀ y ∈ s.lanes x, y.x.halted = false) →
     s.fetchClause (.who (.strand n)) x.core l.x.lr x.pos = .miss line →
     ∃ t, exec (.clauseIssue (.strand n)) s = .next t ∧ Misses s t n x line ∧ t.icache = s.icache ∧ t.fresh = s.fresh) ∧
   (∀ (s : State) (k : Nat) (x : Skein), Inv s = true → Quiet s → tget s.skeins k = some x →
     x.front.run = .ready → x.run = .resident → x.front.clause = none → x.halted = false →
     x.front.pos.pc = x.front.pos.hdr → EntryAtHand s x.core x.lr.ctx x.lr.codebuf →
     let e := s.fetchClause (.who (.front k)) x.core x.lr x.front.pos
     (∀ c line, e = .clause c line → c.header.formOk x.front.pos.hdr.toNat = true →
       let h := c.header
       let sound := Config.softError s.fresh = false
       (sound → frontSkips h.cls.toNat = true → x.front.pos.jumped = false →
         ∃ t, exec (.clauseIssue (.front k)) s = .next t ∧ FrontStands s t k x (posAt c.fall) none) ∧
       (sound → frontSkips h.cls.toNat = false → h.ldt = 15 → h.stt = 15 → x.cp ≤ h.cpt.toNat →
         x.tl ≤ h.tlt.toNat → ∃ t, exec (.clauseIssue (.front k)) s = .next t ∧
           FrontStands s t k x { pc := x.front.pos.hdr + 4, hdr := x.front.pos.hdr } (some c)) ∧
       (¬ sound → ∃ t, exec (.clauseIssue (.front k)) s = .next t ∧
         t = { s with
           icache := t.icache
           ifetch := t.ifetch
           fresh := s.fresh + 1 } ∧
         t.cachedCode (clusterOf x.core) line = none ∧ line ∈ (tget t.ifetch (clusterOf x.core)).getD [])) ∧
     ∀ line, e = .miss line → ∃ t, exec (.clauseIssue (.front k)) s = .next t ∧
       t = { s with ifetch := t.ifetch } ∧ line ∈ (tget t.ifetch (clusterOf x.core)).getD []) ∧
   ∀ (s : State) (clus line : Nat), Inv s = true → line ∈ (tget s.ifetch clus).getD [] → line < 2 ^ 45 →
     (isPackage (line * 128) = true → s.lineHeld none line = false ∧ s.reach (line * 128) 128 ≠ .recall) →
     ∃ t, exec (.instructionCacheFill clus line) s = .next t ∧
       t.cachedCode clus line = some (s.codeBytes line) ∧ line ∉ (tget t.ifetch clus).getD [] ∧
       (∀ c, c ≠ clus → tget t.icache c = tget s.icache c) ∧ ∀ b, t.byte b = s.byte b) ∧
  ((∀ (s : State) (core bin : Nat), ∃ t, exec (.binAged core bin) s = .next t ∧ t = { s with cores := t.cores } ∧
     (∀ c, c ≠ core → t.core c = s.core c) ∧
     t.core core = { s.core core with bins := (t.core core).bins } ∧
     ∀ j, (t.core core).bins[j]? = ((s.core core).bins[j]?).map (fun b =>
       if j = bin ∧ ∃ e, b.fibs.head? = some e ∧ e.2 + s.binAge b ≤ s.clk.toNat
       then { b with aged := true } else b)) ∧
   (∀ (s : State) (core i : Nat) (b : Bin) (h : VAddr) (c : Option Clause), Inv s = true →
     (s.core core).bins[i]? = some b → s.binEligible b = true → s.drawOpen core = true → (s.core core).unfiled = [] →
     b.fibs ≠ [] → (b.fibs.map (fun e => e.1)).Nodup →
     (∀ j g, (s.core core).bins[j]? = some g → s.binEligible g = true →
       j = i ∨ filedAt b < filedAt g ∨ (filedAt b = filedAt g ∧ i < j)) →
     (∀ e ∈ b.fibs, ∃ f, tget s.fibres e.1 = some f ∧ f.pos.hdr = h ∧ f.clause = c) →
     let ks := oldestInLanes s b.fibs
     let rest := b.fibs.filter (fun e => !ks.contains e.1)
     let bins := (s.core core).bins
     ∃ t y, exec (.strandDraw core) s = .next t ∧
       t = { withWorkers s t.fibres t.strands s.skeins with
         cores := t.cores
         nextKey := s.nextKey + 1 } ∧
       (∀ d, t.core d = if d = core then { s.core core with
           bins := if rest.isEmpty then bins.eraseIdx i else bins.set i { b with
             fibs := rest
             drawn := true } } else s.core d) ∧
       (∀ m, tget t.strands m = if m = s.nextKey then some y else tget s.strands m) ∧
       y.core = core ∧ y.pos = { pc := b.pc, hdr := h } ∧ y.clause = c ∧ y.since = s.clk.toNat ∧
       (∀ k, k ∈ y.fibs ↔ k ∈ ks) ∧ y.fibs.Pairwise (fun a d => s.laneOf a < s.laneOf d) ∧ y.slot < 4 ∧
       (y.active = true ↔ ∃ j, j < 4 ∧ (s.activeOf core j).length < 8) ∧
       (y.active = true → (s.activeOf core y.slot).length < 8) ∧
       (y.active = false → ∀ j, j < 4 → (s.pendingOf core y.slot).length ≤ (s.pendingOf core j).length) ∧
       ∀ k, tget t.fibres k = (tget s.fibres k).map (fun f => if k ∈ ks then { f with
         run := .strand s.nextKey
         clause := none
         pos := { pc := b.pc, hdr := h, jumped := f.pos.jumped } } else f)) ∧
   ∀ (s : State) (core slot n : Nat) (x : Strand), Inv s = true → (n, x) ∈ s.pendingOf core slot → x.waits = false →
     (∀ e ∈ s.pendingOf core slot, e.2.waits = false → e = (n, x) ∨ x.since < e.2.since) →
     let act := s.activeOf core slot
     let mayGo := fun (e : Nat × Strand) => e.2.waits = true ∨ e.2.yields = true
     let active := { x with
       active := true
       yields := false }
     (act.length < 8 → ∃ t, exec (.strandExchange core slot) s = .next t ∧ OnlyWorkers s t ∧
       t.fibres = s.fibres ∧ t.skeins = s.skeins ∧
       ∀ m, tget t.strands m = if m = n then some active else tget s.strands m) ∧
     (8 ≤ act.length → ∀ k y, (k, y) ∈ act → mayGo (k, y) → (∀ e ∈ act, mayGo e → e = (k, y) ∨ y.since < e.2.since) →
       ∃ t, exec (.strandExchange core slot) s = .next t ∧ OnlyWorkers s t ∧
         t.fibres = s.fibres ∧ t.skeins = s.skeins ∧
         ∀ m, tget t.strands m = if m = n then some active
           else if m = k then some { y with
             active := false
             yields := false
             since := s.clk.toNat } else tget s.strands m) ∧
     (8 ≤ act.length → (∀ e ∈ act, ¬ mayGo e) → exec (.strandExchange core slot) s = .next s))

/-! ### Queues, launches and skeins -/

/-- 13 R316 R318 R319 R321 R323: the registers of a launch queue, and the lottery: the seed advances, the
queue that the draw names gives its next record, and the launch is accepted or its status is recorded. 13 R320,
04 R117: `launch` copies its record into the next slot of its queue and advances WIDX, as a release at package scope; it
traps where the context may not use the queue and waits while the ring is full. -/
def Obligations.QueuesAndTheLottery : Prop :=
  (∀ (s : State) (n : BitVec 6) (v : BitVec 16) (w : BitVec 64) (z : BitVec 32),
    let q := s.queue n.toNat
    let becomes := fun (i : Instr) (y : LQueue) => ∃ t, exec i s = .next t ∧ t = { s with queues := t.queues } ∧
      ∀ m, t.queue m = if m = n.toNat then y else s.queue m
    let size := if q.size = 0 then 1 else min q.size.toNat 12
    (q.dev = true → becomes (.widxWrite n v) q) ∧
    (q.dev = false → 2 ^ size < (v - q.ridx).toNat → becomes (.widxWrite n v) { q with qwerr := true }) ∧
    (q.dev = false → (v - q.ridx).toNat ≤ 2 ^ size → becomes (.widxWrite n v) { q with widx := v }) ∧
    becomes (.queueControlWrite n 0 w) (if q.en then q else { q with base := w.extractLsb' 12 40 }) ∧
    becomes (.queueControlWrite n 0x08 w) (
      let y := { q with
        tickets := w.extractLsb' 32 12
        en := w.getLsbD 8 }
      if q.en then y
      else
        let same : Bool := w.extractLsb' 0 4 == q.size
        { y with
          sup := w.getLsbD 9
          dev := w.getLsbD 10
          ctx := w.extractLsb' 16 16
          size := w.extractLsb' 0 4
          widx := if same then q.widx else 0
          ridx := if same then q.ridx else 0 }) ∧
    becomes (.queueControlWrite n 0x30 w) { q with
      clmask := w.extractLsb' 0 32
      coremask := w.extractLsb' 32 8 } ∧
    becomes (.queueControlWrite n 0x38 w) { q with
      qwerr := q.qwerr && !w.getLsbD 0
      qirq := w.getLsbD 8 } ∧
    ∃ t, exec (.lseedWrite z) s = .next t ∧ t = { s with lseed := if z = 0 then s.lseed else z }) ∧
  (∀ (s : State) (k : Nat) (x : Skein) (a : BitVec 6), Inv s = true → FrontReady s k x →
    let r := (x.front.reg a.toNat).toNat
    let q := s.queue (r % 64)
    let records := 2 ^ (if q.size = 0 then 1 else min q.size.toNat 12)
    let slot := q.base.toNat * 4096 + 256 * (q.widx.toNat % records)
    let known := q.sup = true → x.lr.sup = true
    let mine := q.ctx.toNat = x.lr.ctx ∨ x.lr.sup = true
    (¬ known → TakesTrap (.launch a) s { cause := .privileged, detail := 1 }) ∧
    (known → (q.en = false ∨ q.dev = false) → TakesTrap (.launch a) s { cause := .privileged, detail := 2 }) ∧
    (known → q.en = true → q.dev = true → ¬ mine →
      TakesTrap (.launch a) s { cause := .privileged, detail := 3 }) ∧
    (known → q.en = true → q.dev = true → mine → records ≤ (q.widx - q.ridx).toNat → x.halted = false →
      exec (.launch a) s = .next s) ∧
    (known → q.en = true → q.dev = true → mine → (q.widx - q.ridx).toNat < records → x.front.stores = [] →
      s.flushed x.core 3 = true → s.regs = [] → Quiet s → (∀ i, i < 256 → s.homeGone (slot + i) = false) →
      ∀ l, s.frontPieces (.who (.front k)) x.core x.lr.ctx (piecesOf (r / 256 % 2 ^ 43 * 256) 256) = .bytes l →
        ∃ t v, exec (.launch a) s = .next t ∧ Wrote s t slot l ∧ Raised true 3 x.front.ivl v ∧
          (∀ m, t.queue m = if m = r % 64 then { q with widx := q.widx + 1 } else s.queue m) ∧
          t.fibres = s.fibres ∧ t.strands = s.strands ∧
          ∀ j, tget t.skeins j = if j = k then some { x with
            dog := 0
            front := { frontAfter s x x.front with ivl := v } } else tget s.skeins j)) ∧
  ∀ (s : State) (before after : List Nat) (n : Nat), Inv s = true →
    (List.range 64).filter s.eligible = before ++ n :: after → s.inflight.toNat < 256 → s.settled = true →
    let tickets := fun (l : List Nat) => (l.map (fun m => (s.queue m).tickets.toNat)).sum
    let a := s.lseed ^^^ (s.lseed <<< 13)
    let b := a ^^^ (a >>> 17)
    let u := { s with lseed := b ^^^ (b <<< 5) }
    let draw := u.lseed.toNat % tickets (before ++ n :: after)
    tickets before ≤ draw → draw < tickets before + (s.queue n).tickets.toNat →
    let q := s.queue n
    let d := u.readLaunch n
    let r := d.rec_ q.ctx.toNat
    let read := { q with ridx := q.ridx + 1 }
    (u.launchStatus q.sup q.ctx.toNat d = none → r.fits q = true →
      ∃ t, exec .lotteryDraw s = .next t ∧ t.lseed = u.lseed ∧ t.inflight = s.inflight + 1 ∧
        (∀ m, t.queue m = if m = n then read else s.queue m) ∧
        ∀ m, tget t.launches m = if m = s.nextKey then
          some { lr := r, queue := n, ringIdx := q.ridx, order := s.nextKey, waiting := List.range r.skeins,
                 placed := s.clk.toNat } else tget s.launches m) ∧
    ∀ e, (u.launchStatus q.sup q.ctx.toNat d = some e ∨
        u.launchStatus q.sup q.ctx.toNat d = none ∧ r.fits q = false ∧ e = 5) →
      ∃ t, exec .lotteryDraw s = .next t ∧ t.lseed = u.lseed ∧ t.inflight = s.inflight ∧
        t.launches = s.launches ∧ ∀ m, t.queue m = if m = n then { read with
          lrej := BitVec.ofNat 8 e
          rjidx := q.ridx
          rjcnt := q.rjcnt + 1 } else s.queue m

/-- 06 R157, 13 R325 R326 R331, 04 R110: a die group of one skein is placed where the choice puts it; a launch
that has waited BLOCKAGE cycles blocks; a placed skein is admitted and its contexts start; a finished skein
ends, and the last one completes its launch. -/
def Obligations.SkeinsArePlacedAdmittedAndEnded : Prop :=
  (∀ (s : State) (k i : Nat) (l : Launch) (y : Layout) (h : Hold), Inv s = true → s.launches = [(k, l)] →
    l.waiting = [i] → l.aborting = false → l.lr.pool = 0 → 1 ≤ l.lr.span →
    placeGroups s k (s.queue l.queue) l.lr [[i]] = some y → y.holds.drop s.layout.holds.length = [h] →
    let mine := (s.layout.holds.filter (fun g => g.core == h.core))
    let rows := (l.lr.fibres + l.lr.span - 1) / l.lr.span
    h.launch = k ∧ h.lr = l.lr ∧ h.idx = i ∧ h.lane0 % l.lr.span = 0 ∧ (∀ g ∈ mine, g.slot ≠ h.slot) ∧
    (s.queue l.queue).mayCore h.core = true ∧ s.coreInService h.core = true ∧
    (mine.map (fun g => g.lr.stash)).sum + l.lr.stash ≤ 524288 ∧
    (mine.map (fun g => g.lr.tiles)).sum + l.lr.tiles ≤ 16 ∧
    (mine.map (fun g => g.lr.knots)).sum + l.lr.knots ≤ 128 ∧
    (mine.map (fun g => g.lr.queues)).sum + l.lr.queues ≤ 16 ∧
    (mine.map (fun g => g.lr.reels)).sum + l.lr.reels ≤ 8 ∧
    (∀ j, j < l.lr.span →
      let there := mine.filter (fun g =>
        decide (g.lane0 ≤ h.lane0 + j) && decide (h.lane0 + j < g.lane0 + g.lr.span))
      (there.map (fun g => g.lr.rows)).sum + rows ≤ 32 ∧
      (there.map (fun g => g.lr.rows * g.lr.regs)).sum + rows * l.lr.regs ≤ 4096) ∧
    ∃ t x, exec .placement s = .next t ∧ (∀ b, t.byte b = s.byte b) ∧ t.fibres = s.fibres ∧
      t.strands = s.strands ∧
      (∀ j, tget t.skeins j = if j = s.nextKey then some x else tget s.skeins j) ∧
      x.launch = k ∧ x.lr = l.lr ∧ x.idx = i ∧ x.core = h.core ∧ x.lane0 = h.lane0 ∧ x.slot = h.slot ∧
      x.run = .admitting 2 ∧ x.ctl = 0x0145 ∧ x.front.pos = posAt (BitVec.ofNat 51 l.lr.sentry) ∧
      tget t.launches k = some { l with
        waiting := []
        placed := s.clk.toNat
        blocking := false
        quanta := tput l.quanta (l.lr.dieGroup i) s.clk.toNat }) ∧
  (∀ (s : State) (k : Nat) (l : Launch), Inv s = true → tget s.launches k = some l →
    ∃ t, exec (.blockageExpiry k) s = .next t ∧ t = { s with launches := t.launches } ∧
      ∀ j, tget t.launches j = if j = k ∧ s.blockage ≠ 0 ∧ l.waiting ≠ [] ∧
          l.placed + s.blockage.toNat ≤ s.clk.toNat
        then some { l with blocking := true } else tget s.launches j) ∧
  (∀ (s : State) (k n : Nat) (x : Skein), Inv s = true → tget s.skeins k = some x →
    x.run = .admitting n → s.stashNeed x.core (s.newHolds x.core) 0 ≤ 524288 → s.coreStopped x.core = false →
    (s.descriptor x.lr.ctx = none → ∃ t, exec (.skeinAdmission k) s = .next t ∧
      (∀ j, tget t.skeins j = if j = k then some { x with run := .held n } else tget s.skeins j) ∧
      stopRecord x 3 0 0 {} ∈ (t.die (x.core / 64)).stops) ∧
    ∀ d, s.descriptor x.lr.ctx = some d → x.lr.maps = [] → x.lr.clen = 0 →
      (s.core x.core).bins.length < 32 →
      ∃ t y, exec (.skeinAdmission k) s = .next t ∧ (∀ b, t.byte b = s.byte b) ∧
        (∀ j, tget t.skeins j = if j = k then some y else tget s.skeins j) ∧ y = { x with
          run := .resident
          front := { x.front with run := .ready }
          ctl := ctlOf d x.lr.sup &&& 0x000001FF3FFFFFFF
          quantum := d.quantum
          save := d.save } ∧
        ∀ i, i < x.lr.fibres → ∃ f, tget t.fibres (s.nextKey + i) = some f ∧ f.sk = k ∧
          f.idx = BitVec.ofNat 10 i ∧ f.lane = BitVec.ofNat 6 (x.lane0 + i % x.lr.span) ∧
          f.pos = posAt (BitVec.ofNat 51 x.lr.fentry) ∧ f.run = .filed ∧ (∀ r, f.reg r = 0) ∧ f.p = 1 ∧
          f.fpc = 1 ∧ f.loads = [] ∧ f.stores = []) ∧
  ∀ (s : State) (k : Nat) (x : Skein) (l : Launch), Inv s = true → tget s.skeins k = some x →
    x.finished s k = true → x.slots = [] → (s.core x.core).regions.length ≤ 64 →
    tget s.launches x.launch = some l →
    (∀ e ∈ s.skeins, e.2.launch = x.launch → e.1 = k) →
    ∃ t, exec (.skeinEnd k) s = .next t ∧ (∀ b, t.byte b = s.byte b) ∧
      (∀ j, tget t.skeins j = if j = k then none else tget s.skeins j) ∧
      (l.waiting = [] → tget t.launches x.launch = none ∧ t.inflight = s.inflight - 1 ∧
        (t.queue l.queue).ldone = (s.queue l.queue).ldone + 1) ∧
      (l.waiting ≠ [] → tget t.launches x.launch = some l)

/-! ### Switching, abort and failover -/

/-- 06 R172, 13 R329 R330: the quantum of a resident group expires; a group at rest that another context
waits for is switched out in one step: its image is written to the core's place in the save area, and its pool to that
of the cluster, no other byte of memory changes, and its fibres keep what they wait for. A group that is out is loaded
where it is placed, its fibres in the new lane block. 13 R315 R332 R333, 16 R398: an abort discards the unplaced
skeins of its launch and stops the others; it is done when they have drained, and completes the launch. A control
processor leaves service and the others take its queues in ascending order; the last one stops the package. -/
def Obligations.GroupsSwitchAndLaunchesAbort : Prop :=
  ((∀ (s : State) (launch grp since k : Nat) (l : Launch) (x : Skein), Inv s = true →
     tget s.launches launch = some l → OnlyInGroup s launch grp k x → x.run = .resident →
     tget l.quanta grp = some since →
     ∃ t, exec (.quantumExpiry launch grp) s = .next t ∧ t = { s with launches := t.launches } ∧
       ∃ y, tget t.launches launch = some y ∧ y = { l with expired := y.expired } ∧
         ∀ g, g ∈ y.expired ↔ g ∈ l.expired ∨
           g = grp ∧ x.quantum ≠ 0 ∧ since + x.quantum ≤ s.clk.toNat) ∧
   (∀ (s : State) (launch grp k : Nat) (l : Launch) (x : Skein), Inv s = true →
     tget s.launches launch = some l → l.aborting = false → s.inCharge l.queue = true → grp ∈ l.expired →
     grp ∉ l.leaving → s.othersWait launch grp = true → OnlyInGroup s launch grp k x → x.run = .resident →
     AtRest s k x → s.skeinsOnCores [x.core] = [(k, x)] → x.saved = [] → s.regs = [] → (∀ b, s.homeGone b = false) →
     x.core < 256 → 4 * x.lr.rows * x.lr.regs * x.lr.span + x.lr.stash + 16384 * x.lr.tiles + x.lr.clen ≤ 0x200000 →
     let pools := s.pools.filter (fun e => e.2.launch == x.launch && e.2.cgrp == x.cgrp)
     let areas := pools.map (fun e => (x.save + 0x22000000 + 0x800000 * e.2.clus, e.2.size)) ++
       [(x.save + 0x220000 * x.core, 0x220000)]
     pools.length ≤ 1 →
     ∃ t y, exec (.contextSwitchOut launch grp) s = .next t ∧
       (∀ b, (∀ a ∈ areas, b < a.1 ∨ a.1 + a.2 ≤ b) → t.byte b = s.byte b) ∧
       t.strands = s.strands ∧ (t.core x.core).shapes = [] ∧
       (∀ j, tget t.skeins j = if j = k then some y else tget s.skeins j) ∧
       y = { x with
         run := .switchedOut none
         front := if x.front.run = .ready then { x.front with
           run := .saved
           clause := none } else x.front
         image := if x.lr.clen = 0 then none else (s.core x.core).const
         saved := y.saved } ∧
       y.saved.map (fun e => e.1) = areas.map (fun a => a.1) ∧
       (∀ e ∈ y.saved, t.bytes e.1 e.2.1 = imageBytes e.2.2 e.2.1 ∧ ∃ a ∈ areas, a.1 = e.1 ∧ e.2.1 ≤ a.2) ∧
       (∀ j f, tget s.fibres j = some f → ∀ w p, f.sk = k → f.run = .parked w p →
         tget t.fibres j = some { f with
           run := .saved (some (w, p))
           clause := none }) ∧
       (∀ j f, tget s.fibres j = some f → f.sk ≠ k → tget t.fibres j = some f) ∧
       ∃ z, tget t.launches launch = some z ∧ grp ∉ z.expired ∧ grp ∉ z.leaving ∧ tget z.quanta grp = none) ∧
   ∀ (s : State) (launch grp k j : Nat) (l : Launch) (x : Skein) (f : Fibre) (y : Layout) (h : Hold),
     Inv s = true → tget s.launches launch = some l → l.aborting = false → s.inCharge l.queue = true →
     OnlyInGroup s launch grp k x → x.run = .switchedOut none → x.front.run = .saved → x.slots = [] →
     placeGroups s launch (s.queue l.queue) l.lr [[x.idx]] = some y →
     y.holds.drop s.layout.holds.length = [h] → s.stashNeed h.core [] l.lr.stash ≤ 524288 →
     s.imageChanged x = false → (s.core h.core).bins.length < 32 → s.fibresOf k = [j] → tget s.fibres j = some f →
     f.run = .saved none → (∀ i e, tget s.skeins i = some e → e.launch = launch → i = k) →
     ∃ t z g, exec (.contextSwitchIn launch grp) s = .next t ∧ (∀ b, t.byte b = s.byte b) ∧
       tget t.skeins k = some z ∧ z.core = h.core ∧ z.lane0 = h.lane0 ∧ z.slot = h.slot ∧
       z.run = .resident ∧ z.front = { x.front with run := .ready } ∧ z.saved = [] ∧ z.tiles = x.tiles ∧
       z.stash = x.stash ∧ z.knots = x.knots ∧ z.ctl = x.ctl ∧
       (∀ i, x.image = some i → (t.core h.core).const = some i) ∧ (t.core h.core).shapes = [] ∧
       (t.core h.core).l1 = [] ∧
       tget t.fibres j = some g ∧ g.lane = BitVec.ofNat 6 (f.lane.toNat - x.lane0 + h.lane0) ∧
       g.run = .filed ∧ g.pos = f.pos ∧ g.v = f.v ∧ g.p = f.p ∧
       (∀ i, tget g.m i = (tget f.m i).map (moveMask x.lane0 h.lane0)) ∧
       ∃ z, tget t.launches launch = some z ∧ tget z.quanta grp = some s.clk.toNat) ∧
  ((∀ (s : State) (q : BitVec 6) (i : BitVec 16) (k : Nat) (l : Launch), Inv s = true →
     s.inCharge q.toNat = true → s.launchAt q.toNat i = some k → tget s.launches k = some l → l.leaving = [] →
     (s.abusy = false → ∃ t, exec (.abort q i) s = .next t ∧ t.abusy = true ∧ (∀ b, t.byte b = s.byte b) ∧
       tget t.launches k = some { l with
         waiting := []
         aborting := true } ∧
       ∀ j x, tget s.skeins j = some x →
         (x.launch ≠ k → tget t.skeins j = some x) ∧
         (x.launch = k → x.run = .resident → ∃ y, tget t.skeins j = some y ∧ y.run = .stopping ∧
           y.front.run = if x.front.run = .ready ∧ x.front.awaited = none then .saved else x.front.run)) ∧
     (s.abusy = true → exec (.abort q i) s = .next s)) ∧
   (∀ (s : State) (k : Nat) (l : Launch), Inv s = true → s.launches = [(k, l)] → l.aborting = true →
     l.waiting = [] →
     (∀ j x, tget s.skeins j = some x → x.launch = k → x.run = .stopping ∧ s.drained j x = true ∧
       x.slots = [] ∧ s.fibresOf j = [] ∧ s.flushed x.core 5 = true ∧ (s.core x.core).regions.length ≤ 64) →
     ∃ t, exec .abortDone s = .next t ∧ t.abusy = false ∧ t.launches = [] ∧ t.inflight = s.inflight - 1 ∧
       (t.queue l.queue).ldone = (s.queue l.queue).ldone + 1 ∧ (∀ b, t.byte b = s.byte b) ∧
       ∀ j, tget t.skeins j = (tget s.skeins j).filter (fun x => x.launch != k)) ∧
   ∀ (s : State) (cp : Nat), cp ∈ s.cps → s.stopped = false →
     let left := s.cps.filter (fun i => i != cp)
     let rank := fun (q : Nat) => countBelow q (fun i => s.servedBy i == cp)
     (left ≠ [] → ∃ t, exec (.controlProcessorFailover cp) s = .next t ∧ t = { s with
         cps := left
         served := t.served } ∧
       ∀ q, q < 64 → t.servedBy q =
         if s.servedBy q = cp then left.getD (rank q % left.length) 0 else s.servedBy q) ∧
     (left = [] → ∃ t, exec (.controlProcessorFailover cp) s = .next t ∧ t.cps = [] ∧ t.stopped = true ∧
       t.fstat = 2))

/-! ### System software -/

/-- 04 R126: the oldest stop record of a die is posted in its ring, its tag in the low half of its first
word, and the tag advances; a ring that is not enabled or is full takes none. 04 R127: the commands of the
translation block on a stopped context: actions 0 and 1 let it go on, 2 ends it, 3 releases a held or halted
skein, each of whose fibres goes on from its resume address, at a wait that it had begun as soon as the thresholds
of its clause are met, 4 reads and 5 writes a register; any other command, a context that is not stopped, and a
command while one is in progress are refused. 16 R395: a skein whose watchdog counter has reached WDLIM: the counter
returns to 0, HEVT[0] is set, and its front context, and each of its fibres that is live, stops with
WATCHDOG where the trap is not routed; with WDLIM 0, or below it, nothing happens. -/
def Obligations.StopsAreReportedAndCommanded : Prop :=
  (∀ (s : State) (die : Nat) (r : StopRec) (w : DWord) (ws : List DWord) (l : List StopRec), Inv s = true →
     (s.die die).stops = r :: l → r.words = w :: ws →
     let d := s.die die
     (RingOpen s d.sq 64 → ∃ t, exec (.stopRecordPost die) s = .next t ∧
       Wrote s t (d.sq.slotAddr 64)
         (bytesOf (w.toNat + d.stopTag.toNat) 8 ++ ws.flatMap (fun x => bytesOf x.toNat 8)) ∧
       ∀ i, t.die i = if i = die then { d with
         sq := d.sq.push
         stopTag := d.stopTag + 1
         stops := l } else s.die i) ∧
     (d.sq.en = false ∨ d.sq.full = true → exec (.stopRecordPost die) s = .next s)) ∧
  (∀ (s : State) (die : Nat) (g : StopTarget), Inv s = true →
     let d := s.die die
     let busy : Die := { d with sbusy := true }
     let refused : Die := { d with serr := true }
     (∀ k f x y, s.stopCtx die g = some (.fibre k, y) → MayGoOn s die k f x → d.opened = [] →
       f.run = .stopped none → f.loads = [] → d.sbusy = false →
       (∃ t, exec (.stopResume die g) s = .next t ∧ GoesOn s t k f x (resumesAt f.pos f.tr f.resume) ∧
         ∀ i, t.die i = if i = die then busy else s.die i) ∧
       (∃ t, exec (.stopResumeAt die g) s = .next t ∧ GoesOn s t k f x (posTo d.spc) ∧
         ∀ i, t.die i = if i = die then busy else s.die i) ∧
       ∃ t, exec (.stopEndTarget die g) s = .next t ∧ OnlyDie s t die { busy with ending := some k }) ∧
     (∀ k n x, s.stopSkein die g = some (k, x) → x.run = .held n → d.sbusy = false →
       ∃ t, exec (.stopRelease die g) s = .next t ∧ t.die die = busy ∧
         ∀ j, tget t.skeins j = if j = k then some { x with run := .admitting n } else tget s.skeins j) ∧
     (∀ k x, s.stopSkein die g = some (k, x) → x.run = .resident → x.halted = true → d.sbusy = false →
       s.fibresOf k = [] → ∃ t y, exec (.stopRelease die g) s = .next t ∧ (t.die die).sbusy = true ∧
         tget t.skeins k = some y ∧ y.halted = false ∧ y.dog = 0 ∧
         y.front.run = if x.front.run = .halted then .ready else x.front.run) ∧
     (∀ k x j f, s.stopSkein die g = some (k, x) → x.run = .resident → x.halted = true → d.sbusy = false →
       s.fibresOf k = [j] → tget s.fibres j = some f → f.sk = k → (s.core x.core).bins.length < 32 →
       (∀ e ∈ s.fibres, ∀ w p, e.2.run ≠ .parked w p) →
       let released := fun (h : Fibre) => ∃ t y, exec (.stopRelease die g) s = .next t ∧
         tget t.fibres j = some { h with run := .filed } ∧
         FiledIn t { k := j, f := h, x := x, act := .active } f.pos.pc ∧ (t.die die).sbusy = true ∧
         tget t.skeins k = some y ∧ y.halted = false ∧ ∀ b, t.byte b = s.byte b
       (f.run = .halted none → released f) ∧
       ∀ w next, f.run = .halted (some (w, next)) → released { f with
         rejoin := some { at_ := f.pos.pc, wait := w, next := next } }) ∧
     (∀ k f x, s.stopCtx die g = some (.fibre k, x) → tget s.fibres k = some f → f.run = .stopped none →
       d.sbusy = false →
       let n := g.reg.toNat
       let w := d.sdata
       (n < 0x80 → n < x.lr.regs →
         (∃ t, exec (.stopReadRegister die g) s = .next t ∧
           OnlyDie s t die { busy with sdata := (f.reg n).zeroExtend 64 }) ∧
         ∃ t, exec (.stopWriteRegister die g) s = .next t ∧
           tget t.fibres k = some (f.set n (w.setWidth 32)) ∧ t.die die = busy) ∧
       (0x80 < n → n < 0x88 →
         (∃ t, exec (.stopReadRegister die g) s = .next t ∧
           OnlyDie s t die { busy with sdata := if f.pred (n - 0x80) then 1 else 0 }) ∧
         ∃ t, exec (.stopWriteRegister die g) s = .next t ∧
           tget t.fibres k = some (f.setPred (n - 0x80) (w.getLsbD 0)) ∧ t.die die = busy) ∧
       (0x100 ≤ n → n < 0x200 → specialListed (n - 0x100) = true →
         ∃ t, exec (.stopReadRegister die g) s = .next t ∧
           OnlyDie s t die { busy with sdata := readSpecial s f x (n - 0x100) }) ∧
       (0x200 ≤ n → ∀ i ∈ [Instr.stopReadRegister die g, .stopWriteRegister die g],
         ∃ t, exec i s = .next t ∧ OnlyDie s t die refused)) ∧
     (∀ k x, s.stopCtx die g = some (.front k, x) → tget s.skeins k = some x → x.front.run = .stopped none →
       d.sbusy = false →
       let n := g.reg.toNat
       (0x200 ≤ n → n < 0x240 →
         (∃ t, exec (.stopReadRegister die g) s = .next t ∧
           OnlyDie s t die { busy with sdata := x.front.reg (n - 0x200) }) ∧
         ∃ t, exec (.stopWriteRegister die g) s = .next t ∧ t.die die = busy ∧
           tget t.skeins k = some { x with front := x.front.set (n - 0x200) d.sdata }) ∧
       (x.run = .resident → x.core / 64 = die → d.waits = [] → d.opened = [] →
         ∃ t, exec (.stopResume die g) s = .next t ∧ t.die die = busy ∧
           tget t.skeins k = some { x with front := { x.front with
             pos := resumesAt x.front.pos x.front.tr x.front.resume
             run := .ready
             clause := none } })) ∧
     (let turnedAway := fun (l : List Instr) => ∀ i ∈ l, ∃ t, exec i s = .next t ∧ OnlyDie s t die refused
      let onCtx := [Instr.stopResume die g, .stopResumeAt die g, .stopEndTarget die g, .stopReadRegister die g,
        .stopWriteRegister die g]
      ((∀ c x, s.stopCtx die g = some (c, x) → s.isStopped c = false ∧ x.halted = false) → turnedAway onCtx) ∧
      ((∀ k x, s.stopSkein die g = some (k, x) → (∀ n, x.run ≠ .held n) ∧ x.halted = false) →
        turnedAway [.stopRelease die g]) ∧
      (d.sbusy = true → turnedAway (.stopRelease die g :: onCtx))) ∧
     (∀ a : BitVec 3, 6 ≤ a.toNat → ∃ t, exec (.stopCommandRefused die a) s = .next t ∧
       OnlyDie s t die refused) ∧
     (d.sbusy = true → d.ending = none → ∃ t, exec (.stopCommandDone die) s = .next t ∧
       OnlyDie s t die { d with sbusy := false }) ∧
     ∀ k f, d.sbusy = true → d.ending = some k → tget s.fibres k = some f →
       (f.stores = [] → f.steers = [] → ∃ t, exec (.stopCommandDone die) s = .next t ∧
         tget t.fibres k = none ∧ (t.die die).sbusy = false ∧ (t.die die).ending = none ∧
         ∀ b, t.byte b = s.byte b) ∧
       (f.stores ≠ [] → exec (.stopCommandDone die) s = .next s)) ∧
  (∀ (s : State) (k : Nat) (x : Skein), Inv s = true → tget s.skeins k = some x → x.watched = true →
     (s.wdlim ≠ 0 → s.wdlim.toNat ≤ x.dog → bitOf x.ctl.toNat 21 = false →
       ∃ t y, exec (.watchdogExpiry k) s = .next t ∧ (∀ b, t.byte b = s.byte b) ∧
         t.hevt = s.hevt ||| 1 ∧ tget t.skeins k = some y ∧ y.dog = 0 ∧
         (x.front.run = .ready ∨ x.front.run = .faulting ∨ x.front.run = .saved →
           y.front.run = .stopped none ∧ y.front.tr.cause = 0x50 ∧
           y.front.tr.pc = if x.front.pos.pc = x.front.pos.hdr then x.front.pos.pc + 4 else x.front.pos.pc) ∧
         (∀ j f, tget s.fibres j = some f → f.sk = k → f.run.live = true →
           ∃ g, tget t.fibres j = some g ∧ g.run = .stopped none ∧ g.tr.cause = 0x50 ∧
             g.tr.mask = laneBit f.lane.toNat ∧ g.v = f.v ∧
             g.tr.pc = if f.pos.pc = f.pos.hdr then f.pos.pc + 4 else f.pos.pc) ∧
         ∀ j f, tget s.fibres j = some f → (f.sk ≠ k ∨ f.run.live = false) → tget t.fibres j = some f) ∧
     (s.wdlim = 0 ∨ x.dog < s.wdlim.toNat → exec (.watchdogExpiry k) s = .next s))

/-! ### The dies: faults, invalidation and regions -/

/-- 12 R310 R311: a waiting fault is posted in the ring of its die and its fibre stops with the record's
tag; a resume closes the record and the fibre goes on at its trap's place, and a discard closes it and
leaves the fibre stopped. 12 R312: an invalidation removes from its die and the die's cores the cached
translations and buffer entries that it names, and no others, and is in progress until the accesses under
way are performed; a command while one is in progress is refused. -/
def Obligations.FaultsAndInvalidationsAreServed : Prop :=
  (∀ (s : State) (die k : Nat) (f : Fibre), Inv s = true → tget s.fibres k = some f →
     let d := s.die die
     (∀ w, d.waits = [w] → d.opened = [] → w.agent = .ctx (.fibre k) → RingOpen s d.fq 32 →
       ∃ t, exec (.faultPost die) s = .next t ∧
         Wrote s t (d.fq.slotAddr 32) (
           bytesOf (d.faultTag.toNat + 2 ^ 16 * w.ctx + 2 ^ 32 * w.src + 2 ^ 35 * w.cause.level +
             2 ^ 37 * w.cause.kind + if w.write then 2 ^ 39 else 0) 8 ++
           bytesOf w.va 8 ++ bytesOf (w.core + 2 ^ 8 * w.chan) 8 ++ bytesOf 0 8) ∧
         (∀ i, t.die i = if i = die then { d with
           fq := d.fq.push
           faultTag := d.faultTag + 1
           waits := []
           opened := [{ tag := d.faultTag, ctx := w.ctx, page := w.va / 2 ^ 15, cause := w.cause,
                        stoppers := [.ctx (.fibre k)] }] } else s.die i) ∧
         ∀ j, tget t.fibres j = if j = k then some { f with
           tr := w.tr
           resume := w.pos.hdr
           pos := w.pos
           run := .stopped (some d.faultTag) } else tget s.fibres j) ∧
     ∀ o, d.opened = [o] → o.stoppers = [.ctx (.fibre k)] →
       (∀ x, MayGoOn s die k f x → f.run = .stopped (some o.tag) →
         ∃ t, exec (.faultResume die o.tag) s = .next t ∧
           GoesOn s t k f x (resumesAt f.pos f.tr f.resume) ∧ (t.die die).opened = []) ∧
       (∃ t, exec (.faultDiscard die o.tag) s = .next t ∧ OnlyDie s t die { d with opened := [] }) ∧
       ∀ g : BitVec 16, g ≠ o.tag → exec (.faultResume die g) s = .next s ∧
         exec (.faultDiscard die g) s = .next s) ∧
  (∀ (s : State) (die : Nat) (ctx : BitVec 16), Inv s = true →
     let d := s.die die
     let own := fun (c : Nat) => c = ctx.toNat
     let range := fun (a n : Nat) => a < d.invaddr.toNat + d.invlen.toNat ∧ d.invaddr.toNat < a + n
     (∀ e ∈ ([(.invalidateVaRange die ctx, fun x => own x.ctx ∧ range (x.page * 2 ^ 15) (x.size * 2 ^ 15),
           fun _ => False),
         (.invalidateContextTranslations die ctx, fun x => own x.ctx, fun _ => False),
         (.invalidateBufferEntries die ctx, fun _ => False, fun b => own b.ctx ∧
           d.invaddr.toNat ≤ b.index ∧ b.index < d.invaddr.toNat + d.invlen.toNat),
         (.invalidateContextAll die ctx, fun x => own x.ctx, fun b => own b.ctx),
         (.invalidateAllContexts die, fun _ => True, fun _ => True)] :
           List (Instr × (Xlat → Prop) × (BufCache → Prop))),
       (d.inval = none → ∃ t, exec e.1 s = .next t ∧
         t = { s with
           cores := t.cores
           dies := t.dies } ∧
         (t.die die).inval.isSome = true ∧ (∀ i, i ≠ die → t.die i = s.die i) ∧
         (∀ x, x ∈ (t.die die).xlats ↔ x ∈ d.xlats ∧ ¬ e.2.1 x) ∧
         (∀ c, c / 64 = die → (∀ x, x ∈ (t.core c).xlats ↔ x ∈ (s.core c).xlats ∧ ¬ e.2.1 x) ∧
           ∀ b, b ∈ (t.core c).bufs ↔ b ∈ (s.core c).bufs ∧ ¬ e.2.2 b) ∧
         ∀ c, c / 64 ≠ die → t.core c = s.core c) ∧
       (d.inval.isSome = true → ∃ t, exec e.1 s = .next t ∧ OnlyDie s t die { d with inverr := true })) ∧
     (∀ v, d.inval = some v →
       (v.loads = [] → v.stores = [] → v.remotes = [] → s.packets = [] →
         ∃ t, exec (.invalidateDone die) s = .next t ∧ (t.die die).inval = none ∧
           ∀ b, t.byte b = s.byte b) ∧
       (∀ c i, (c, i) ∈ v.stores → (∃ y ∈ s.storesOf c, y.id = i) →
         exec (.invalidateDone die) s = .next s)))

/-- 12 R302 R303: a tracking window of a die in service ends: a region that two dies accessed is split, one that the
same other die alone accessed in two windows begins to move there, and two halves that have been split for long and
that nobody accesses merge. The move waits until no packet is on its way to the old holder; then it passes the
holdership and the dirty lines with the marks of their bytes, and the old holder keeps no line. -/
def Obligations.RegionsSplitAndMove : Prop :=
  (∀ (s : State) (die : Nat) (r : Region), Inv s = true → s.regions = [r] → s.homeDie r.base = die →
     128 ≤ r.size →
     let n := (tget s.windows die).getD 0
     let closed := fun (l : List Region) => exec (.trackingWindow die) s =
       .next { s with
         windows := tput s.windows die (n + 1)
         regions := l }
     let ended := fun (m : Option Nat) => closed [{ r with
       moving := m
       before := r.now
       now := [] }]
     (s.clk.toNat < 65536 * (n + 1) ∨ s.insvc.getLsbD die = false →
       exec (.trackingWindow die) s = .next s) ∧
     (65536 * (n + 1) ≤ s.clk.toNat → s.insvc.getLsbD die = true →
       (r.moving = none → 2 ≤ r.now.length → 128 < r.size →
         let h : Region := { base := r.base, size := r.size / 2, holder := r.holder, split := s.clk.toNat }
         closed [h, { h with base := r.base + r.size / 2 }]) ∧
       (r.moving = none → 2 ≤ r.now.length → r.size = 128 → ended none) ∧
       (∀ d, r.moving = none → r.now = [d] → ended (if r.before = [d] ∧ d ≠ r.holder then some d else none)) ∧
       (r.moving = none → r.now = [] → ended none) ∧
       ∀ d, r.moving = some d → ended (some d))) ∧
  (∀ (s : State) (die : Nat) (a b : Region), Inv s = true → s.regions = [a, b] → s.homeDie a.base = die →
     s.homeDie b.base = die → s.insvc.getLsbD die = true → 0 < a.size → a.size < 65536 → b.size = a.size →
     a.base % (2 * a.size) = 0 → b.base = a.base + a.size → b.holder = a.holder → a.moving = none →
     b.moving = none → a.now = [] → b.now = [] → a.split + 2 ^ 20 ≤ s.clk.toNat →
     b.split + 2 ^ 20 ≤ s.clk.toNat →
     let n := (tget s.windows die).getD 0
     65536 * (n + 1) ≤ s.clk.toNat → exec (.trackingWindow die) s = .next { s with
       windows := tput s.windows die (n + 1)
       regions := [{ base := a.base, size := 2 * a.size, holder := a.holder }] }) ∧
  (∀ (s : State) (d : Nat) (r : Region), Inv s = true → s.regions = [r] → r.moving = some d →
     let inside := fun (line : Nat) => r.base ≤ line * 128 ∧ line * 128 < r.base + r.size
     let onWay := fun (k : Packet) => k.dst = r.holder ∧ k.at_ ≠ .applied ∧
       k.access.pa < r.base + r.size ∧ r.base < k.access.pa + k.data.length
     ((∃ k ∈ s.packets, onWay k) → exec (.holderMove r.base d) s = .next s) ∧
     ((∀ k ∈ s.packets, ¬ onWay k) → (∀ e ∈ s.regs, ¬ inside e.1) → r.holder ≠ d →
       ∃ t, exec (.holderMove r.base d) s = .next t ∧ (∀ b, t.byte b = s.byte b) ∧
         t.regions = [{ r with
           holder := d
           moving := none }] ∧
         (∀ e ∈ t.l2, inside e.1 → e.2.die ≠ r.holder) ∧
         ∀ line x, inside line → (∀ e, e ∈ s.l2 ∧ inside e.1 ∧ e.2.die = r.holder ↔ e = (line, x)) →
           (s.l2Set d line).length < 24 → ∀ j, tget t.l2 j =
             if j ≠ line then tget s.l2 j
             else if x.dirty = 0 then none
             else some { die := d, dirty := x.dirty }))

/-! ### The fabric and the Krytist domain -/

/-- 15 R361 R364 R365: a write packet whose check passes is applied at its destination, one whose check
fails is held early, and one of a stale incarnation is dropped and counted; an acknowledgement tells the
sender the applied count, and the release that waited for it leaves its store queue; a lost packet travels again.
15 R367-R369: the removal of a die that holds no region: every other agent records its next incarnation, the packets
that survivors have accepted from it are applied, those sent to it are discarded and reported, its skeins are lost and
reported and what it kept is gone; a resynchronisation zeroes every counter, raises every incarnation and sends an
unaccepted packet again with a new stamp. -/
def Obligations.PacketsArriveAndAgentsLeave : Prop :=
  (∀ (s : State) (k : Packet), Inv s = true → s.packets = [k] → k.acked = false →
     let arrive := exec (.packetArrival k.src k.dst) s
     let ack := exec (.packetAck k.src k.dst) s
     let d := s.die k.dst
     let told := fun (t : State) => tgetD (t.die k.src).a k.dst 0 = tgetD d.d k.src 0 ∧
       (∀ b, t.byte b = s.byte b) ∧ t.packets = if k.at_ = .applied then [] else [{ k with acked := true }]
     (k.at_ = .flight → s.insvc.getLsbD k.dst = true →
       (k.inc ≠ tgetD d.incs k.src 0 → ∃ t, arrive = .next t ∧
         t = { s with
           packets := []
           dies := t.dies } ∧ ∀ i, t.die i = if i = k.dst then { d with drops := d.drops + 1 } else s.die i) ∧
       (k.inc = tgetD d.incs k.src 0 →
         (PacketPasses s k → InMemory s k.access → k.access.n = k.data.length →
           ∃ t, arrive = .next t ∧ Wrote s t k.access.pa k.data ∧
             t.packets = [{ k with at_ := .applied }] ∧
             tgetD (t.die k.dst).d k.src 0 = k.stamp.getD k.src 0 ∧
             ∀ i, i ≠ k.src → tgetD (t.die k.dst).d i 0 = tgetD d.d i 0) ∧
         (¬ PacketPasses s k → ∃ t, arrive = .next t ∧
           t = { s with
             packets := [{ k with at_ := .early }]
             dies := t.dies } ∧ (t.die k.dst).d = d.d ∧ (t.die k.dst).c = d.c))) ∧
     (k.at_ = .lost ∨ s.insvc.getLsbD k.dst = false → arrive = .next s) ∧
     (∃ t, exec (.linkReplay k.src k.dst) s = .next t ∧ t = { s with
       packets := [{ k with at_ := if k.at_ = .lost then .flight else k.at_ }] }) ∧
     (k.at_ = .applied ∨ k.at_ = .early →
       (k.release = none → ∃ t, ack = .next t ∧ told t ∧ t.fibres = s.fibres) ∧
       ∀ j id f, k.release = some (.fibre j, id) → tget s.fibres j = some f → ∃ t, ack = .next t ∧ told t ∧
         ∀ i, tget t.fibres i = if i = j then some { f with stores := f.stores.filter (fun y => y.id != id) }
           else tget s.fibres i) ∧
     (k.at_ = .flight ∨ k.at_ = .lost → ack = .next s)) ∧
  ((∀ (s : State) (r : Nat), Inv s = true → s.hstate = 0 → r < 4 →
     let gone := exec (.dieRemoval r) s
     (s.insvc.getLsbD r = false → gone = .next s) ∧
     (s.insvc.getLsbD r = true → s.regs = [] → s.regions = [] → s.maps = [] → s.pools = [] →
       (s.packets = [] →
         ∃ t, gone = .next t ∧ (∀ b, t.byte b = s.byte b) ∧
           (∀ i, t.insvc.getLsbD i = (s.insvc.getLsbD i && i != r)) ∧
           (∀ a, a < 5 → a ≠ r → tgetD (t.die a).incs r 0 = (s.die r).inc + 1 ∧
             tgetD (t.die a).d r 0 = 0 ∧ tgetD (t.die a).a r 0 = 0 ∧ (t.die a).inc = (s.die a).inc ∧
             ∀ i, i < 5 → tgetD (t.die a).c (5 * r + i) 0 = 0 ∧ tgetD (t.die a).c (5 * i + r) 0 = 0) ∧
           t.die r = { inc := (s.die r).inc, wear := (s.die r).wear, eoldays := (s.die r).eoldays,
                       thrcyc := (s.die r).thrcyc, corrected := (s.die r).corrected,
                       coresvc := (s.die r).coresvc } ∧
           (∀ j x, tget s.skeins j = some x → x.core / 64 = r → x.holding = true →
             .skeinLost x.launch x.idx ∈ t.outbox ∧
             ∃ y, tget t.skeins j = some y ∧ y.run = .lost ∧ y.slots = [] ∧ y.front.run = .halted ∧
               ∀ i f, tget s.fibres i = some f → f.sk = j →
                 ∃ g, tget t.fibres i = some g ∧ g.run = .halted none ∧ g.v = f.v ∧ g.loads = [] ∧
                   g.stores = []) ∧
           ∀ j x, tget s.skeins j = some x → x.core / 64 ≠ r → tget t.skeins j = some x) ∧
       ∀ k, s.packets = [k] → k.release = none →
         (k.dst = r → k.src ≠ r → k.at_ ≠ .applied → EventsOpen s →
           (isPackage (s.eq.slotAddr 32) = true → s.homeDie (s.eq.slotAddr 32) ≠ r) →
           ∃ t, gone = .next t ∧ t.packets = [] ∧ Posts s t 1 k.access.ctx s.devnum.toNat k.access.pa 1) ∧
         (k.src = r → k.dst ≠ r → k.at_ = .early → s.homeGone k.access.pa = false →
           k.access.pa % 128 + k.data.length ≤ 128 → s.homeDie k.access.pa ≠ r →
           ∃ t, gone = .next t ∧ t.packets = [] ∧ Wrote s t k.access.pa k.data) ∧
         (k.src = r → k.dst ≠ r → k.at_ = .flight →
           ∃ t, gone = .next t ∧ t.packets = [k] ∧ ∀ b, t.byte b = s.byte b))) ∧
   ∀ (s : State), Inv s = true → s.hstate = 0 → ∀ i ∈ [Instr.resync, .fabricFault],
     let raised := fun (t : State) => ∀ a, a < 5 → (t.die a).d = [] ∧ (t.die a).a = [] ∧
       (t.die a).inc = (s.die a).inc + 1 ∧
       ∀ b, b < 5 → b ≠ a → tgetD (t.die a).incs b 0 = tgetD (s.die a).incs b 0 + 1
     (s.packets = [] → ∃ t, exec i s = .next t ∧ t = { s with dies := t.dies } ∧ raised t ∧
       ∀ a, a < 5 → (t.die a).c = []) ∧
     ∀ k, s.packets = [k] → k.src < 5 → k.dst < 4 → s.insvc.getLsbD k.src = true → k.release = none →
       (k.at_ = .flight ∨ k.at_ = .lost → ∃ t, exec i s = .next t ∧ raised t ∧ (∀ b, t.byte b = s.byte b) ∧
         t.packets = [if k.inc = (s.die k.src).inc then { k with
           inc := k.inc + 1
           stamp := (List.range 5).map (fun a => if a = k.src then 1 else 0)
           at_ := .flight } else k]) ∧
       (k.at_ = .early → s.regs = [] → s.homeGone k.access.pa = false →
         k.access.pa % 128 + k.data.length ≤ 128 →
         ∃ t, exec i s = .next t ∧ raised t ∧ t.packets = [] ∧ Wrote s t k.access.pa k.data) ∧
       (k.at_ = .applied → ∃ t, exec i s = .next t ∧ raised t ∧ t.packets = [] ∧ ∀ b, t.byte b = s.byte b))

/-- 16 R390-R393: a request of another device is dropped without an export that covers it or with a stale
incarnation, waits while its lines are held, and is else performed in memory as one access, with its answer;
combined requests are one update. 05 R148 R149, 08 R228: the answer to a remote load, a store or a line of a reel
command reaches it; a request without an answer within RTMO is lost, which its load or its command learns and an
event tells of a store or a reduction; a port that fails or comes up is an event, and changes PORTUP. -/
def Obligations.RemoteRequestsAndAnswersAreServed : Prop :=
  (∀ (s : State) (r : RemoteReq), Inv s = true →
     let pa := r.pa.toNat
     let n := remoteBytes r.op
     let a := unitAccess pa n
     let old := ofBytes (s.bytes pa n)
     let reads := ∀ l, r.op ≠ .write l
     let writes := ∀ k, r.op ≠ .read k
     let granted := r.inc = s.devinc ∧ isPackage pa = true ∧ ∃ e ∈ s.exports, ∃ rd wr,
       (rd = true ↔ reads) ∧ (wr = true ↔ writes) ∧ Covers e.2 r.src.toNat pa n rd wr
     let held := s.outsideHeld pa n (remoteWrites r.op)
     let does := fun (data : List Byte) (m : RemoteResp) => ∃ t, exec (.remoteRequest r) s = .next t ∧
       Wrote s t pa data ∧ t.outbox = s.outbox ++ [.response r.src.toNat m]
     (¬ granted → ∃ t, exec (.remoteRequest r) s = .next t ∧
       t = { s with outbox := s.outbox ++ [.response r.src.toNat .dropped] }) ∧
     (granted → held = true → ∃ t, exec (.remoteRequest r) s = .next t ∧
       t = { s with waiting := s.waiting ++ [.remote r] }) ∧
     (granted → held = false → InMemory s a → 1 ≤ n →
       (∀ k, r.op = .read k → ∃ t, exec (.remoteRequest r) s = .next t ∧
         Answered s t (.response r.src.toNat (.data (s.bytes pa k)))) ∧
       (∀ l, r.op = .write l → does l (.data [])) ∧
       (∀ o k d c w, r.op = .atomic o k d c w →
         does (bytesOf (atomValue o.toNat k old d c) k) (.data (if w then s.bytes pa k else []))) ∧
       (∀ o ds, r.op = .reduce o ds → does (bytesOf (reduceValue o.toNat old ds) n) (.data [])) ∧
       ∀ o k ds, r.op = .combined o k ds → does (bytesOf (combinedValue o.toNat k old ds) k) (.data []))) ∧
  (∀ (s : State) (id : Nat), Inv s = true →
     let answer := fun m => exec (.remoteResponse id m) s
     let timeout := exec (.remoteTimeout id) s
     let left := fun (t : State) => ∀ j, tget t.remotes j = if j = id then none else tget s.remotes j
     (tget s.remotes id = none → timeout = .next s ∧ ∀ m, answer m = .next s) ∧
     (∀ r k l f y a, tget s.remotes id = some r → r.use = .load (.fibre k) l → tget s.fibres k = some f →
       f.loads = [y] → y.id = l → y.src = .remote a .waiting →
       let has := fun (t : State) (z : RemoteState) => t = { withWorkers s t.fibres s.strands s.skeins with
           remotes := t.remotes } ∧ left t ∧
         ∀ j, tget t.fibres j = if j = k then some { f with loads := [{ y with src := .remote a z }] }
           else tget s.fibres j
       (s.clk.toNat < r.sent + s.rtmo.toNat → timeout = .next s ∧
         (∀ b, ∃ t, answer (.data b) = .next t ∧ has t (.arrived b)) ∧
         (∃ t, answer .dropped = .next t ∧ has t .dropped) ∧
         ∃ t, answer .poisoned = .next t ∧ has t .poisoned) ∧
       (OnlyDue s id r → (∃ t, timeout = .next t ∧ has t .lost) ∧ ∀ m, ∃ t, answer m = .next t ∧ has t .lost)) ∧
     (∀ r ctx core, tget s.remotes id = some r → r.use = .store ctx core none → EventsOpen s →
       (s.clk.toNat < r.sent + s.rtmo.toNat →
         (∀ m, m ≠ .dropped → ∃ t, answer m = .next t ∧ t = { s with remotes := t.remotes } ∧ left t) ∧
         ∃ t, answer .dropped = .next t ∧ left t ∧ Posts s t 3 ctx r.dev r.pa 1) ∧
       (OnlyDue s id r → ∃ t, timeout = .next t ∧ left t ∧ Posts s t 1 ctx r.dev r.pa 1)) ∧
     (∀ r q ctx core, s.remotes = [(id, r), (id + 1, q)] → r.use = .store ctx core none →
       q.use = .store ctx core none → q.dev = r.dev → r.sent + s.rtmo.toNat ≤ s.clk.toNat →
       q.sent + s.rtmo.toNat ≤ s.clk.toNat → EventsOpen s →
       ∃ t, timeout = .next t ∧ t.remotes = [] ∧
         Posts s t 1 ctx r.dev r.pa (if r.pa / 128 = q.pa / 128 then 1 else 2)) ∧
     (∀ r k ch cmd piece ctx x c l, tget s.remotes id = some r →
       (r.use = .reel k ch cmd piece ∨ r.use = .reduce k ch cmd piece ctx) → tget s.skeins k = some x →
       (x.chan ch).cmds = c :: l → c.id = cmd → EventsOpen s →
       let has := fun (t : State) (d : ReelCmd) => left t ∧ t.fibres = s.fibres ∧
         ∀ j, tget t.skeins j = if j = k then some (withChan x ch { x.chan ch with cmds := d :: l })
           else tget s.skeins j
       let told := fun (t : State) (typ : Nat) => if r.use = .reel k ch cmd piece then ∀ b, t.byte b = s.byte b
         else Posts s t typ ctx r.dev r.pa 1
       (s.clk.toNat < r.sent + s.rtmo.toNat →
         (∀ b, ∃ t, answer (.data b) = .next t ∧ (∀ a, t.byte a = s.byte a) ∧
           has t { c with got := tput c.got piece (if c.form = 7 then [] else b) }) ∧
         (∃ t, answer .poisoned = .next t ∧ (∀ a, t.byte a = s.byte a) ∧
           has t { c with bad := some (c.bad.getD 2) }) ∧
         ∃ t e, answer .dropped = .next t ∧ told t 3 ∧ has t { c with bad := some (c.bad.getD e) }) ∧
       (OnlyDue s id r → ∃ t, timeout = .next t ∧ told t 2 ∧ has t { c with bad := some 3 }))) ∧
  ∀ (s : State) (port : Nat), Inv s = true → port < 36 →
    (s.portup.getLsbD port = true → s.remotes = [] → EventsOpen s →
      ∃ t, exec (.portDown port) s = .next t ∧ Posts s t 5 0 port 0 0 ∧
        ∀ i, t.portup.getLsbD i = (s.portup.getLsbD i && i != port)) ∧
    (s.portup.getLsbD port = false → ∃ t, exec (.portUp port) s = .next t ∧
      (∀ i, t.portup.getLsbD i = (s.portup.getLsbD i || i == port)) ∧ t.linkups = s.linkups + 1) ∧
    (s.portup.getLsbD port = false → exec (.portDown port) s = .next s) ∧
    (s.portup.getLsbD port = true → exec (.portUp port) s = .next s)

/-- 14 R337 R339 R341 R343-R345: the oldest request of a bank acts on its row: a row in a fast slot keeps
its place, one outside takes the victim of the clock unless it acts as S or a mitigation is due; a pin
beyond PINMAX is refused and counted; the counter of the previous row moves, and the row stays open by its own. It
changes no value (R338). 14 R346-R348 R352: an owed refresh covers every bank of its pseudo-channel and carries one
step of its channel's retraining, unless it is a mitigation; the ninth owed one issues the first; an alert is
mitigated by the number of refreshes owed, and ends a step of the retraining or not. -/
def Obligations.BanksServeAndRefresh : Prop :=
  (∀ (s : State) (k : Nat), Inv s = true →
     let b := tgetD s.banks k {}
     (b.queue = [] → exec (.bankAccess k) s = .next s) ∧
     ∀ r q, b.queue = r :: q → b.hand < 2048 →
       let st := s.stack (k / 1024)
       let c := requestClass st r
       let pin := decide (b.pins < st.pinmax.toNat)
       let owed := (tgetD s.pseudos (k / 16) {}).owed
       let alerted := s.alerted (k / 16)
       let hit := b.isOpen && b.last == some r.row && decide (owed < 8)
       let refreshed : Bool := decide (8 ≤ owed) || (alerted && !hit && decide (0 < owed))
       let managed : Bool := alerted && !hit && owed == 0
       let swaps : Bool := (b.slotOf r.row).isNone && (c == some .c || c == some .f) && !(alerted && hit)
       let acts := fun (j : Nat) => (if b.alert = true ∧ (refreshed || managed) = true then 0 else tgetD b.acts j 0) +
         if r.op = 0 ∧ hit = false ∧ j = r.row then 1 else 0
       ∃ t, exec (.bankAccess k) s = .next t ∧ OnlyBanks s t ∧
         let d := tgetD t.banks k {}
         let e := tgetD t.channels (k / 32) {}
         let y := tgetD s.channels (k / 32) {}
         d.queue = q ∧ d.last = (if r.op = 0 then some r.row else b.last) ∧
         (∀ i, i ≠ k → let x := tgetD s.banks i {}
           tgetD t.banks i {} = if i / 16 = k / 16 ∧ (refreshed = true ∨ managed = true ∧ x.alert = true)
             then closedBank x else x) ∧
         (swaps = true → TakesVictim b d r.row (c == some .f && pin) acts) ∧
         (swaps = false → d.hand = b.hand ∧ (∀ j, tgetD d.acts j 0 = acts j) ∧
           (∀ j, d.slot j = if b.slotOf r.row = some j then slotAfter c pin (b.slot j) else b.slot j) ∧
           (r.op = 0 → (d.isOpen = true ↔
             2 ≤ (tgetD e.counters (counterIndex (k / 16 % 2) (k % 16) r.row) 2).toNat))) ∧
         (∀ i, t.stack i = if i ≠ k / 1024 then s.stack i else { st with
           swaps := st.swaps + if swaps = true then 1 else 0
           pinfail := st.pinfail + if c = some .f ∧ pin = false ∧
               (swaps = true ∨ ∃ i, b.slotOf r.row = some i ∧ (b.slot i).pin = false) then 1 else 0 }) ∧
         (∀ i, (tgetD t.pseudos i {}).owed = if i = k / 16 ∧ refreshed = true then owedAfter alerted owed
           else (tgetD s.pseudos i {}).owed) ∧
         e.stepping = false ∧ e.train = y.train - (if 8 ≤ owed then stepCount alerted owed else 0) ∧
         (r.op = 0 → e.bursts = (y.bursts + 1) % 2 ^ 20 ∧ e.errors = (if e.bursts = 0 then [] else y.errors) ∧
           ∀ w, b.last = some w →
             let at_ := counterIndex (k / 16 % 2) (k % 16) w
             ∀ i, tgetD e.counters i 2 = let x := tgetD y.counters i 2
               if i = at_ then stepCounter x (r.row == w) else x)) ∧
  (∀ (s : State) (p : Nat), Inv s = true →
     let owed := (tgetD s.pseudos p {}).owed
     let alerted := s.alerted p
     let covered := fun (t : State) => ∀ i, tget t.banks i =
       (tget s.banks i).map (fun b => if i / 16 = p then closedBank b else b)
     let owes := fun (t : State) (n : Nat) => ∀ i, (tgetD t.pseudos i {}).owed = if i = p then n
       else (tgetD s.pseudos i {}).owed
     let channel := fun (t : State) (c : Channel) => ∀ i, tgetD t.channels i {} = if i = p / 2 then c
       else tgetD s.channels i {}
     let c := tgetD s.channels (p / 2) {}
     (owed = 0 → exec (.refresh p) s = .next s) ∧
     (0 < owed → ∃ t, exec (.refresh p) s = .next t ∧ OnlyBanks s t ∧ covered t ∧ t.hbms = s.hbms ∧
       owes t (owedAfter alerted owed) ∧ channel t (stepsRun (stepCount alerted owed) c)) ∧
     (p < 512 →
       let x := if 8 ≤ owed then stepsRun (stepCount alerted owed) c else c
       let rtint := (s.stack (p / 64)).rtint.toNat
       let due := rtint ≠ 0 ∧ rtint ≤ x.issued + 1
       ∃ t, exec (.refreshOwed p) s = .next t ∧ OnlyBanks s t ∧ t.hbms = s.hbms ∧
         (if 8 ≤ owed then covered t else t.banks = s.banks) ∧
         owes t ((if 8 ≤ owed then owedAfter alerted owed else owed) + 1) ∧
         channel t (if p % 2 ≠ 0 then x else { x with
           issued := if due then 0 else x.issued + 1
           train := if due then 16 else x.train })) ∧
     (512 ≤ p → exec (.refreshOwed p) s = .next s) ∧
     (∀ k, k < 8192 → k / 16 = p → ∃ t x, exec (.activationAlert k) s = .next t ∧
       (x = c ∨ c.stepping = true ∧ x = { c with
         stepping := false
         train := c.train + 1 }) ∧
       OnlyBanks { s with fresh := s.fresh + 1 } t ∧
       (∀ i, t.stack i = if i = k / 1024 then { s.stack i with alerts := (s.stack i).alerts + 1 }
         else s.stack i) ∧
       ((tgetD t.banks k {}).alert = true ∧ t.pseudos = s.pseudos ∧ channel t x ∨
         (∀ i, i / 16 = p → (tgetD t.banks i {}).alert = false) ∧ owes t (owedAfter true owed) ∧
         channel t (if owed = 0 then x else stepsRun (stepCount true owed) x))) ∧
     ∀ k, 8192 ≤ k → exec (.activationAlert k) s = .next s)

/-- 14 R349-R352, 12 R300: a burst is replayed three times, then its sectors are poisoned, those of a read only as they
are returned; a lane at LTHR takes a spare, or its channel goes out of service and reads return poison; a scrub
corrects or poisons; UNPIN clears pins; IDTAB changes until it is locked, entries of code 3 not at all; a line of the
L2 in error is read again or poisoned, and a registration in error is lost with its bytes. The size of a burst and
which attempt was a read are the model's free choices (log 64), and an error that a die has corrected raises its
counter. -/
def Obligations.MemoryErrorsAreContained : Prop :=
  ∀ (s : State), Inv s = true →
    (∀ k lane again, isPackage (k * 32) = true →
      let ch := s.channelOf (k * 32)
      let n := tgetD (tgetD s.channels ch {}).replays k 0 + 1
      ∃ t, exec (.burstCrcFail k lane again) s = .next t ∧ (∀ a, t.byte a = s.byte a) ∧
        tgetD (tgetD t.channels ch {}).errors lane 0 = tgetD (tgetD s.channels ch {}).errors lane 0 + 1 ∧
        (n ≤ 3 → t.poison = s.poison ∧ (t.stack (ch / 32)).replays = (s.stack (ch / 32)).replays + 1 ∧
          tgetD (tgetD t.channels ch {}).replays k 0 = if again = true then n else 0) ∧
        (3 < n → t.hbms = s.hbms ∧ ∃ z ∈ [1, 2, 4],
          (∀ i, (tget t.poison i).isSome = ((tget s.poison i).isSome || i / z == k / z)) ∧
          ((∀ i, i / z = k / z → i ∉ t.flown) ∨
            ∀ i, i / z = k / z → tget s.poison i = none → i ∈ t.flown))) ∧
    (∀ k lane again, isPackage (k * 32) = false → exec (.burstCrcFail k lane again) s = .next s) ∧
    (∀ ch lane, let c := tgetD s.channels ch {}
      let st := s.stack (ch / 32)
      let due := max 1 st.lthr.toNat ≤ tgetD c.errors lane 0
      (¬ due → exec (.laneRepair ch lane) s = .next s) ∧
      (due → ∃ t, exec (.laneRepair ch lane) s = .next t ∧
        (∀ a, t.byte a = s.byte a) ∧ (tgetD t.channels ch {}).replays = [] ∧
        (tgetD t.channels ch {}).stepping = false ∧
        (c.spares = 0 → (∀ i, i < 32 → (t.stack (ch / 32)).chdown.getLsbD i =
            (st.chdown.getLsbD i || i == ch % 32)) ∧
          ∀ pa, isPackage pa = true → s.channelOf pa = ch → t.memPoisoned pa = true) ∧
        (0 < c.spares → tget (tgetD t.channels ch {}).map lane = some (8 - c.spares) ∧
          (tgetD t.channels ch {}).spares = c.spares - 1 ∧
          tgetD (tgetD t.channels ch {}).errors lane 0 = 0 ∧
          (t.stack (ch / 32)).repairs = st.repairs + 1 ∧ (t.stack (ch / 32)).chdown = st.chdown))) ∧
    (∀ k, isPackage (k * 32) = true → let h := s.stackOf (k * 32)
      (∃ t, exec (.patrolScrub k true) s = .next t ∧ t = { s with hbms := t.hbms } ∧
        ∀ i, t.stack i = if i = h then { s.stack i with cecnt := (s.stack i).cecnt + 1 } else s.stack i) ∧
      ∃ t, exec (.patrolScrub k false) s = .next t ∧ t = { s with
          hbms := t.hbms
          poison := t.poison
          flown := t.flown } ∧ t.memPoisoned (k * 32) = true ∧ k ∉ t.flown ∧
        ∀ i, t.stack i = if i = h then { s.stack i with uecnt := (s.stack i).uecnt + 1 } else s.stack i) ∧
    (∀ k b, isPackage (k * 32) = false → exec (.patrolScrub k b) s = .next s) ∧
    (∀ h, ∃ t, exec (.unpin h) s = .next t ∧ t = { s with banks := t.banks } ∧
      ∀ i j, (tgetD t.banks i {}).slot j = if i / 1024 = h.toNat then
        { (tgetD s.banks i {}).slot j with pin := false } else (tgetD s.banks i {}).slot j) ∧
    (∀ h v, (s.idlock = true → exec (.idtabWrite h v) s = .next s) ∧
      (s.idlock = false → ∃ t, exec (.idtabWrite h v) s = .next t ∧ t = { s with idtab := t.idtab } ∧
        ∀ j, j < 64 → bitsOf t.idtab.toNat (2 * j + 1) (2 * j) =
          let new := bitsOf v.toNat (2 * (j % 32) + 1) (2 * (j % 32))
          if j / 32 = h.toNat ∧ new ≠ 3 then new else bitsOf s.idtab.toNat (2 * j + 1) (2 * j))) ∧
    (∀ v, exec (.idlock v) s = .next { s with idlock := s.idlock || v = 1 }) ∧
    (∀ l, let counted := fun (t : State) => t.fresh = s.fresh + 1 ∧ ∀ i, t.die i = s.die i ∨
        i = s.holderDie (l * 128) ∧ t.die i = { s.die i with corrected := (s.die i).corrected + 1 }
      let found := exec (.l2UncorrectableError l false) s
      let lost := exec (.l2UncorrectableError l true) s
      (tget s.l2 l = none → ∃ t, found = .next t ∧ counted t ∧ t = { s with
        dies := t.dies
        fresh := t.fresh }) ∧
      (∀ x, tget s.l2 l = some x →
        (x.dirty = 0 → ∃ t, found = .next t ∧ counted t ∧ (∀ a, t.byte a = s.byte a) ∧
          (∀ i, tget t.l2 i = if i = l then none else tget s.l2 i) ∧ (∀ e ∈ t.shadows, e.1 / 4 ≠ l) ∧
          ∀ i, tget t.poison i = if i ∈ s.flown ∧ i / 4 = l then none else tget s.poison i) ∧
        (x.dirty ≠ 0 → ∃ t, found = .next t ∧ counted t ∧ t = { s with
            dies := t.dies
            fresh := t.fresh
            poison := t.poison
            flown := t.flown } ∧
          ∀ i, (tget t.poison i).isSome = ((tget s.poison i).isSome || i / 4 == l))) ∧
      (tget s.regs l = none → ∃ t, lost = .next t ∧ counted t ∧ t = { s with
        dies := t.dies
        fresh := t.fresh }) ∧
      ∀ r, tget s.regs l = some r → ∃ t, lost = .next t ∧
        (∀ a, t.byte a = s.byte a) ∧ (∀ i, tget t.regs i = if i = l then none else tget s.regs i) ∧
        (∀ o ∈ r.offs, (tget t.poison (4 * l + o.1 / 32)).isSome = true) ∧
        (∀ m, tget s.maps r.map = some m → ∃ y, tget t.maps r.map = some y ∧ r.sline ∈ y.poisoned) ∧
        ∀ k x, tget s.skeins k = some x → r.map ∈ x.slots.map (fun e => e.2) →
          ∃ y, tget t.skeins k = some y ∧ y.halted = true)

/-- 11 R291 R292, 16 R397: a cluster that leaves service takes its cores and the pools of the groups on it with it,
fails the plies that have begun there, stops the groups with a skein on it and ends every launch with a pool there,
with a report (log 58). A repair runs while RBUSY is 1 and others are ignored: a core, a die or a lane leaves
service, or a unit comes back; the end of the repair sets HEVT[2], and the groups of a core that does not drain are
stopped there. -/
def Obligations.UnitsLeaveAndReturnToService : Prop :=
  ∀ (s : State), Inv s = true →
    let cleared := fun (t : State) (c : Nat) => (t.die (c / 64)).coresvc.getLsbD (c % 64) = false
    (∀ c, c < 32 → ∃ t, exec (.clusterLeavesService c) s = .next t ∧
      (∀ k, (t.die (k / 64)).coresvc.getLsbD (k % 64) =
        ((s.die (k / 64)).coresvc.getLsbD (k % 64) && k / 8 != c)) ∧
      (∀ k e, tget s.pools k = some e → (tget t.pools k = none ↔ e.clus = c ∧ GroupHere s e.launch e.cgrp)) ∧
      (∀ k e l, tget s.pools k = some e → e.clus = c → GroupHere s e.launch e.cgrp →
        tget s.launches e.launch = some l → OutMsg.poolLost c e.launch ∈ t.outbox ∧
        ∃ y, tget t.launches e.launch = some y ∧ y.waiting = [] ∧ y.aborting = true) ∧
      (∀ k x j y, tget s.skeins k = some x → x.run = .resident → tget s.skeins j = some y → y.holding = true →
        y.core / 8 = c → y.launch = x.launch → y.cgrp = x.cgrp →
        ∃ z, tget t.skeins k = some z ∧ z.halted = true) ∧
      ∀ j l pl, tget s.launches j = some l → pl < 16 → (∃ k ∈ planeOf pl, k / 8 = c) →
        PlyBegunOn s j pl (fun k => k / 8 ≠ c) → OutMsg.plyFailed j pl ∈ t.outbox) ∧
    (∀ c, 32 ≤ c → exec (.clusterLeavesService c) s = .next s) ∧
    (s.rbusy = true → ∀ n k u, exec (.repairCore n) s = .next s ∧ exec (.repairDie n) s = .next s ∧
      exec (.repairUcieLane n) s = .next s ∧ exec (.repairKrytistLane n) s = .next s ∧
      exec (.returnToService k u) s = .next s) ∧
    (s.rbusy = false →
      exec .repairDone s = .next s ∧
      (∀ c, ∃ t, exec (.repairCore c) s = .next t ∧ t.rbusy = true ∧ t.rcore = some c ∧ cleared t c ∧
        (s.groupsOn c = [] → (∀ j pl, s.begunPly j pl = []) → t = { s with
          rbusy := true
          rcore := some c
          dies := t.dies }) ∧
        ∀ j l pl, tget s.launches j = some l → pl < 16 → c ∈ planeOf pl → PlyBegunOn s j pl (fun k => k ≠ c) →
          OutMsg.plyFailed j pl ∈ t.outbox) ∧
      (∀ r, r < 4 → s.hstate = 0 → s.insvc.getLsbD r = true → s.packets = [] → s.regs = [] →
        s.regions = [] → s.maps = [] → s.pools = [] → ∃ t, exec (.repairDie r) s = .next t ∧
          t.rbusy = true ∧ (∀ i, t.insvc.getLsbD i = (s.insvc.getLsbD i && i != r)) ∧
          ∀ b, t.byte b = s.byte b) ∧
      (∀ g, ∃ t, exec (.repairUcieLane g) s = .next t ∧ t = { s with
          rbusy := true
          fresh := t.fresh
          packets := t.packets } ∧ t.packets.length = s.packets.length ∧
        ∀ (i : Nat) (k : Packet), s.packets[i]? = some k →
          t.packets[i]? = some k ∨ k.at_ = .flight ∧ t.packets[i]? = some { k with at_ := .lost }) ∧
      (∀ p, ∃ t, exec (.repairKrytistLane p) s = .next t ∧ t.rbusy = true ∧
        (t = { s with
          rbusy := true
          fresh := s.fresh + 1 } ∨ ∀ i, t.portup.getLsbD i = (s.portup.getLsbD i && i != p))) ∧
      ∀ (k : BitVec 2) (u : BitVec 8), ∃ t, exec (.returnToService k u) s = .next t ∧ t.rbusy = true ∧
        (k = 0 → t = { s with
            rbusy := true
            dies := t.dies } ∧ ∀ c, (t.die (c / 64)).coresvc.getLsbD (c % 64) =
          ((s.die (c / 64)).coresvc.getLsbD (c % 64) || c == u.toNat)) ∧
        (k = 1 → u < 4 → s.insvc.getLsbD u.toNat = false →
          (∀ i, i < 5 → t.insvc.getLsbD i = (s.insvc.getLsbD i || i == u.toNat)) ∧
          (t.die u.toNat).inc = (s.die u.toNat).inc + 1 ∧ (t.die u.toNat).d = [] ∧
          (t.die u.toNat).a = [] ∧ (t.die u.toNat).c = [])) ∧
    (s.rbusy = true →
      ((∀ c, s.rcore = some c → s.coreEmpty c = true) → ∃ t, exec .repairDone s = .next t ∧ t = { s with
        rbusy := false
        rcore := none
        hevt := s.hevt ||| 4
        vecs := t.vecs
        outbox := t.outbox }) ∧
      ∀ c, s.rcore = some c → ∃ t, exec .repairDone s = .next t ∧
        (t.rbusy = true ∧ t.rcore = some c ∧ t.hevt = s.hevt ∨
          t.rbusy = false ∧ t.rcore = none ∧ t.hevt = s.hevt ||| 4 ∧
            ∀ k x, tget t.skeins k = some x → x.core = c → x.run = .resident → x.halted = true))

/-- 16 R396 R398: WEAR never falls and sets HEVT[1] at WEARALERT; a fatal error stops the package, writes the dump, which
ends with a signature of 7,856 bytes, and signals the host; a package reset keeps the dump area and host memory, raises
DEVINC, runs the boot chain, measuring each image before it is checked, and leaves every register at its reset value. -/
def Obligations.PackagesAgeFailAndReset : Prop :=
  (∀ (s : State) (i : Nat) (w : BitVec 10) (n : BitVec 16), Inv s = true →
    let d := s.die i
    let now := if d.wear.toNat < w.toNat then min w.toNat 1000 else d.wear.toNat
    ∃ t, exec (.wearUpdate i w n) s = .next t ∧ t = { s with
        dies := t.dies
        hevt := if s.wearalert.toNat ≤ now then s.hevt ||| 2 else s.hevt
        fresh := t.fresh
        vecs := t.vecs
        outbox := t.outbox } ∧
      ∀ j, t.die j = if j ≠ i then s.die j else { d with
        wear := BitVec.ofNat 10 now
        eoldays := n
        thrcyc := (t.die i).thrcyc }) ∧
  (∀ (s : State) (c : BitVec 8), Inv s = true →
    (1 ≤ c.toNat → c.toNat ≤ 5 → s.stopped = false → ∃ t l, exec (.fatalError c) s = .next t ∧
      t.stopped = true ∧ t.fstat = c ∧ t.hevt = s.hevt ||| 8 ∧ t.outbox = s.outbox ++ l ++ [.fatal] ∧
      t.readMem Config.dumpBase 8 = 0x58445350 + 2 ^ 32 + c.toNat * 2 ^ 40 ∧
      t.readMem (Config.dumpBase + 8) 8 = s.clk.toNat ∧
      (∃ text, text.length + 7856 ≤ 2 ^ 28 ∧
        t.bytes Config.dumpBase (text.length + 7856) = text ++ Config.slhSign text) ∧
      ∀ b, b < Config.dumpBase → t.byte b = s.byte b) ∧
    (c = 0 ∨ 5 < c.toNat ∨ s.stopped = true → exec (.fatalError c) s = .next s)) ∧
  ∀ (s : State) (l : List BootImage), Inv s = true → ∃ t, exec (.packageReset l) s = .next t ∧
    t = { State.reset with
      mem := t.mem
      wiped := t.wiped
      devinc := s.devinc + 1
      meas := t.meas
      recovery := t.recovery
      cps := t.cps
      agenda := s.agenda
      fresh := t.fresh
      nextKey := s.nextKey
      outbox := s.outbox } ∧
    (BootPasses l → t.recovery = false ∧ t.cps = [0, 1, 2, 3]) ∧
    (¬ BootPasses l → t.recovery = true ∧ t.cps = []) ∧
    (∀ b, Config.dumpBase ≤ b → t.byte b = s.byte b) ∧
    ∀ i, l = [i] → ∀ r, tgetD t.meas r 0 = if r = i.register.toNat then
      BitVec.ofNat 256 (ofBytes (sha256 (List.replicate 32 0 ++ sha256 i.bytes))) else 0

/-- 00 R5, 04 R126 R127, 12 R311 R312, 13 R316 R318, 14 R352, 15 R370, 16 R381 R392 R396: a register write by the
control processors has the effect of its field: plain fields take the value, W1C bits clear, a command field starts
its command; RTMO takes no less than 0x10000; read-only registers, the key slots, the capability list and other
addresses keep what they hold, and in recovery or in the block of a die out of service nothing is reached. Which
address a block has is the model's choice (log 9), and so is the place of the commands of 15 R370 (log 33) and the least
value of RTMO (log 34). -/
def Obligations.RegisterWritesTakeEffect : Prop :=
  ∀ (s : State) (pa : BitVec 52) (v : BitVec 64),
    let w := exec (.registerWrite pa v) s
    let f := fun (hi lo : Nat) => bitsOf v.toNat hi lo
    let at_ := fun (id inst off : Nat) => regBlock pa.toNat = some (id, inst, off)
    let any := fun (id inst : Nat) (l : List Nat) => ∃ o ∈ l, at_ id inst o
    let base := fun (r : Ring) => { r with base := BitVec.ofNat 40 (f 51 12) }
    let size := fun (r : Ring) => { r with size := BitVec.ofNat 4 (f 3 0), en := bitOf v.toNat 8 }
    let head := fun (r : Ring) => { r with head := BitVec.ofNat 16 (f 15 0) }
    (s.recovery = true → w = .next s) ∧
    (s.recovery = false →
      (regBlock pa.toNat = none ∨ (∃ o, at_ 0 0 o) ∨ (∃ o, at_ 6 0 o) → w = .next s) ∧
      ((at_ 1 0 0x000 → w = .next { s with ctxbase := BitVec.ofNat 36 (f 51 16) }) ∧
       (at_ 1 0 0x008 → w = .next { s with ctxcnt := BitVec.ofNat 17 (f 16 0) }) ∧
       (at_ 1 0 0x010 → w = exec (.lseedWrite (BitVec.ofNat 32 (f 31 0))) s) ∧
       (at_ 1 0 0x020 → w = exec (.abort (BitVec.ofNat 6 (f 5 0)) (BitVec.ofNat 16 (f 31 16))) s) ∧
       (at_ 1 0 0x030 → w = .next { s with blockage := BitVec.ofNat 32 (f 31 0) }) ∧
       (any 1 0 [0x018, 0x028, 0x038] → w = .next s) ∧
       ∀ q : BitVec 6, ∀ o : BitVec 6, at_ 1 0 (0x1000 + 0x40 * q.toNat + o.toNat) →
         w = if o = 0x10 then exec (.widxWrite q (BitVec.ofNat 16 (f 15 0))) s
           else exec (.queueControlWrite q o v) s) ∧
      (∀ d o, at_ 2 d o → s.inService d = false → w = .next s) ∧
      (∀ d, s.inService d = true →
        let x := s.die d
        let sets := fun (y : Die) => ∃ t, w = .next t ∧ OnlyDie s t d y
        let ctx := BitVec.ofNat 16 (f 31 16)
        let tag := BitVec.ofNat 16 (f 15 0)
        let g : StopTarget := { core := BitVec.ofNat 6 (f 5 0), slot := BitVec.ofNat 6 (f 11 6),
                                fibre := BitVec.ofNat 10 (f 21 12), front := bitOf v.toNat 22,
                                reg := BitVec.ofNat 16 (f 47 32) }
        (at_ 2 d 0x000 → sets { x with fq := base x.fq }) ∧ (at_ 2 d 0x008 → sets { x with fq := size x.fq }) ∧
        (at_ 2 d 0x010 → sets { x with fq := head x.fq }) ∧
        (at_ 2 d 0x020 → sets { x with inverr := x.inverr && !bitOf v.toNat 1 }) ∧
        (at_ 2 d 0x040 → w = if bitOf v.toNat 16 then exec (.faultDiscard d tag) s else exec (.faultResume d tag) s) ∧
        (at_ 2 d 0x080 → sets { x with invaddr := BitVec.ofNat 51 (f 50 0) }) ∧
        (at_ 2 d 0x088 → sets { x with invlen := BitVec.ofNat 51 (f 50 0) }) ∧
        (at_ 2 d 0x090 →
          (f 2 0 = 0 → w = exec (.invalidateVaRange d ctx) s) ∧
          (f 2 0 = 1 → w = exec (.invalidateContextTranslations d ctx) s) ∧
          (f 2 0 = 2 → w = exec (.invalidateBufferEntries d ctx) s) ∧
          (f 2 0 = 3 → w = exec (.invalidateContextAll d ctx) s) ∧
          (f 2 0 = 4 → w = exec (.invalidateAllContexts d) s) ∧
          (5 ≤ f 2 0 → sets { x with inverr := true })) ∧
        (at_ 2 d 0x100 → sets { x with sq := base x.sq }) ∧ (at_ 2 d 0x108 → sets { x with sq := size x.sq }) ∧
        (at_ 2 d 0x110 → sets { x with sq := head x.sq }) ∧
        (at_ 2 d 0x120 → sets { x with serr := x.serr && !bitOf v.toNat 1 }) ∧
        (at_ 2 d 0x140 →
          (f 26 24 = 0 → w = exec (.stopResume d g) s) ∧ (f 26 24 = 1 → w = exec (.stopResumeAt d g) s) ∧
          (f 26 24 = 2 → w = exec (.stopEndTarget d g) s) ∧ (f 26 24 = 3 → w = exec (.stopRelease d g) s) ∧
          (f 26 24 = 4 → w = exec (.stopReadRegister d g) s) ∧
          (f 26 24 = 5 → w = exec (.stopWriteRegister d g) s) ∧
          (6 ≤ f 26 24 → w = exec (.stopCommandRefused d (BitVec.ofNat 3 (f 26 24))) s)) ∧
        (at_ 2 d 0x148 → sets { x with sdata := v }) ∧
        (at_ 2 d 0x150 → sets { x with spc := BitVec.ofNat 51 (f 50 0) }) ∧
        (any 2 d [0x018, 0x098, 0x118] → w = .next s)) ∧
      ((at_ 3 0 0x000 → w = exec (.idtabWrite 0 v) s) ∧ (at_ 3 0 0x008 → w = exec (.idtabWrite 1 v) s) ∧
       (at_ 3 0 0x010 → w = exec (.idlock (BitVec.ofNat 1 (f 0 0))) s) ∧
       ∀ k : BitVec 3, let o := 0x100 + 0x40 * k.toNat
         (at_ 3 0 o →
           let u := { s with hbms := tput s.hbms k.toNat { s.stack k.toNat with
             pinmax := BitVec.ofNat 11 (f 10 0)
             pinen := bitOf v.toNat 16 } }
           w = if bitOf v.toNat 17 then exec (.unpin k) u else .next u) ∧
         (at_ 3 0 (o + 8) → w = .next { s with
           hbms := tput s.hbms k.toNat { s.stack k.toNat with
             rtint := BitVec.ofNat 8 (f 7 0)
             lthr := BitVec.ofNat 16 (f 31 16) } }) ∧
         (any 3 0 [o + 0x10, o + 0x18, o + 0x20, o + 0x28, o + 0x30] → w = .next s)) ∧
      ((at_ 4 0 0x000 → w = if bitOf v.toNat 8 then exec .resync s else exec (.dieRemoval (f 1 0)) s) ∧
       (at_ 4 0 0x040 → w = .next { s with rlog := base s.rlog }) ∧
       (at_ 4 0 0x048 → w = .next { s with rlog := size s.rlog }) ∧
       (at_ 4 0 0x050 → w = .next { s with rlog := head s.rlog }) ∧
       (any 4 0 [0x008, 0x058] → w = .next s) ∧
       ∀ a, a < 5 → at_ 4 0 (0x100 + 0x20 * a) →
         (f 41 32 ≠ 0 → ∃ t, w = .next t ∧ OnlyDie s t a { s.die a with emax := 0 }) ∧
         (f 41 32 = 0 → w = .next s)) ∧
      ((at_ 5 0 0x000 → w = .next { s with devnum := BitVec.ofNat 14 (f 13 0) }) ∧
       (at_ 5 0 0x010 → w = .next { s with rtmo := BitVec.ofNat 32 (max 0x10000 (f 31 0)) }) ∧
       (at_ 5 0 0x018 → w = .next { s with eq := base s.eq }) ∧
       (at_ 5 0 0x020 → w = .next { s with eq := { s.eq with size := BitVec.ofNat 4 (f 3 0) } }) ∧
       (at_ 5 0 0x028 → w = .next { s with eq := head s.eq }) ∧
       (any 5 0 [0x008, 0x030, 0x038] → w = .next s) ∧
       ∀ e, e < 64 →
         let o := 0x100 + 0x20 * e
         let x := tgetD s.exports e {}
         let sets := fun (y : Export) => w = .next { s with exports := tput s.exports e y }
         (at_ 5 0 o → sets { x with base := BitVec.ofNat 37 (f 51 15) }) ∧
         (at_ 5 0 (o + 8) → sets { x with len := v }) ∧
         (at_ 5 0 (o + 0x10) → sets { x with src := BitVec.ofNat 32 (f 13 0 + 2 ^ 16 * f 29 16) }) ∧
         (at_ 5 0 (o + 0x18) → sets { x with rt := BitVec.ofNat 4 (f 3 0) })) ∧
      ((at_ 7 0 0x000 → w = .next { s with wdlim := BitVec.ofNat 48 (f 47 0) }) ∧
       (at_ 7 0 0x008 → w = .next { s with hevt := s.hevt &&& ~~~ BitVec.ofNat 32 (f 31 0) }) ∧
       (at_ 7 0 0x040 → w = .next { s with wearalert := BitVec.ofNat 10 (f 9 0) }) ∧
       (at_ 7 0 0x080 → f 16 16 = 0 →
         (f 1 0 = 0 → w = exec (.repairCore (f 15 8)) s) ∧ (f 1 0 = 1 → w = exec (.repairDie (f 15 8)) s) ∧
         (f 1 0 = 2 → w = exec (.repairUcieLane (f 15 8)) s) ∧
         (f 1 0 = 3 → w = exec (.repairKrytistLane (f 15 8)) s)) ∧
       (at_ 7 0 0x080 → f 16 16 = 1 →
         w = exec (.returnToService (BitVec.ofNat 2 (f 1 0)) (BitVec.ofNat 8 (f 15 8))) s) ∧
       (any 7 0 [0x010, 0x018, 0x020, 0x028, 0x048, 0x050, 0x058, 0x060, 0x088, 0x090] → w = .next s)))

/-- 16 R381 R382 R384: host writes and reads reach host memory, package memory at its point of coherence, and the
registers; a request that no BAR takes, or that a TDI in RUN keeps for its own stream, completes as unsupported
and changes nothing; an unmasked vector sends its pending message. -/
def Obligations.HostRequestsArePerformed : Prop :=
  ∀ (s : State) (pa : BitVec 52) (l : List (BitVec 8)) (n k : Nat), Inv s = true →
    let a := pa.toNat
    let write := exec (.hostWrite pa l k) s
    let read := exec (.hostRead pa n k) s
    let sent : OutMsg → Host.Outcome State Fault Refusal := fun m => .next { s with
      outbox := s.outbox ++ [m] }
    (s.recovery = true → write = sent .unsupported ∧ read = sent .unsupported) ∧
    (s.recovery = false →
      (rangeIn isHost a l.length = true → ∃ t, write = .next t ∧ t = { s with mem := t.mem } ∧
        Wrote s t a l) ∧
      (rangeIn isHost a n = true → read = sent (.hostData (s.bytes a n))) ∧
      (rangeIn isHost a l.length = false → rangeIn isPackage a l.length = false →
        rangeIn isRegister a l.length = false → write = sent .unsupported) ∧
      (rangeIn isHost a n = false → rangeIn isPackage a n = false → rangeIn isRegister a n = false →
        read = sent .unsupported) ∧
      (rangeIn isPackage a l.length = true →
        (s.streamMay k a l.length = false → write = sent .unsupported) ∧
        (s.streamMay k a l.length = true → s.outsideHeld a l.length true = true →
          write = .next { s with waiting := s.waiting ++ [.hostWrite pa l k] }) ∧
        (NoneRuns s → s.outsideHeld a l.length true = false → InMemory s (unitAccess a l.length) →
          ∃ t, write = .next t ∧ Wrote s t a l)) ∧
      (rangeIn isPackage a n = true →
        (s.streamMay k a n = false → read = sent .unsupported) ∧
        (s.streamMay k a n = true → s.outsideHeld a n false = true →
          read = .next { s with waiting := s.waiting ++ [.hostRead pa n k] }) ∧
        (NoneRuns s → s.outsideHeld a n false = false → InMemory s (unitAccess a n) →
          ∃ t, read = .next t ∧ Answered s t (.hostData (s.bytes a n)))) ∧
      (rangeIn isRegister a l.length = true →
        (s.streamMay k a l.length = false → write = sent .unsupported) ∧
        (NoneRuns s → l.length = 8 → a % 8 = 0 →
          write = exec (.registerWrite pa (BitVec.ofNat 64 (ofBytes l))) s)) ∧
      (rangeIn isRegister a n = true → NoneRuns s → n = 8 → a % 8 = 0 →
        read = sent (.hostData (bytesOf (s.readRegister a) 8)))) ∧
    ∀ fn v, let x := tgetD s.vecs (2048 * fn + v) {}
      ∃ t, exec (.msixUnmask fn v) s = .next t ∧ t = { s with
          vecs := t.vecs
          outbox := s.outbox ++ if x.pending = true then [.msix fn v] else [] } ∧
        ∀ i, tgetD t.vecs i {} = if i = 2048 * fn + v then { masked := false, pending := false }
          else tgetD s.vecs i {}

/-- 16 R384 R385 R389: LOCK_INTERFACE gives a TDI its contexts and queues and extends register 3; a locked TDI
may run; one in error aborts the launches of its contexts and loses its key slots; KEYSET installs a key with
LASTCTR 0 and KEYCLR clears it, each once no command reads the slot; GET_MEASUREMENTS sends the registers. -/
def Obligations.InterfacesAreLockedAndKeyed : Prop :=
  ∀ (s : State), Inv s = true →
    (∀ n k cs qs cfg, let x := tgetD s.tdis n {}
      (x.state ≠ .unlocked → exec (.lockInterface n k cs qs cfg) s = .next s) ∧
      (x.state = .unlocked → ∃ t, exec (.lockInterface n k cs qs cfg) s = .next t ∧ t = { s with
          tdis := t.tdis
          meas := t.meas } ∧
        (∀ i, i ≠ n → tgetD t.tdis i {} = tgetD s.tdis i {}) ∧
        (let y := tgetD t.tdis n {}
         y.state = .locked ∧ y.stream = k ∧ (∀ c, c ∈ y.ctxs ↔ c ∈ cs) ∧ ∀ q, q ∈ y.queues ↔ q ∈ qs) ∧
        ∀ i, tgetD t.meas i 0 = if i ≠ 3 then tgetD s.meas i 0 else BitVec.ofNat 256 (ofBytes (sha256
          (bytesOf (tgetD s.meas 3 0).toNat 32 ++ sha256 cfg))))) ∧
    (∀ n, let x := tgetD s.tdis n {}
      (x.state ≠ .locked → exec (.tdiEntersRun n) s = .next s) ∧
      (x.state = .locked → ∃ t, exec (.tdiEntersRun n) s = .next t ∧ t = { s with tdis := t.tdis } ∧
        ∀ i, tgetD t.tdis i {} = if i = n then { x with state := .run } else tgetD s.tdis i {}) ∧
      (x.state ≠ .locked → x.state ≠ .run → exec (.tdiError n) s = .next s) ∧
      (x.state = .locked ∨ x.state = .run → ∃ t, exec (.tdiError n) s = .next t ∧
        (∀ b, t.byte b = s.byte b) ∧
        (∀ i, tgetD t.tdis i {} = if i = n then { x with state := .error } else tgetD s.tdis i {}) ∧
        t.slots = s.slots.filter (fun e => !x.ctxs.contains e.2.ctx.toNat) ∧
        ∀ j e, tget s.launches j = some e →
          (e.lr.ctx ∈ x.ctxs → ∃ y, tget t.launches j = some y ∧ y.waiting = [] ∧ y.aborting = true) ∧
          (e.lr.ctx ∉ x.ctxs → tget t.launches j = some e))) ∧
    (∀ (k : BitVec 6) c st key, let set := exec (.keyset k c st key) s
      (k = 0 ∨ s.owned c.toNat = false → set = .next s) ∧
      (k ≠ 0 → s.owned c.toNat = true → s.slotRead k.toNat = true → ∃ t, set = .next t ∧
        t = { s with waiting := t.waiting } ∧ t.waiting = s.waiting ++ [.keyset k c st key]) ∧
      (k ≠ 0 → s.owned c.toNat = true → s.slotRead k.toNat = false → ∃ t, set = .next t ∧
        t = { s with slots := t.slots } ∧ ∀ i, tgetD t.slots i {} = if i ≠ k.toNat then tgetD s.slots i {}
          else { inst := true, ctx := c, stream := st, lastctr := 0,
                 fails := (tgetD s.slots i {}).fails, key := key })) ∧
    (∀ (k : BitVec 6), let held := s.owned (tgetD s.slots k.toNat {}).ctx.toNat
      (held = false → exec (.keyclr k) s = .next s) ∧
      (held = true → s.slotRead k.toNat = true →
        exec (.keyclr k) s = .next { s with waiting := s.waiting ++ [.keyclr k] }) ∧
      (held = true → s.slotRead k.toNat = false → ∃ t, exec (.keyclr k) s = .next t ∧
        t = { s with slots := t.slots } ∧
        ∀ i, tget t.slots i = if i = k.toNat then none else tget s.slots i)) ∧
    let regs := (List.range Config.measurementCount).map (fun i => tgetD s.meas i 0)
    exec .getMeasurements s = .next { s with outbox := s.outbox ++ [.measurements regs
      (Config.slhSign (regs.flatMap (fun r => bytesOf r.toNat 32)))] }

/-! ### The package -/

/-- 00 R5 R8, 13 R316 R318, 14 R352, 15 R370, 16 R387 R392 R396: the registers of the package after a package
reset hold the values that the spec gives. -/
def Obligations.ResetRegistersHoldTheirValues : Prop :=
  let s := State.reset
  s.clk = 0 ∧ s.wdlim = 0x100000000 ∧ s.hevt = 0 ∧ s.wearalert = 900 ∧ s.rbusy = false ∧ s.fstat = 0 ∧
  s.idtab = 0x55555555555555555555555555555555 ∧ s.idlock = false ∧ s.insvc = 0x1F ∧ s.hstate = 0 ∧
  s.rtmo = 0x01000000 ∧ s.devnum = 0 ∧ s.portup = 0 ∧ s.eq.base = 0 ∧ s.eq.size = 4 ∧ s.eq.head = 0 ∧
  s.eq.tail = 0 ∧ s.eqlost = 0 ∧ s.ctxbase = 0 ∧ s.ctxcnt = 0 ∧ s.lseed = 1 ∧ s.inflight = 0 ∧
  s.abusy = false ∧ s.blockage = 0x00100000 ∧ s.swcyc = 0 ∧
  (∀ d, let x := s.die d
    x.coresvc = BitVec.allOnes 64 ∧ x.wear = 0 ∧ x.eoldays = 0xFFFF ∧ x.thrcyc = 0) ∧
  (∀ i, let k := s.stack i
    k.pinmax = 1536 ∧ k.pinen = true ∧ k.rtint = 64 ∧ k.lthr = 16 ∧ k.swaps = 0 ∧ k.alerts = 0 ∧
    k.pinfail = 0 ∧ k.replays = 0 ∧ k.repairs = 0 ∧ k.cecnt = 0 ∧ k.uecnt = 0 ∧ k.chdown = 0) ∧
  (∀ n, let k := tgetD s.slots n {}
    k.inst = false ∧ k.ctx = 0 ∧ k.stream = 0 ∧ k.lastctr = 0 ∧ k.fails = 0) ∧
  (∀ b, (tgetD s.banks b {}).pins = 0 ∧ (tgetD s.banks b {}).hand = 0 ∧
    ∀ i, (tgetD s.banks b {}).slot i = { row := i, pin := false, ref := false }) ∧
  s.skeins = [] ∧ s.launches = [] ∧ s.fibres = [] ∧ s.strands = []

/-- The form that every step keeps holds after a package reset (00 R6, 01 R10 R19 R20; log 1). -/
def Obligations.ResetKeepsTheForm : Prop := Inv State.reset = true

/-- 02 R48 R55 R56 and the encodings that the files list with their assembly: these words are these
instructions, in the context that reads them; the all-zero word and a free minor are none. -/
def Obligations.WordsDecodeToTheirInstruction : Prop :=
  readsAs false 0x644890C0 (.xredOr 9 9 0) = true ∧
  readsAs false 0xBCA0C800 (.sldB32 20 12 0) = true ∧
  readsAs false 0x1C521400 (.lui 10 0x21400) = true ∧
  readsAs false 0x98830000 (.karm 2 6) = true ∧
  readsAs false 0xCC3040C0 (.promotePin 6 4 3) = true ∧
  readsAs false 0xE4500041 (.dnext 10 2) = true ∧
  readsAs false 0xD8500003 (.qhpush 10 0) = true ∧
  readsAs false 0xF8200209 (.rsr 4 9) = true ∧
  readsAs false 0xEA000000 .barDie = true ∧
  readsAs true 0xD4308000 (.smap 3 2 0) = true ∧
  readsAs true 0xDD478001 (.reelGet 20 30 0 0 1) = true ∧
  readsAs true 0xF03A8002 (.cmpiLtn 3 2 2) = true ∧
  readsAs true 0xF8100202 (.rsrFront 1 2) = true ∧
  refusedAs false 0 .zeroWord = true ∧ refusedAs true 0 .zeroWord = true ∧
  refusedAs false 0xCC3040C4 .illegalOpcode = true

/-- 01 R17, 02 R44 R57, 06 R160-R162, 16 R395 R398: one step lets time pass and moves one agent. Where an
issuing context takes its turn and the word at its place decodes and passes its checks, the step executes that
word; a word that fails a check traps; an event that takes its turn is executed, and a request that waited is
executed again. Taking the turn clears what fixed it, takes the event from the head of the agenda or the request
from those that wait, and notes at the core which context its slot or front thread tried. A strand that a slot
tries has waited as long as any strand of its slot that is active and not passed over. In a package that a fatal
error stopped no context issues, a turn that issue would need is a fault, and the request at the head of the
host's path may still come next (which turn comes next, where the spec leaves it open: log 4). -/
def Obligations.StepRunsTheDecodedWord : Prop :=
  ∀ (s : State),
    let u := ticked s
    (∃ n, u = { s with
      fresh := s.fresh + 1
      clk := s.clk + BitVec.ofNat 64 n
      skeins := s.skeins.map (fun e => (e.1, e.2.tick n)) }) ∧
    (∀ t, TurnKept t u (turnTaken t u)) ∧
    (s.stopped = false → ∀ w pos c front r, nextTurn u = some (.issue w) →
      u.clauseOf w = some (pos, c, front) → c.raw pos = some r →
      let v : State := { turnTaken (.issue w) u with cur := {
        who := some w
        word := BitVec.ofNat 32 r.word
        pfx := r.pfx.map (fun x => BitVec.ofNat 32 x) } }
      let cls := (Header.ofWord c.head.toNat).cls.toNat
      (∀ i, decode front r.word = .ok i → checkWord front cls r = .ok i → step s = exec i v) ∧
      ∀ e, checkWord front cls r = .error e → step s = commit v (checkTrap w e)) ∧
    (∀ i, nextTurn u = some (.event i) → (s.stopped = false ∨ turnWhenStopped (.event i) = true) →
      step s = exec i (turnTaken (.event i) u)) ∧
    (∀ n q, nextTurn u = some (.again n) → u.waiting[n]? = some q →
      step s = exec q.request (turnTaken (.again n) u)) ∧
    (s.turn = none → Safety.tablesWf s = true → (∀ q, s.agenda.head? ≠ some (.clauseIssue q)) →
      ∀ w n, nextTurn u = some w → w.issuer = some (.strand n) →
      ∀ x, tget u.strands n = some x → u.passedOver x.core x.slot n = false →
      ∀ m y, (m, y) ∈ u.activeOf x.core x.slot → u.passedOver x.core x.slot m = false → x.since ≤ y.since) ∧
    (s.stopped = true →
      (∀ w, nextTurn u = some w → turnWhenStopped w = false → step s = .fault .packageStopped) ∧
      (s.turn = none → ∀ w, nextTurn u = some w → w.issuer = none) ∧
      ∀ i, s.agenda.head? = some i → isHostRequest i = true → s.hostWaits = false →
        (.event i) ∈ u.openTurns)

/-- 02 R48 R50 R55: the word of a well-formed instruction decodes to that instruction in its own form, with
every operand at every value that the encoding admits. -/
def Obligations.DecodeInvertsEncode : Prop :=
  ∀ (i : Instr) (w : Nat), i.wf = true → encode i = some w → w < 2 ^ 32 ∧ decode i.frontForm w = .ok i

/-- Every step keeps the form: memory canonical, p0 and q0 reading 1, reserved bits of sr.fpc and sr.ctl reading
0, and the tables of fibres, strands, skeins, launches, pool allocations and banks in order (00 R6, 01 R10 R19 R20, 06 R157; log 1). -/
def Obligations.EveryStepKeepsTheForm : Prop :=
  ∀ (s t : State), Inv s = true → step s = .next t → Inv t = true
end

