-- ==== Sys2Proof/Laws/Tables.lean ====
section
/-! SUPPORT. Laws of tables: a read after a write to the same key gives the value written, a write leaves
every other key alone, and writes keep the keys strictly rising. -/

namespace Sys2Proof.Laws

open Sys2Proof Machine

variable {α : Type}

@[simp] theorem tget_nil (k : Nat) : tget ([] : Table α) k = none := rfl

theorem tget_cons (i : Nat) (x : α) (r : Table α) (k : Nat) :
    tget ((i, x) :: r) k = if i = k then some x else tget r k := rfl

/-- A read after a write. -/
theorem tget_tput (t : Table α) (k : Nat) (x : α) (j : Nat) :
    tget (tput t k x) j = if k = j then some x else tget t j := by
  induction t with
  | nil => rfl
  | cons e r ih =>
    obtain ⟨i, y⟩ := e
    unfold tput
    split
    · rfl
    · split
      · simp only [tget_cons]; grind
      · simp only [tget_cons, ih]; grind

@[simp] theorem tget_tput_self (t : Table α) (k : Nat) (x : α) : tget (tput t k x) k = some x := by
  simp [tget_tput]

theorem tget_tput_ne (t : Table α) {k j : Nat} (x : α) (h : k ≠ j) :
    tget (tput t k x) j = tget t j := by
  simp [tget_tput, h]

/-- A read after a removal. -/
theorem tget_tdel (t : Table α) (k j : Nat) :
    tget (tdel t k) j = if k = j then none else tget t j := by
  induction t with
  | nil => simp [tdel]
  | cons e r ih =>
    obtain ⟨i, y⟩ := e
    unfold tdel
    split <;> simp only [tget_cons, ih] <;> grind

/-- A read after a write in a table that does not list a default value. -/
theorem tgetD_tputD [BEq α] [LawfulBEq α] (t : Table α) (k : Nat) (d x : α) (j : Nat) :
    tgetD (tputD t k d x) j d = if k = j then x else tgetD t j d := by
  unfold tgetD tputD
  split
  · rename_i h
    rw [tget_tdel]
    have := eq_of_beq h
    split <;> simp_all
  · rw [tget_tput]
    split <;> simp

/-- The first key of a table, if any, is at least `b`. -/
def headFrom (b : Nat) : Table α → Bool
  | [] => true
  | (i, _) :: _ => b ≤ i

theorem tableWf_cons (i : Nat) (x : α) (r : Table α) :
    tableWf ((i, x) :: r) = (headFrom (i + 1) r && tableWf r) := by
  cases r with
  | nil => rfl
  | cons e q =>
    simp only [tableWf, headFrom]
    congr 1

theorem headFrom_tput (b : Nat) (t : Table α) (k : Nat) (x : α) (h : headFrom b t = true) (hk : b ≤ k) :
    headFrom b (tput t k x) = true := by
  cases t with
  | nil => simpa [tput, headFrom] using hk
  | cons e r =>
    obtain ⟨i, y⟩ := e
    simp only [headFrom, decide_eq_true_eq] at h
    unfold tput
    split
    · simpa [headFrom] using hk
    · split <;> simpa [headFrom]

/-- A write keeps the keys strictly rising. -/
theorem tableWf_tput (t : Table α) (k : Nat) (x : α) (h : tableWf t = true) :
    tableWf (tput t k x) = true := by
  induction t with
  | nil => rfl
  | cons e r ih =>
    obtain ⟨i, y⟩ := e
    rw [tableWf_cons, Bool.and_eq_true] at h
    unfold tput
    split
    · rename_i hlt
      rw [tableWf_cons, tableWf_cons, h.1, h.2]
      simp only [headFrom, Bool.and_self, Bool.and_true, decide_eq_true_eq]
      omega
    · split
      · rename_i he
        subst he
        rw [tableWf_cons]
        simp [h]
      · rw [tableWf_cons, Bool.and_eq_true]
        exact ⟨headFrom_tput _ _ _ _ h.1 (by omega), ih h.2⟩

theorem headFrom_tail (i b : Nat) (r : Table α) (hb : b ≤ i + 1)
    (h : headFrom (i + 1) r = true) : headFrom b r = true := by
  cases r with
  | nil => rfl
  | cons e q => simp [headFrom] at *; omega

theorem headFrom_tdel (b : Nat) (t : Table α) (k : Nat) (w : tableWf t = true) (h : headFrom b t = true) :
    headFrom b (tdel t k) = true := by
  induction t generalizing b with
  | nil => rfl
  | cons e r ih =>
    obtain ⟨i, y⟩ := e
    rw [tableWf_cons, Bool.and_eq_true] at w
    simp only [headFrom, decide_eq_true_eq] at h
    unfold tdel
    split
    · exact ih b w.2 (headFrom_tail i b r (by omega) w.1)
    · simpa [headFrom] using h

/-- A removal keeps the keys strictly rising. -/
theorem tableWf_tdel (t : Table α) (k : Nat) (h : tableWf t = true) : tableWf (tdel t k) = true := by
  induction t with
  | nil => rfl
  | cons e r ih =>
    obtain ⟨i, y⟩ := e
    rw [tableWf_cons, Bool.and_eq_true] at h
    unfold tdel
    split
    · exact ih h.2
    · rw [tableWf_cons, Bool.and_eq_true]
      exact ⟨headFrom_tdel _ _ _ h.2 h.1, ih h.2⟩

/-- What a table lists after a write is the new value or was listed before. -/
theorem mem_tput (t : Table α) (k : Nat) (x : α) (e : Nat × α) (h : e ∈ tput t k x) :
    e = (k, x) ∨ e ∈ t := by
  induction t with
  | nil =>
    simp only [tput, List.mem_singleton] at h
    exact .inl h
  | cons a r ih =>
    obtain ⟨i, y⟩ := a
    unfold tput at h
    split at h
    · grind
    · split at h <;> grind

/-- What a table lists after a removal was listed before. -/
theorem mem_tdel (t : Table α) (k : Nat) (e : Nat × α) (h : e ∈ tdel t k) : e ∈ t := by
  induction t with
  | nil => exact absurd h (by simp [tdel])
  | cons a r ih =>
    obtain ⟨i, y⟩ := a
    unfold tdel at h
    split at h <;> grind

/-- A filtered table still rises strictly. -/
theorem headFrom_filter (b : Nat) (t : Table α) (g : Nat × α → Bool) (w : tableWf t = true)
    (h : headFrom b t = true) : headFrom b (t.filter g) = true := by
  induction t generalizing b with
  | nil => rfl
  | cons e r ih =>
    obtain ⟨i, y⟩ := e
    rw [tableWf_cons, Bool.and_eq_true] at w
    simp only [headFrom, decide_eq_true_eq] at h
    rw [List.filter_cons]
    split
    · simpa [headFrom] using h
    · exact ih b w.2 (headFrom_tail i b r (by omega) w.1)

theorem tableWf_filter (t : Table α) (g : Nat × α → Bool) (h : tableWf t = true) :
    tableWf (t.filter g) = true := by
  induction t with
  | nil => rfl
  | cons e r ih =>
    obtain ⟨i, y⟩ := e
    rw [tableWf_cons, Bool.and_eq_true] at h
    rw [List.filter_cons]
    split
    · rw [tableWf_cons, Bool.and_eq_true]
      exact ⟨headFrom_filter _ _ _ h.2 h.1, ih h.2⟩
    · exact ih h.2

/-! ### Lists of numbers, each once -/

theorem mem_nub (l : List Nat) (k : Nat) : k ∈ nub l ↔ k ∈ l := by
  induction l with
  | nil => simp [nub]
  | cons a r ih =>
    unfold nub
    rw [List.mem_cons, List.mem_filter, ih, List.mem_cons]
    by_cases h : k = a <;> simp [h]

theorem nodup_nub (l : List Nat) : (nub l).Nodup := by
  induction l with
  | nil => exact List.nodup_nil
  | cons a r ih =>
    unfold nub
    rw [List.nodup_cons]
    refine ⟨?_, ih.sublist List.filter_sublist⟩
    rw [List.mem_filter]
    simp

end Sys2Proof.Laws
end

