-- ==== Sys2Proof/Laws/Memory.lean ====
section
/-! SUPPORT. Laws of memory: every operation on it keeps the canonical form, a read after a write gives
the value written, and a write leaves every other byte alone. -/

namespace Sys2Proof.Laws

open Sys2Proof Machine

theorem Memory.wf_iff (wiped : Nat) (m : List Host.Cell) :
    Memory.wf wiped m = true ↔
      tableWf m = true ∧ ∀ c ∈ m, c.2 ≠ Memory.blank wiped c.1 := by
  unfold Machine.Memory.wf
  simp only [Bool.and_eq_true, List.all_eq_true, bne_iff_ne, ne_eq]

/-- Writing a byte keeps the canonical form: writing what an unlisted address reads as removes the
entry. -/
theorem Memory.wf_write (wiped : Nat) (m : List Host.Cell) (a : Nat) (b : Byte)
    (h : Memory.wf wiped m = true) :
    Memory.wf wiped (tputD m a (Memory.blank wiped a) b) = true := by
  rw [Memory.wf_iff] at *
  unfold tputD
  split
  · exact ⟨tableWf_tdel _ _ h.1, fun c hc => h.2 c (mem_tdel _ _ _ hc)⟩
  · rename_i hb
    refine ⟨tableWf_tput _ _ _ h.1, fun c hc => ?_⟩
    rcases mem_tput _ _ _ _ hc with rfl | hc
    · simpa using hb
    · exact h.2 c hc

/-- A reset keeps the dump area, in which an unlisted byte reads 0 before and after. -/
theorem Memory.wf_reset (wiped : Nat) (m : List Host.Cell) (h : Memory.wf wiped m = true) :
    Memory.wf (wiped + 1) (m.filter (fun c => Config.dumpBase ≤ c.1)) = true := by
  rw [Memory.wf_iff] at *
  refine ⟨tableWf_filter _ _ h.1, fun c hc => ?_⟩
  simp only [List.mem_filter, decide_eq_true_eq] at hc
  have := h.2 c hc.1
  unfold Machine.Memory.blank at *
  split at this <;> simp_all [Nat.not_lt.mpr hc.2]

/-- The byte at an address after a byte is written. -/
theorem byte_write (s : State) (a : Nat) (b : Byte) (j : Nat) :
    (apply (.mem a b) s).byte j = if a = j then b else s.byte j := by
  show tgetD (tputD s.mem a (Memory.blank s.wiped a) b) j (Memory.blank s.wiped j) = _
  by_cases h : a = j
  · subst h
    rw [tgetD_tputD]
    rfl
  · rw [if_neg h]
    unfold tgetD tputD State.byte tgetD
    split
    · rw [tget_tdel, if_neg h]
    · rw [tget_tput, if_neg h]

end Sys2Proof.Laws
end

