-- ==== Sys2Proof/Laws/State.lean ====
section
/-! SUPPORT. The fields of the state after each update, one lemma per field, true by unfolding: effects on
the tables of the package, and the writes of registers and predicates of a fibre and of a front context. -/

namespace Sys2Proof.Laws

open Sys2Proof Machine

/-! ### Effects -/

@[simp] theorem apply_mem_mem (s : State) (a : Nat) (b : Byte) :
    (apply (.mem a b) s).mem = tputD s.mem a (Memory.blank s.wiped a) b := rfl
@[simp] theorem apply_mem_poison (s : State) (a : Nat) (b : Byte) :
    (apply (.mem a b) s).poison = s.poison := rfl
@[simp] theorem apply_mem_fibres (s : State) (a : Nat) (b : Byte) :
    (apply (.mem a b) s).fibres = s.fibres := rfl
@[simp] theorem apply_mem_strands (s : State) (a : Nat) (b : Byte) :
    (apply (.mem a b) s).strands = s.strands := rfl
@[simp] theorem apply_mem_skeins (s : State) (a : Nat) (b : Byte) :
    (apply (.mem a b) s).skeins = s.skeins := rfl
@[simp] theorem apply_mem_cores (s : State) (a : Nat) (b : Byte) :
    (apply (.mem a b) s).cores = s.cores := rfl
@[simp] theorem apply_mem_icache (s : State) (a : Nat) (b : Byte) :
    (apply (.mem a b) s).icache = s.icache := rfl
@[simp] theorem apply_mem_maps (s : State) (a : Nat) (b : Byte) :
    (apply (.mem a b) s).maps = s.maps := rfl
@[simp] theorem apply_mem_regs (s : State) (a : Nat) (b : Byte) :
    (apply (.mem a b) s).regs = s.regs := rfl
@[simp] theorem apply_mem_pools (s : State) (a : Nat) (b : Byte) :
    (apply (.mem a b) s).pools = s.pools := rfl
@[simp] theorem apply_mem_dies (s : State) (a : Nat) (b : Byte) :
    (apply (.mem a b) s).dies = s.dies := rfl
@[simp] theorem apply_mem_queues (s : State) (a : Nat) (b : Byte) :
    (apply (.mem a b) s).queues = s.queues := rfl
@[simp] theorem apply_mem_launches (s : State) (a : Nat) (b : Byte) :
    (apply (.mem a b) s).launches = s.launches := rfl
@[simp] theorem apply_mem_banks (s : State) (a : Nat) (b : Byte) :
    (apply (.mem a b) s).banks = s.banks := rfl
@[simp] theorem apply_mem_cur (s : State) (a : Nat) (b : Byte) :
    (apply (.mem a b) s).cur = s.cur := rfl
@[simp] theorem apply_mem_wiped (s : State) (a : Nat) (b : Byte) :
    (apply (.mem a b) s).wiped = s.wiped := rfl
@[simp] theorem apply_fibre_mem (s : State) (k : Nat) (f : Fibre) :
    (apply (.fibre k f) s).mem = s.mem := rfl
@[simp] theorem apply_fibre_poison (s : State) (k : Nat) (f : Fibre) :
    (apply (.fibre k f) s).poison = s.poison := rfl
@[simp] theorem apply_fibre_fibres (s : State) (k : Nat) (f : Fibre) :
    (apply (.fibre k f) s).fibres = tput s.fibres k f.norm := rfl
@[simp] theorem apply_fibre_strands (s : State) (k : Nat) (f : Fibre) :
    (apply (.fibre k f) s).strands = s.strands := rfl
@[simp] theorem apply_fibre_skeins (s : State) (k : Nat) (f : Fibre) :
    (apply (.fibre k f) s).skeins = s.skeins := rfl
@[simp] theorem apply_fibre_cores (s : State) (k : Nat) (f : Fibre) :
    (apply (.fibre k f) s).cores = s.cores := rfl
@[simp] theorem apply_fibre_icache (s : State) (k : Nat) (f : Fibre) :
    (apply (.fibre k f) s).icache = s.icache := rfl
@[simp] theorem apply_fibre_maps (s : State) (k : Nat) (f : Fibre) :
    (apply (.fibre k f) s).maps = s.maps := rfl
@[simp] theorem apply_fibre_regs (s : State) (k : Nat) (f : Fibre) :
    (apply (.fibre k f) s).regs = s.regs := rfl
@[simp] theorem apply_fibre_pools (s : State) (k : Nat) (f : Fibre) :
    (apply (.fibre k f) s).pools = s.pools := rfl
@[simp] theorem apply_fibre_dies (s : State) (k : Nat) (f : Fibre) :
    (apply (.fibre k f) s).dies = s.dies := rfl
@[simp] theorem apply_fibre_queues (s : State) (k : Nat) (f : Fibre) :
    (apply (.fibre k f) s).queues = s.queues := rfl
@[simp] theorem apply_fibre_launches (s : State) (k : Nat) (f : Fibre) :
    (apply (.fibre k f) s).launches = s.launches := rfl
@[simp] theorem apply_fibre_banks (s : State) (k : Nat) (f : Fibre) :
    (apply (.fibre k f) s).banks = s.banks := rfl
@[simp] theorem apply_fibre_cur (s : State) (k : Nat) (f : Fibre) :
    (apply (.fibre k f) s).cur = s.cur := rfl
@[simp] theorem apply_fibre_wiped (s : State) (k : Nat) (f : Fibre) :
    (apply (.fibre k f) s).wiped = s.wiped := rfl
@[simp] theorem apply_fibreEnd_mem (s : State) (k : Nat) :
    (apply (.fibreEnd k) s).mem = s.mem := rfl
@[simp] theorem apply_fibreEnd_poison (s : State) (k : Nat) :
    (apply (.fibreEnd k) s).poison = s.poison := rfl
@[simp] theorem apply_fibreEnd_fibres (s : State) (k : Nat) :
    (apply (.fibreEnd k) s).fibres = tdel s.fibres k := rfl
@[simp] theorem apply_fibreEnd_strands (s : State) (k : Nat) :
    (apply (.fibreEnd k) s).strands = s.strands := rfl
@[simp] theorem apply_fibreEnd_skeins (s : State) (k : Nat) :
    (apply (.fibreEnd k) s).skeins = s.skeins := rfl
@[simp] theorem apply_fibreEnd_cores (s : State) (k : Nat) :
    (apply (.fibreEnd k) s).cores = s.cores := rfl
@[simp] theorem apply_fibreEnd_icache (s : State) (k : Nat) :
    (apply (.fibreEnd k) s).icache = s.icache := rfl
@[simp] theorem apply_fibreEnd_maps (s : State) (k : Nat) :
    (apply (.fibreEnd k) s).maps = s.maps := rfl
@[simp] theorem apply_fibreEnd_regs (s : State) (k : Nat) :
    (apply (.fibreEnd k) s).regs = s.regs := rfl
@[simp] theorem apply_fibreEnd_pools (s : State) (k : Nat) :
    (apply (.fibreEnd k) s).pools = s.pools := rfl
@[simp] theorem apply_fibreEnd_dies (s : State) (k : Nat) :
    (apply (.fibreEnd k) s).dies = s.dies := rfl
@[simp] theorem apply_fibreEnd_queues (s : State) (k : Nat) :
    (apply (.fibreEnd k) s).queues = s.queues := rfl
@[simp] theorem apply_fibreEnd_launches (s : State) (k : Nat) :
    (apply (.fibreEnd k) s).launches = s.launches := rfl
@[simp] theorem apply_fibreEnd_banks (s : State) (k : Nat) :
    (apply (.fibreEnd k) s).banks = s.banks := rfl
@[simp] theorem apply_fibreEnd_cur (s : State) (k : Nat) :
    (apply (.fibreEnd k) s).cur = s.cur := rfl
@[simp] theorem apply_fibreEnd_wiped (s : State) (k : Nat) :
    (apply (.fibreEnd k) s).wiped = s.wiped := rfl
@[simp] theorem apply_strand_mem (s : State) (k : Nat) (x : Strand) :
    (apply (.strand k x) s).mem = s.mem := rfl
@[simp] theorem apply_strand_poison (s : State) (k : Nat) (x : Strand) :
    (apply (.strand k x) s).poison = s.poison := rfl
@[simp] theorem apply_strand_fibres (s : State) (k : Nat) (x : Strand) :
    (apply (.strand k x) s).fibres = s.fibres := rfl
@[simp] theorem apply_strand_strands (s : State) (k : Nat) (x : Strand) :
    (apply (.strand k x) s).strands = tput s.strands k x := rfl
@[simp] theorem apply_strand_skeins (s : State) (k : Nat) (x : Strand) :
    (apply (.strand k x) s).skeins = s.skeins := rfl
@[simp] theorem apply_strand_cores (s : State) (k : Nat) (x : Strand) :
    (apply (.strand k x) s).cores = s.cores := rfl
@[simp] theorem apply_strand_icache (s : State) (k : Nat) (x : Strand) :
    (apply (.strand k x) s).icache = s.icache := rfl
@[simp] theorem apply_strand_maps (s : State) (k : Nat) (x : Strand) :
    (apply (.strand k x) s).maps = s.maps := rfl
@[simp] theorem apply_strand_regs (s : State) (k : Nat) (x : Strand) :
    (apply (.strand k x) s).regs = s.regs := rfl
@[simp] theorem apply_strand_pools (s : State) (k : Nat) (x : Strand) :
    (apply (.strand k x) s).pools = s.pools := rfl
@[simp] theorem apply_strand_dies (s : State) (k : Nat) (x : Strand) :
    (apply (.strand k x) s).dies = s.dies := rfl
@[simp] theorem apply_strand_queues (s : State) (k : Nat) (x : Strand) :
    (apply (.strand k x) s).queues = s.queues := rfl
@[simp] theorem apply_strand_launches (s : State) (k : Nat) (x : Strand) :
    (apply (.strand k x) s).launches = s.launches := rfl
@[simp] theorem apply_strand_banks (s : State) (k : Nat) (x : Strand) :
    (apply (.strand k x) s).banks = s.banks := rfl
@[simp] theorem apply_strand_cur (s : State) (k : Nat) (x : Strand) :
    (apply (.strand k x) s).cur = s.cur := rfl
@[simp] theorem apply_strand_wiped (s : State) (k : Nat) (x : Strand) :
    (apply (.strand k x) s).wiped = s.wiped := rfl
@[simp] theorem apply_strandEnd_mem (s : State) (k : Nat) :
    (apply (.strandEnd k) s).mem = s.mem := rfl
@[simp] theorem apply_strandEnd_poison (s : State) (k : Nat) :
    (apply (.strandEnd k) s).poison = s.poison := rfl
@[simp] theorem apply_strandEnd_fibres (s : State) (k : Nat) :
    (apply (.strandEnd k) s).fibres = s.fibres := rfl
@[simp] theorem apply_strandEnd_strands (s : State) (k : Nat) :
    (apply (.strandEnd k) s).strands = tdel s.strands k := rfl
@[simp] theorem apply_strandEnd_skeins (s : State) (k : Nat) :
    (apply (.strandEnd k) s).skeins = s.skeins := rfl
@[simp] theorem apply_strandEnd_cores (s : State) (k : Nat) :
    (apply (.strandEnd k) s).cores = s.cores := rfl
@[simp] theorem apply_strandEnd_icache (s : State) (k : Nat) :
    (apply (.strandEnd k) s).icache = s.icache := rfl
@[simp] theorem apply_strandEnd_maps (s : State) (k : Nat) :
    (apply (.strandEnd k) s).maps = s.maps := rfl
@[simp] theorem apply_strandEnd_regs (s : State) (k : Nat) :
    (apply (.strandEnd k) s).regs = s.regs := rfl
@[simp] theorem apply_strandEnd_pools (s : State) (k : Nat) :
    (apply (.strandEnd k) s).pools = s.pools := rfl
@[simp] theorem apply_strandEnd_dies (s : State) (k : Nat) :
    (apply (.strandEnd k) s).dies = s.dies := rfl
@[simp] theorem apply_strandEnd_queues (s : State) (k : Nat) :
    (apply (.strandEnd k) s).queues = s.queues := rfl
@[simp] theorem apply_strandEnd_launches (s : State) (k : Nat) :
    (apply (.strandEnd k) s).launches = s.launches := rfl
@[simp] theorem apply_strandEnd_banks (s : State) (k : Nat) :
    (apply (.strandEnd k) s).banks = s.banks := rfl
@[simp] theorem apply_strandEnd_cur (s : State) (k : Nat) :
    (apply (.strandEnd k) s).cur = s.cur := rfl
@[simp] theorem apply_strandEnd_wiped (s : State) (k : Nat) :
    (apply (.strandEnd k) s).wiped = s.wiped := rfl
@[simp] theorem apply_skein_mem (s : State) (k : Nat) (x : Skein) :
    (apply (.skein k x) s).mem = s.mem := rfl
@[simp] theorem apply_skein_poison (s : State) (k : Nat) (x : Skein) :
    (apply (.skein k x) s).poison = s.poison := rfl
@[simp] theorem apply_skein_fibres (s : State) (k : Nat) (x : Skein) :
    (apply (.skein k x) s).fibres = s.fibres := rfl
@[simp] theorem apply_skein_strands (s : State) (k : Nat) (x : Skein) :
    (apply (.skein k x) s).strands = s.strands := rfl
@[simp] theorem apply_skein_skeins (s : State) (k : Nat) (x : Skein) :
    (apply (.skein k x) s).skeins = tput s.skeins k x.norm := rfl
@[simp] theorem apply_skein_cores (s : State) (k : Nat) (x : Skein) :
    (apply (.skein k x) s).cores = s.cores := rfl
@[simp] theorem apply_skein_icache (s : State) (k : Nat) (x : Skein) :
    (apply (.skein k x) s).icache = s.icache := rfl
@[simp] theorem apply_skein_maps (s : State) (k : Nat) (x : Skein) :
    (apply (.skein k x) s).maps = s.maps := rfl
@[simp] theorem apply_skein_regs (s : State) (k : Nat) (x : Skein) :
    (apply (.skein k x) s).regs = s.regs := rfl
@[simp] theorem apply_skein_pools (s : State) (k : Nat) (x : Skein) :
    (apply (.skein k x) s).pools = s.pools := rfl
@[simp] theorem apply_skein_dies (s : State) (k : Nat) (x : Skein) :
    (apply (.skein k x) s).dies = s.dies := rfl
@[simp] theorem apply_skein_queues (s : State) (k : Nat) (x : Skein) :
    (apply (.skein k x) s).queues = s.queues := rfl
@[simp] theorem apply_skein_launches (s : State) (k : Nat) (x : Skein) :
    (apply (.skein k x) s).launches = s.launches := rfl
@[simp] theorem apply_skein_banks (s : State) (k : Nat) (x : Skein) :
    (apply (.skein k x) s).banks = s.banks := rfl
@[simp] theorem apply_skein_cur (s : State) (k : Nat) (x : Skein) :
    (apply (.skein k x) s).cur = s.cur := rfl
@[simp] theorem apply_skein_wiped (s : State) (k : Nat) (x : Skein) :
    (apply (.skein k x) s).wiped = s.wiped := rfl
@[simp] theorem apply_skeinEnd_mem (s : State) (k : Nat) :
    (apply (.skeinEnd k) s).mem = s.mem := rfl
@[simp] theorem apply_skeinEnd_poison (s : State) (k : Nat) :
    (apply (.skeinEnd k) s).poison = s.poison := rfl
@[simp] theorem apply_skeinEnd_fibres (s : State) (k : Nat) :
    (apply (.skeinEnd k) s).fibres = s.fibres := rfl
@[simp] theorem apply_skeinEnd_strands (s : State) (k : Nat) :
    (apply (.skeinEnd k) s).strands = s.strands := rfl
@[simp] theorem apply_skeinEnd_skeins (s : State) (k : Nat) :
    (apply (.skeinEnd k) s).skeins = tdel s.skeins k := rfl
@[simp] theorem apply_skeinEnd_cores (s : State) (k : Nat) :
    (apply (.skeinEnd k) s).cores = s.cores := rfl
@[simp] theorem apply_skeinEnd_icache (s : State) (k : Nat) :
    (apply (.skeinEnd k) s).icache = s.icache := rfl
@[simp] theorem apply_skeinEnd_maps (s : State) (k : Nat) :
    (apply (.skeinEnd k) s).maps = s.maps := rfl
@[simp] theorem apply_skeinEnd_regs (s : State) (k : Nat) :
    (apply (.skeinEnd k) s).regs = s.regs := rfl
@[simp] theorem apply_skeinEnd_pools (s : State) (k : Nat) :
    (apply (.skeinEnd k) s).pools = s.pools := rfl
@[simp] theorem apply_skeinEnd_dies (s : State) (k : Nat) :
    (apply (.skeinEnd k) s).dies = s.dies := rfl
@[simp] theorem apply_skeinEnd_queues (s : State) (k : Nat) :
    (apply (.skeinEnd k) s).queues = s.queues := rfl
@[simp] theorem apply_skeinEnd_launches (s : State) (k : Nat) :
    (apply (.skeinEnd k) s).launches = s.launches := rfl
@[simp] theorem apply_skeinEnd_banks (s : State) (k : Nat) :
    (apply (.skeinEnd k) s).banks = s.banks := rfl
@[simp] theorem apply_skeinEnd_cur (s : State) (k : Nat) :
    (apply (.skeinEnd k) s).cur = s.cur := rfl
@[simp] theorem apply_skeinEnd_wiped (s : State) (k : Nat) :
    (apply (.skeinEnd k) s).wiped = s.wiped := rfl
@[simp] theorem apply_core_mem (s : State) (k : Nat) (x : Core) :
    (apply (.core k x) s).mem = s.mem := rfl
@[simp] theorem apply_core_poison (s : State) (k : Nat) (x : Core) :
    (apply (.core k x) s).poison = s.poison := rfl
@[simp] theorem apply_core_fibres (s : State) (k : Nat) (x : Core) :
    (apply (.core k x) s).fibres = s.fibres := rfl
@[simp] theorem apply_core_strands (s : State) (k : Nat) (x : Core) :
    (apply (.core k x) s).strands = s.strands := rfl
@[simp] theorem apply_core_skeins (s : State) (k : Nat) (x : Core) :
    (apply (.core k x) s).skeins = s.skeins := rfl
@[simp] theorem apply_core_cores (s : State) (k : Nat) (x : Core) :
    (apply (.core k x) s).cores = tput s.cores k x := rfl
@[simp] theorem apply_core_icache (s : State) (k : Nat) (x : Core) :
    (apply (.core k x) s).icache = s.icache := rfl
@[simp] theorem apply_core_maps (s : State) (k : Nat) (x : Core) :
    (apply (.core k x) s).maps = s.maps := rfl
@[simp] theorem apply_core_regs (s : State) (k : Nat) (x : Core) :
    (apply (.core k x) s).regs = s.regs := rfl
@[simp] theorem apply_core_pools (s : State) (k : Nat) (x : Core) :
    (apply (.core k x) s).pools = s.pools := rfl
@[simp] theorem apply_core_dies (s : State) (k : Nat) (x : Core) :
    (apply (.core k x) s).dies = s.dies := rfl
@[simp] theorem apply_core_queues (s : State) (k : Nat) (x : Core) :
    (apply (.core k x) s).queues = s.queues := rfl
@[simp] theorem apply_core_launches (s : State) (k : Nat) (x : Core) :
    (apply (.core k x) s).launches = s.launches := rfl
@[simp] theorem apply_core_banks (s : State) (k : Nat) (x : Core) :
    (apply (.core k x) s).banks = s.banks := rfl
@[simp] theorem apply_core_cur (s : State) (k : Nat) (x : Core) :
    (apply (.core k x) s).cur = s.cur := rfl
@[simp] theorem apply_core_wiped (s : State) (k : Nat) (x : Core) :
    (apply (.core k x) s).wiped = s.wiped := rfl
@[simp] theorem apply_icache_mem (s : State) (k : Nat) (x : Table (List Byte)) :
    (apply (.icache k x) s).mem = s.mem := rfl
@[simp] theorem apply_icache_poison (s : State) (k : Nat) (x : Table (List Byte)) :
    (apply (.icache k x) s).poison = s.poison := rfl
@[simp] theorem apply_icache_fibres (s : State) (k : Nat) (x : Table (List Byte)) :
    (apply (.icache k x) s).fibres = s.fibres := rfl
@[simp] theorem apply_icache_strands (s : State) (k : Nat) (x : Table (List Byte)) :
    (apply (.icache k x) s).strands = s.strands := rfl
@[simp] theorem apply_icache_skeins (s : State) (k : Nat) (x : Table (List Byte)) :
    (apply (.icache k x) s).skeins = s.skeins := rfl
@[simp] theorem apply_icache_cores (s : State) (k : Nat) (x : Table (List Byte)) :
    (apply (.icache k x) s).cores = s.cores := rfl
@[simp] theorem apply_icache_icache (s : State) (k : Nat) (x : Table (List Byte)) :
    (apply (.icache k x) s).icache = tput s.icache k x := rfl
@[simp] theorem apply_icache_maps (s : State) (k : Nat) (x : Table (List Byte)) :
    (apply (.icache k x) s).maps = s.maps := rfl
@[simp] theorem apply_icache_regs (s : State) (k : Nat) (x : Table (List Byte)) :
    (apply (.icache k x) s).regs = s.regs := rfl
@[simp] theorem apply_icache_pools (s : State) (k : Nat) (x : Table (List Byte)) :
    (apply (.icache k x) s).pools = s.pools := rfl
@[simp] theorem apply_icache_dies (s : State) (k : Nat) (x : Table (List Byte)) :
    (apply (.icache k x) s).dies = s.dies := rfl
@[simp] theorem apply_icache_queues (s : State) (k : Nat) (x : Table (List Byte)) :
    (apply (.icache k x) s).queues = s.queues := rfl
@[simp] theorem apply_icache_launches (s : State) (k : Nat) (x : Table (List Byte)) :
    (apply (.icache k x) s).launches = s.launches := rfl
@[simp] theorem apply_icache_banks (s : State) (k : Nat) (x : Table (List Byte)) :
    (apply (.icache k x) s).banks = s.banks := rfl
@[simp] theorem apply_icache_cur (s : State) (k : Nat) (x : Table (List Byte)) :
    (apply (.icache k x) s).cur = s.cur := rfl
@[simp] theorem apply_icache_wiped (s : State) (k : Nat) (x : Table (List Byte)) :
    (apply (.icache k x) s).wiped = s.wiped := rfl
@[simp] theorem apply_map_mem (s : State) (k : Nat) (x : Mapping) :
    (apply (.map k x) s).mem = s.mem := rfl
@[simp] theorem apply_map_poison (s : State) (k : Nat) (x : Mapping) :
    (apply (.map k x) s).poison = s.poison := rfl
@[simp] theorem apply_map_fibres (s : State) (k : Nat) (x : Mapping) :
    (apply (.map k x) s).fibres = s.fibres := rfl
@[simp] theorem apply_map_strands (s : State) (k : Nat) (x : Mapping) :
    (apply (.map k x) s).strands = s.strands := rfl
@[simp] theorem apply_map_skeins (s : State) (k : Nat) (x : Mapping) :
    (apply (.map k x) s).skeins = s.skeins := rfl
@[simp] theorem apply_map_cores (s : State) (k : Nat) (x : Mapping) :
    (apply (.map k x) s).cores = s.cores := rfl
@[simp] theorem apply_map_icache (s : State) (k : Nat) (x : Mapping) :
    (apply (.map k x) s).icache = s.icache := rfl
@[simp] theorem apply_map_maps (s : State) (k : Nat) (x : Mapping) :
    (apply (.map k x) s).maps = tput s.maps k x := rfl
@[simp] theorem apply_map_regs (s : State) (k : Nat) (x : Mapping) :
    (apply (.map k x) s).regs = s.regs := rfl
@[simp] theorem apply_map_pools (s : State) (k : Nat) (x : Mapping) :
    (apply (.map k x) s).pools = s.pools := rfl
@[simp] theorem apply_map_dies (s : State) (k : Nat) (x : Mapping) :
    (apply (.map k x) s).dies = s.dies := rfl
@[simp] theorem apply_map_queues (s : State) (k : Nat) (x : Mapping) :
    (apply (.map k x) s).queues = s.queues := rfl
@[simp] theorem apply_map_launches (s : State) (k : Nat) (x : Mapping) :
    (apply (.map k x) s).launches = s.launches := rfl
@[simp] theorem apply_map_banks (s : State) (k : Nat) (x : Mapping) :
    (apply (.map k x) s).banks = s.banks := rfl
@[simp] theorem apply_map_cur (s : State) (k : Nat) (x : Mapping) :
    (apply (.map k x) s).cur = s.cur := rfl
@[simp] theorem apply_map_wiped (s : State) (k : Nat) (x : Mapping) :
    (apply (.map k x) s).wiped = s.wiped := rfl
@[simp] theorem apply_mapEnd_mem (s : State) (k : Nat) :
    (apply (.mapEnd k) s).mem = s.mem := rfl
@[simp] theorem apply_mapEnd_poison (s : State) (k : Nat) :
    (apply (.mapEnd k) s).poison = s.poison := rfl
@[simp] theorem apply_mapEnd_fibres (s : State) (k : Nat) :
    (apply (.mapEnd k) s).fibres = s.fibres := rfl
@[simp] theorem apply_mapEnd_strands (s : State) (k : Nat) :
    (apply (.mapEnd k) s).strands = s.strands := rfl
@[simp] theorem apply_mapEnd_skeins (s : State) (k : Nat) :
    (apply (.mapEnd k) s).skeins = s.skeins := rfl
@[simp] theorem apply_mapEnd_cores (s : State) (k : Nat) :
    (apply (.mapEnd k) s).cores = s.cores := rfl
@[simp] theorem apply_mapEnd_icache (s : State) (k : Nat) :
    (apply (.mapEnd k) s).icache = s.icache := rfl
@[simp] theorem apply_mapEnd_maps (s : State) (k : Nat) :
    (apply (.mapEnd k) s).maps = tdel s.maps k := rfl
@[simp] theorem apply_mapEnd_regs (s : State) (k : Nat) :
    (apply (.mapEnd k) s).regs = s.regs := rfl
@[simp] theorem apply_mapEnd_pools (s : State) (k : Nat) :
    (apply (.mapEnd k) s).pools = s.pools := rfl
@[simp] theorem apply_mapEnd_dies (s : State) (k : Nat) :
    (apply (.mapEnd k) s).dies = s.dies := rfl
@[simp] theorem apply_mapEnd_queues (s : State) (k : Nat) :
    (apply (.mapEnd k) s).queues = s.queues := rfl
@[simp] theorem apply_mapEnd_launches (s : State) (k : Nat) :
    (apply (.mapEnd k) s).launches = s.launches := rfl
@[simp] theorem apply_mapEnd_banks (s : State) (k : Nat) :
    (apply (.mapEnd k) s).banks = s.banks := rfl
@[simp] theorem apply_mapEnd_cur (s : State) (k : Nat) :
    (apply (.mapEnd k) s).cur = s.cur := rfl
@[simp] theorem apply_mapEnd_wiped (s : State) (k : Nat) :
    (apply (.mapEnd k) s).wiped = s.wiped := rfl
@[simp] theorem apply_reg_mem (s : State) (k : Nat) (x : Reg) :
    (apply (.reg k x) s).mem = s.mem := rfl
@[simp] theorem apply_reg_poison (s : State) (k : Nat) (x : Reg) :
    (apply (.reg k x) s).poison = s.poison := rfl
@[simp] theorem apply_reg_fibres (s : State) (k : Nat) (x : Reg) :
    (apply (.reg k x) s).fibres = s.fibres := rfl
@[simp] theorem apply_reg_strands (s : State) (k : Nat) (x : Reg) :
    (apply (.reg k x) s).strands = s.strands := rfl
@[simp] theorem apply_reg_skeins (s : State) (k : Nat) (x : Reg) :
    (apply (.reg k x) s).skeins = s.skeins := rfl
@[simp] theorem apply_reg_cores (s : State) (k : Nat) (x : Reg) :
    (apply (.reg k x) s).cores = s.cores := rfl
@[simp] theorem apply_reg_icache (s : State) (k : Nat) (x : Reg) :
    (apply (.reg k x) s).icache = s.icache := rfl
@[simp] theorem apply_reg_maps (s : State) (k : Nat) (x : Reg) :
    (apply (.reg k x) s).maps = s.maps := rfl
@[simp] theorem apply_reg_regs (s : State) (k : Nat) (x : Reg) :
    (apply (.reg k x) s).regs = tput s.regs k x := rfl
@[simp] theorem apply_reg_pools (s : State) (k : Nat) (x : Reg) :
    (apply (.reg k x) s).pools = s.pools := rfl
@[simp] theorem apply_reg_dies (s : State) (k : Nat) (x : Reg) :
    (apply (.reg k x) s).dies = s.dies := rfl
@[simp] theorem apply_reg_queues (s : State) (k : Nat) (x : Reg) :
    (apply (.reg k x) s).queues = s.queues := rfl
@[simp] theorem apply_reg_launches (s : State) (k : Nat) (x : Reg) :
    (apply (.reg k x) s).launches = s.launches := rfl
@[simp] theorem apply_reg_banks (s : State) (k : Nat) (x : Reg) :
    (apply (.reg k x) s).banks = s.banks := rfl
@[simp] theorem apply_reg_cur (s : State) (k : Nat) (x : Reg) :
    (apply (.reg k x) s).cur = s.cur := rfl
@[simp] theorem apply_reg_wiped (s : State) (k : Nat) (x : Reg) :
    (apply (.reg k x) s).wiped = s.wiped := rfl
@[simp] theorem apply_regEnd_mem (s : State) (k : Nat) :
    (apply (.regEnd k) s).mem = s.mem := rfl
@[simp] theorem apply_regEnd_poison (s : State) (k : Nat) :
    (apply (.regEnd k) s).poison = s.poison := rfl
@[simp] theorem apply_regEnd_fibres (s : State) (k : Nat) :
    (apply (.regEnd k) s).fibres = s.fibres := rfl
@[simp] theorem apply_regEnd_strands (s : State) (k : Nat) :
    (apply (.regEnd k) s).strands = s.strands := rfl
@[simp] theorem apply_regEnd_skeins (s : State) (k : Nat) :
    (apply (.regEnd k) s).skeins = s.skeins := rfl
@[simp] theorem apply_regEnd_cores (s : State) (k : Nat) :
    (apply (.regEnd k) s).cores = s.cores := rfl
@[simp] theorem apply_regEnd_icache (s : State) (k : Nat) :
    (apply (.regEnd k) s).icache = s.icache := rfl
@[simp] theorem apply_regEnd_maps (s : State) (k : Nat) :
    (apply (.regEnd k) s).maps = s.maps := rfl
@[simp] theorem apply_regEnd_regs (s : State) (k : Nat) :
    (apply (.regEnd k) s).regs = tdel s.regs k := rfl
@[simp] theorem apply_regEnd_pools (s : State) (k : Nat) :
    (apply (.regEnd k) s).pools = s.pools := rfl
@[simp] theorem apply_regEnd_dies (s : State) (k : Nat) :
    (apply (.regEnd k) s).dies = s.dies := rfl
@[simp] theorem apply_regEnd_queues (s : State) (k : Nat) :
    (apply (.regEnd k) s).queues = s.queues := rfl
@[simp] theorem apply_regEnd_launches (s : State) (k : Nat) :
    (apply (.regEnd k) s).launches = s.launches := rfl
@[simp] theorem apply_regEnd_banks (s : State) (k : Nat) :
    (apply (.regEnd k) s).banks = s.banks := rfl
@[simp] theorem apply_regEnd_cur (s : State) (k : Nat) :
    (apply (.regEnd k) s).cur = s.cur := rfl
@[simp] theorem apply_regEnd_wiped (s : State) (k : Nat) :
    (apply (.regEnd k) s).wiped = s.wiped := rfl
@[simp] theorem apply_pool_mem (s : State) (k : Nat) (x : Pool) :
    (apply (.pool k x) s).mem = s.mem := rfl
@[simp] theorem apply_pool_poison (s : State) (k : Nat) (x : Pool) :
    (apply (.pool k x) s).poison = s.poison := rfl
@[simp] theorem apply_pool_fibres (s : State) (k : Nat) (x : Pool) :
    (apply (.pool k x) s).fibres = s.fibres := rfl
@[simp] theorem apply_pool_strands (s : State) (k : Nat) (x : Pool) :
    (apply (.pool k x) s).strands = s.strands := rfl
@[simp] theorem apply_pool_skeins (s : State) (k : Nat) (x : Pool) :
    (apply (.pool k x) s).skeins = s.skeins := rfl
@[simp] theorem apply_pool_cores (s : State) (k : Nat) (x : Pool) :
    (apply (.pool k x) s).cores = s.cores := rfl
@[simp] theorem apply_pool_icache (s : State) (k : Nat) (x : Pool) :
    (apply (.pool k x) s).icache = s.icache := rfl
@[simp] theorem apply_pool_maps (s : State) (k : Nat) (x : Pool) :
    (apply (.pool k x) s).maps = s.maps := rfl
@[simp] theorem apply_pool_regs (s : State) (k : Nat) (x : Pool) :
    (apply (.pool k x) s).regs = s.regs := rfl
@[simp] theorem apply_pool_pools (s : State) (k : Nat) (x : Pool) :
    (apply (.pool k x) s).pools = tput s.pools k x := rfl
@[simp] theorem apply_pool_dies (s : State) (k : Nat) (x : Pool) :
    (apply (.pool k x) s).dies = s.dies := rfl
@[simp] theorem apply_pool_queues (s : State) (k : Nat) (x : Pool) :
    (apply (.pool k x) s).queues = s.queues := rfl
@[simp] theorem apply_pool_launches (s : State) (k : Nat) (x : Pool) :
    (apply (.pool k x) s).launches = s.launches := rfl
@[simp] theorem apply_pool_banks (s : State) (k : Nat) (x : Pool) :
    (apply (.pool k x) s).banks = s.banks := rfl
@[simp] theorem apply_pool_cur (s : State) (k : Nat) (x : Pool) :
    (apply (.pool k x) s).cur = s.cur := rfl
@[simp] theorem apply_pool_wiped (s : State) (k : Nat) (x : Pool) :
    (apply (.pool k x) s).wiped = s.wiped := rfl
@[simp] theorem apply_poolEnd_mem (s : State) (k : Nat) :
    (apply (.poolEnd k) s).mem = s.mem := rfl
@[simp] theorem apply_poolEnd_poison (s : State) (k : Nat) :
    (apply (.poolEnd k) s).poison = s.poison := rfl
@[simp] theorem apply_poolEnd_fibres (s : State) (k : Nat) :
    (apply (.poolEnd k) s).fibres = s.fibres := rfl
@[simp] theorem apply_poolEnd_strands (s : State) (k : Nat) :
    (apply (.poolEnd k) s).strands = s.strands := rfl
@[simp] theorem apply_poolEnd_skeins (s : State) (k : Nat) :
    (apply (.poolEnd k) s).skeins = s.skeins := rfl
@[simp] theorem apply_poolEnd_cores (s : State) (k : Nat) :
    (apply (.poolEnd k) s).cores = s.cores := rfl
@[simp] theorem apply_poolEnd_icache (s : State) (k : Nat) :
    (apply (.poolEnd k) s).icache = s.icache := rfl
@[simp] theorem apply_poolEnd_maps (s : State) (k : Nat) :
    (apply (.poolEnd k) s).maps = s.maps := rfl
@[simp] theorem apply_poolEnd_regs (s : State) (k : Nat) :
    (apply (.poolEnd k) s).regs = s.regs := rfl
@[simp] theorem apply_poolEnd_pools (s : State) (k : Nat) :
    (apply (.poolEnd k) s).pools = tdel s.pools k := rfl
@[simp] theorem apply_poolEnd_dies (s : State) (k : Nat) :
    (apply (.poolEnd k) s).dies = s.dies := rfl
@[simp] theorem apply_poolEnd_queues (s : State) (k : Nat) :
    (apply (.poolEnd k) s).queues = s.queues := rfl
@[simp] theorem apply_poolEnd_launches (s : State) (k : Nat) :
    (apply (.poolEnd k) s).launches = s.launches := rfl
@[simp] theorem apply_poolEnd_banks (s : State) (k : Nat) :
    (apply (.poolEnd k) s).banks = s.banks := rfl
@[simp] theorem apply_poolEnd_cur (s : State) (k : Nat) :
    (apply (.poolEnd k) s).cur = s.cur := rfl
@[simp] theorem apply_poolEnd_wiped (s : State) (k : Nat) :
    (apply (.poolEnd k) s).wiped = s.wiped := rfl
@[simp] theorem apply_die_mem (s : State) (k : Nat) (x : Die) :
    (apply (.die k x) s).mem = s.mem := rfl
@[simp] theorem apply_die_poison (s : State) (k : Nat) (x : Die) :
    (apply (.die k x) s).poison = s.poison := rfl
@[simp] theorem apply_die_fibres (s : State) (k : Nat) (x : Die) :
    (apply (.die k x) s).fibres = s.fibres := rfl
@[simp] theorem apply_die_strands (s : State) (k : Nat) (x : Die) :
    (apply (.die k x) s).strands = s.strands := rfl
@[simp] theorem apply_die_skeins (s : State) (k : Nat) (x : Die) :
    (apply (.die k x) s).skeins = s.skeins := rfl
@[simp] theorem apply_die_cores (s : State) (k : Nat) (x : Die) :
    (apply (.die k x) s).cores = s.cores := rfl
@[simp] theorem apply_die_icache (s : State) (k : Nat) (x : Die) :
    (apply (.die k x) s).icache = s.icache := rfl
@[simp] theorem apply_die_maps (s : State) (k : Nat) (x : Die) :
    (apply (.die k x) s).maps = s.maps := rfl
@[simp] theorem apply_die_regs (s : State) (k : Nat) (x : Die) :
    (apply (.die k x) s).regs = s.regs := rfl
@[simp] theorem apply_die_pools (s : State) (k : Nat) (x : Die) :
    (apply (.die k x) s).pools = s.pools := rfl
@[simp] theorem apply_die_dies (s : State) (k : Nat) (x : Die) :
    (apply (.die k x) s).dies = tput s.dies k x := rfl
@[simp] theorem apply_die_queues (s : State) (k : Nat) (x : Die) :
    (apply (.die k x) s).queues = s.queues := rfl
@[simp] theorem apply_die_launches (s : State) (k : Nat) (x : Die) :
    (apply (.die k x) s).launches = s.launches := rfl
@[simp] theorem apply_die_banks (s : State) (k : Nat) (x : Die) :
    (apply (.die k x) s).banks = s.banks := rfl
@[simp] theorem apply_die_cur (s : State) (k : Nat) (x : Die) :
    (apply (.die k x) s).cur = s.cur := rfl
@[simp] theorem apply_die_wiped (s : State) (k : Nat) (x : Die) :
    (apply (.die k x) s).wiped = s.wiped := rfl
@[simp] theorem apply_queue_mem (s : State) (k : Nat) (x : LQueue) :
    (apply (.queue k x) s).mem = s.mem := rfl
@[simp] theorem apply_queue_poison (s : State) (k : Nat) (x : LQueue) :
    (apply (.queue k x) s).poison = s.poison := rfl
@[simp] theorem apply_queue_fibres (s : State) (k : Nat) (x : LQueue) :
    (apply (.queue k x) s).fibres = s.fibres := rfl
@[simp] theorem apply_queue_strands (s : State) (k : Nat) (x : LQueue) :
    (apply (.queue k x) s).strands = s.strands := rfl
@[simp] theorem apply_queue_skeins (s : State) (k : Nat) (x : LQueue) :
    (apply (.queue k x) s).skeins = s.skeins := rfl
@[simp] theorem apply_queue_cores (s : State) (k : Nat) (x : LQueue) :
    (apply (.queue k x) s).cores = s.cores := rfl
@[simp] theorem apply_queue_icache (s : State) (k : Nat) (x : LQueue) :
    (apply (.queue k x) s).icache = s.icache := rfl
@[simp] theorem apply_queue_maps (s : State) (k : Nat) (x : LQueue) :
    (apply (.queue k x) s).maps = s.maps := rfl
@[simp] theorem apply_queue_regs (s : State) (k : Nat) (x : LQueue) :
    (apply (.queue k x) s).regs = s.regs := rfl
@[simp] theorem apply_queue_pools (s : State) (k : Nat) (x : LQueue) :
    (apply (.queue k x) s).pools = s.pools := rfl
@[simp] theorem apply_queue_dies (s : State) (k : Nat) (x : LQueue) :
    (apply (.queue k x) s).dies = s.dies := rfl
@[simp] theorem apply_queue_queues (s : State) (k : Nat) (x : LQueue) :
    (apply (.queue k x) s).queues = tput s.queues k x := rfl
@[simp] theorem apply_queue_launches (s : State) (k : Nat) (x : LQueue) :
    (apply (.queue k x) s).launches = s.launches := rfl
@[simp] theorem apply_queue_banks (s : State) (k : Nat) (x : LQueue) :
    (apply (.queue k x) s).banks = s.banks := rfl
@[simp] theorem apply_queue_cur (s : State) (k : Nat) (x : LQueue) :
    (apply (.queue k x) s).cur = s.cur := rfl
@[simp] theorem apply_queue_wiped (s : State) (k : Nat) (x : LQueue) :
    (apply (.queue k x) s).wiped = s.wiped := rfl
@[simp] theorem apply_launch_mem (s : State) (k : Nat) (x : Launch) :
    (apply (.launch k x) s).mem = s.mem := rfl
@[simp] theorem apply_launch_poison (s : State) (k : Nat) (x : Launch) :
    (apply (.launch k x) s).poison = s.poison := rfl
@[simp] theorem apply_launch_fibres (s : State) (k : Nat) (x : Launch) :
    (apply (.launch k x) s).fibres = s.fibres := rfl
@[simp] theorem apply_launch_strands (s : State) (k : Nat) (x : Launch) :
    (apply (.launch k x) s).strands = s.strands := rfl
@[simp] theorem apply_launch_skeins (s : State) (k : Nat) (x : Launch) :
    (apply (.launch k x) s).skeins = s.skeins := rfl
@[simp] theorem apply_launch_cores (s : State) (k : Nat) (x : Launch) :
    (apply (.launch k x) s).cores = s.cores := rfl
@[simp] theorem apply_launch_icache (s : State) (k : Nat) (x : Launch) :
    (apply (.launch k x) s).icache = s.icache := rfl
@[simp] theorem apply_launch_maps (s : State) (k : Nat) (x : Launch) :
    (apply (.launch k x) s).maps = s.maps := rfl
@[simp] theorem apply_launch_regs (s : State) (k : Nat) (x : Launch) :
    (apply (.launch k x) s).regs = s.regs := rfl
@[simp] theorem apply_launch_pools (s : State) (k : Nat) (x : Launch) :
    (apply (.launch k x) s).pools = s.pools := rfl
@[simp] theorem apply_launch_dies (s : State) (k : Nat) (x : Launch) :
    (apply (.launch k x) s).dies = s.dies := rfl
@[simp] theorem apply_launch_queues (s : State) (k : Nat) (x : Launch) :
    (apply (.launch k x) s).queues = s.queues := rfl
@[simp] theorem apply_launch_launches (s : State) (k : Nat) (x : Launch) :
    (apply (.launch k x) s).launches = tput s.launches k x := rfl
@[simp] theorem apply_launch_banks (s : State) (k : Nat) (x : Launch) :
    (apply (.launch k x) s).banks = s.banks := rfl
@[simp] theorem apply_launch_cur (s : State) (k : Nat) (x : Launch) :
    (apply (.launch k x) s).cur = s.cur := rfl
@[simp] theorem apply_launch_wiped (s : State) (k : Nat) (x : Launch) :
    (apply (.launch k x) s).wiped = s.wiped := rfl
@[simp] theorem apply_launchEnd_mem (s : State) (k : Nat) :
    (apply (.launchEnd k) s).mem = s.mem := rfl
@[simp] theorem apply_launchEnd_poison (s : State) (k : Nat) :
    (apply (.launchEnd k) s).poison = s.poison := rfl
@[simp] theorem apply_launchEnd_fibres (s : State) (k : Nat) :
    (apply (.launchEnd k) s).fibres = s.fibres := rfl
@[simp] theorem apply_launchEnd_strands (s : State) (k : Nat) :
    (apply (.launchEnd k) s).strands = s.strands := rfl
@[simp] theorem apply_launchEnd_skeins (s : State) (k : Nat) :
    (apply (.launchEnd k) s).skeins = s.skeins := rfl
@[simp] theorem apply_launchEnd_cores (s : State) (k : Nat) :
    (apply (.launchEnd k) s).cores = s.cores := rfl
@[simp] theorem apply_launchEnd_icache (s : State) (k : Nat) :
    (apply (.launchEnd k) s).icache = s.icache := rfl
@[simp] theorem apply_launchEnd_maps (s : State) (k : Nat) :
    (apply (.launchEnd k) s).maps = s.maps := rfl
@[simp] theorem apply_launchEnd_regs (s : State) (k : Nat) :
    (apply (.launchEnd k) s).regs = s.regs := rfl
@[simp] theorem apply_launchEnd_pools (s : State) (k : Nat) :
    (apply (.launchEnd k) s).pools = s.pools := rfl
@[simp] theorem apply_launchEnd_dies (s : State) (k : Nat) :
    (apply (.launchEnd k) s).dies = s.dies := rfl
@[simp] theorem apply_launchEnd_queues (s : State) (k : Nat) :
    (apply (.launchEnd k) s).queues = s.queues := rfl
@[simp] theorem apply_launchEnd_launches (s : State) (k : Nat) :
    (apply (.launchEnd k) s).launches = tdel s.launches k := rfl
@[simp] theorem apply_launchEnd_banks (s : State) (k : Nat) :
    (apply (.launchEnd k) s).banks = s.banks := rfl
@[simp] theorem apply_launchEnd_cur (s : State) (k : Nat) :
    (apply (.launchEnd k) s).cur = s.cur := rfl
@[simp] theorem apply_launchEnd_wiped (s : State) (k : Nat) :
    (apply (.launchEnd k) s).wiped = s.wiped := rfl
@[simp] theorem apply_bank_mem (s : State) (k : Nat) (x : Bank) :
    (apply (.bank k x) s).mem = s.mem := rfl
@[simp] theorem apply_bank_poison (s : State) (k : Nat) (x : Bank) :
    (apply (.bank k x) s).poison = s.poison := rfl
@[simp] theorem apply_bank_fibres (s : State) (k : Nat) (x : Bank) :
    (apply (.bank k x) s).fibres = s.fibres := rfl
@[simp] theorem apply_bank_strands (s : State) (k : Nat) (x : Bank) :
    (apply (.bank k x) s).strands = s.strands := rfl
@[simp] theorem apply_bank_skeins (s : State) (k : Nat) (x : Bank) :
    (apply (.bank k x) s).skeins = s.skeins := rfl
@[simp] theorem apply_bank_cores (s : State) (k : Nat) (x : Bank) :
    (apply (.bank k x) s).cores = s.cores := rfl
@[simp] theorem apply_bank_icache (s : State) (k : Nat) (x : Bank) :
    (apply (.bank k x) s).icache = s.icache := rfl
@[simp] theorem apply_bank_maps (s : State) (k : Nat) (x : Bank) :
    (apply (.bank k x) s).maps = s.maps := rfl
@[simp] theorem apply_bank_regs (s : State) (k : Nat) (x : Bank) :
    (apply (.bank k x) s).regs = s.regs := rfl
@[simp] theorem apply_bank_pools (s : State) (k : Nat) (x : Bank) :
    (apply (.bank k x) s).pools = s.pools := rfl
@[simp] theorem apply_bank_dies (s : State) (k : Nat) (x : Bank) :
    (apply (.bank k x) s).dies = s.dies := rfl
@[simp] theorem apply_bank_queues (s : State) (k : Nat) (x : Bank) :
    (apply (.bank k x) s).queues = s.queues := rfl
@[simp] theorem apply_bank_launches (s : State) (k : Nat) (x : Bank) :
    (apply (.bank k x) s).launches = s.launches := rfl
@[simp] theorem apply_bank_banks (s : State) (k : Nat) (x : Bank) :
    (apply (.bank k x) s).banks = tput s.banks k x := rfl
@[simp] theorem apply_bank_cur (s : State) (k : Nat) (x : Bank) :
    (apply (.bank k x) s).cur = s.cur := rfl
@[simp] theorem apply_bank_wiped (s : State) (k : Nat) (x : Bank) :
    (apply (.bank k x) s).wiped = s.wiped := rfl

@[simp] theorem apply_rest_clk (s t : State) : (apply (.rest t) s).clk = t.clk := rfl
@[simp] theorem apply_rest_mem (s t : State) : (apply (.rest t) s).mem = s.mem := rfl
@[simp] theorem apply_rest_poison (s t : State) : (apply (.rest t) s).poison = s.poison := rfl
@[simp] theorem apply_rest_flown (s t : State) : (apply (.rest t) s).flown = t.flown := rfl
@[simp] theorem apply_rest_fibres (s t : State) : (apply (.rest t) s).fibres = s.fibres := rfl
@[simp] theorem apply_rest_strands (s t : State) : (apply (.rest t) s).strands = s.strands := rfl
@[simp] theorem apply_rest_skeins (s t : State) : (apply (.rest t) s).skeins = s.skeins := rfl
@[simp] theorem apply_rest_cores (s t : State) : (apply (.rest t) s).cores = s.cores := rfl
@[simp] theorem apply_rest_icache (s t : State) : (apply (.rest t) s).icache = s.icache := rfl
@[simp] theorem apply_rest_ifetch (s t : State) : (apply (.rest t) s).ifetch = t.ifetch := rfl
@[simp] theorem apply_rest_maps (s t : State) : (apply (.rest t) s).maps = s.maps := rfl
@[simp] theorem apply_rest_regs (s t : State) : (apply (.rest t) s).regs = s.regs := rfl
@[simp] theorem apply_rest_pools (s t : State) : (apply (.rest t) s).pools = s.pools := rfl
@[simp] theorem apply_rest_fills (s t : State) : (apply (.rest t) s).fills = t.fills := rfl
@[simp] theorem apply_rest_dies (s t : State) : (apply (.rest t) s).dies = s.dies := rfl
@[simp] theorem apply_rest_regions (s t : State) : (apply (.rest t) s).regions = t.regions := rfl
@[simp] theorem apply_rest_windows (s t : State) : (apply (.rest t) s).windows = t.windows := rfl
@[simp] theorem apply_rest_l2 (s t : State) : (apply (.rest t) s).l2 = t.l2 := rfl
@[simp] theorem apply_rest_dups (s t : State) : (apply (.rest t) s).dups = t.dups := rfl
@[simp] theorem apply_rest_shadows (s t : State) : (apply (.rest t) s).shadows = t.shadows := rfl
@[simp] theorem apply_rest_modes (s t : State) : (apply (.rest t) s).modes = t.modes := rfl
@[simp] theorem apply_rest_packets (s t : State) : (apply (.rest t) s).packets = t.packets := rfl
@[simp] theorem apply_rest_hstate (s t : State) : (apply (.rest t) s).hstate = t.hstate := rfl
@[simp] theorem apply_rest_insvc (s t : State) : (apply (.rest t) s).insvc = t.insvc := rfl
@[simp] theorem apply_rest_rlog (s t : State) : (apply (.rest t) s).rlog = t.rlog := rfl
@[simp] theorem apply_rest_rllost (s t : State) : (apply (.rest t) s).rllost = t.rllost := rfl
@[simp] theorem apply_rest_ctxbase (s t : State) : (apply (.rest t) s).ctxbase = t.ctxbase := rfl
@[simp] theorem apply_rest_ctxcnt (s t : State) : (apply (.rest t) s).ctxcnt = t.ctxcnt := rfl
@[simp] theorem apply_rest_lseed (s t : State) : (apply (.rest t) s).lseed = t.lseed := rfl
@[simp] theorem apply_rest_inflight (s t : State) : (apply (.rest t) s).inflight = t.inflight := rfl
@[simp] theorem apply_rest_abusy (s t : State) : (apply (.rest t) s).abusy = t.abusy := rfl
@[simp] theorem apply_rest_blockage (s t : State) : (apply (.rest t) s).blockage = t.blockage := rfl
@[simp] theorem apply_rest_swcyc (s t : State) : (apply (.rest t) s).swcyc = t.swcyc := rfl
@[simp] theorem apply_rest_queues (s t : State) : (apply (.rest t) s).queues = s.queues := rfl
@[simp] theorem apply_rest_launches (s t : State) : (apply (.rest t) s).launches = s.launches := rfl
@[simp] theorem apply_rest_cps (s t : State) : (apply (.rest t) s).cps = t.cps := rfl
@[simp] theorem apply_rest_served (s t : State) : (apply (.rest t) s).served = t.served := rfl
@[simp] theorem apply_rest_banks (s t : State) : (apply (.rest t) s).banks = s.banks := rfl
@[simp] theorem apply_rest_pseudos (s t : State) : (apply (.rest t) s).pseudos = t.pseudos := rfl
@[simp] theorem apply_rest_channels (s t : State) : (apply (.rest t) s).channels = t.channels := rfl
@[simp] theorem apply_rest_hbms (s t : State) : (apply (.rest t) s).hbms = t.hbms := rfl
@[simp] theorem apply_rest_idtab (s t : State) : (apply (.rest t) s).idtab = t.idtab := rfl
@[simp] theorem apply_rest_idlock (s t : State) : (apply (.rest t) s).idlock = t.idlock := rfl
@[simp] theorem apply_rest_slots (s t : State) : (apply (.rest t) s).slots = t.slots := rfl
@[simp] theorem apply_rest_meas (s t : State) : (apply (.rest t) s).meas = t.meas := rfl
@[simp] theorem apply_rest_tdis (s t : State) : (apply (.rest t) s).tdis = t.tdis := rfl
@[simp] theorem apply_rest_vecs (s t : State) : (apply (.rest t) s).vecs = t.vecs := rfl
@[simp] theorem apply_rest_devnum (s t : State) : (apply (.rest t) s).devnum = t.devnum := rfl
@[simp] theorem apply_rest_devinc (s t : State) : (apply (.rest t) s).devinc = t.devinc := rfl
@[simp] theorem apply_rest_linkups (s t : State) : (apply (.rest t) s).linkups = t.linkups := rfl
@[simp] theorem apply_rest_portup (s t : State) : (apply (.rest t) s).portup = t.portup := rfl
@[simp] theorem apply_rest_rtmo (s t : State) : (apply (.rest t) s).rtmo = t.rtmo := rfl
@[simp] theorem apply_rest_eq (s t : State) : (apply (.rest t) s).eq = t.eq := rfl
@[simp] theorem apply_rest_eqlost (s t : State) : (apply (.rest t) s).eqlost = t.eqlost := rfl
@[simp] theorem apply_rest_exports (s t : State) : (apply (.rest t) s).exports = t.exports := rfl
@[simp] theorem apply_rest_remotes (s t : State) : (apply (.rest t) s).remotes = t.remotes := rfl
@[simp] theorem apply_rest_waiting (s t : State) : (apply (.rest t) s).waiting = t.waiting := rfl
@[simp] theorem apply_rest_wdlim (s t : State) : (apply (.rest t) s).wdlim = t.wdlim := rfl
@[simp] theorem apply_rest_hevt (s t : State) : (apply (.rest t) s).hevt = t.hevt := rfl
@[simp] theorem apply_rest_wearalert (s t : State) : (apply (.rest t) s).wearalert = t.wearalert := rfl
@[simp] theorem apply_rest_rbusy (s t : State) : (apply (.rest t) s).rbusy = t.rbusy := rfl
@[simp] theorem apply_rest_rcore (s t : State) : (apply (.rest t) s).rcore = t.rcore := rfl
@[simp] theorem apply_rest_fstat (s t : State) : (apply (.rest t) s).fstat = t.fstat := rfl
@[simp] theorem apply_rest_stopped (s t : State) : (apply (.rest t) s).stopped = t.stopped := rfl
@[simp] theorem apply_rest_recovery (s t : State) : (apply (.rest t) s).recovery = t.recovery := rfl
@[simp] theorem apply_rest_outbox (s t : State) : (apply (.rest t) s).outbox = t.outbox := rfl
@[simp] theorem apply_rest_nextKey (s t : State) : (apply (.rest t) s).nextKey = t.nextKey := rfl
@[simp] theorem apply_rest_cur (s t : State) : (apply (.rest t) s).cur = t.cur := rfl
@[simp] theorem apply_rest_turn (s t : State) : (apply (.rest t) s).turn = t.turn := rfl
@[simp] theorem apply_rest_agenda (s t : State) : (apply (.rest t) s).agenda = t.agenda := rfl
@[simp] theorem apply_rest_fresh (s t : State) : (apply (.rest t) s).fresh = t.fresh := rfl
@[simp] theorem apply_rest_wiped (s t : State) : (apply (.rest t) s).wiped = s.wiped := rfl

/-! ### Fibres -/

@[simp] theorem set_sk (f : Fibre) (r : Nat) (w : Word) : (f.set r w).sk = f.sk := rfl
@[simp] theorem set_idx (f : Fibre) (r : Nat) (w : Word) : (f.set r w).idx = f.idx := rfl
@[simp] theorem set_lane (f : Fibre) (r : Nat) (w : Word) : (f.set r w).lane = f.lane := rfl
@[simp] theorem set_v (f : Fibre) (r : Nat) (w : Word) : (f.set r w).v = tputD f.v r 0 w := rfl
@[simp] theorem set_p (f : Fibre) (r : Nat) (w : Word) : (f.set r w).p = f.p := rfl
@[simp] theorem set_m (f : Fibre) (r : Nat) (w : Word) : (f.set r w).m = f.m := rfl
@[simp] theorem set_pos (f : Fibre) (r : Nat) (w : Word) : (f.set r w).pos = f.pos := rfl
@[simp] theorem set_fpc (f : Fibre) (r : Nat) (w : Word) : (f.set r w).fpc = f.fpc := rfl
@[simp] theorem set_dtag (f : Fibre) (r : Nat) (w : Word) : (f.set r w).dtag = f.dtag := rfl
@[simp] theorem set_spass (f : Fibre) (r : Nat) (w : Word) : (f.set r w).spass = f.spass := rfl
@[simp] theorem set_slip (f : Fibre) (r : Nat) (w : Word) : (f.set r w).slip = f.slip := rfl
@[simp] theorem set_tr (f : Fibre) (r : Nat) (w : Word) : (f.set r w).tr = f.tr := rfl
@[simp] theorem set_h (f : Fibre) (r : Nat) (w : Word) : (f.set r w).h = f.h := rfl
@[simp] theorem set_resume (f : Fibre) (r : Nat) (w : Word) : (f.set r w).resume = f.resume := rfl
@[simp] theorem set_cursor (f : Fibre) (r : Nat) (w : Word) : (f.set r w).cursor = f.cursor := rfl
@[simp] theorem set_krec (f : Fibre) (r : Nat) (w : Word) : (f.set r w).krec = f.krec := rfl
@[simp] theorem set_arrivals (f : Fibre) (r : Nat) (w : Word) : (f.set r w).arrivals = f.arrivals := rfl
@[simp] theorem set_run (f : Fibre) (r : Nat) (w : Word) : (f.set r w).run = f.run := rfl
@[simp] theorem set_loads (f : Fibre) (r : Nat) (w : Word) :
    (f.set r w).loads = f.loads.map (Load.kill r) := rfl
@[simp] theorem set_stores (f : Fibre) (r : Nat) (w : Word) : (f.set r w).stores = f.stores := rfl
@[simp] theorem set_steers (f : Fibre) (r : Nat) (w : Word) : (f.set r w).steers = f.steers := rfl
@[simp] theorem set_twrs (f : Fibre) (r : Nat) (w : Word) : (f.set r w).twrs = f.twrs := rfl
@[simp] theorem set_ivl (f : Fibre) (r : Nat) (w : Word) : (f.set r w).ivl = f.ivl := rfl
@[simp] theorem set_ident (f : Fibre) (r : Nat) (w : Word) : (f.set r w).ident = f.ident := rfl
@[simp] theorem set_nextId (f : Fibre) (r : Nat) (w : Word) : (f.set r w).nextId = f.nextId := rfl
@[simp] theorem setPair_sk (f : Fibre) (r : Nat) (w : DWord) : (f.setPair r w).sk = f.sk := rfl
@[simp] theorem setPair_idx (f : Fibre) (r : Nat) (w : DWord) : (f.setPair r w).idx = f.idx := rfl
@[simp] theorem setPair_lane (f : Fibre) (r : Nat) (w : DWord) : (f.setPair r w).lane = f.lane := rfl
@[simp] theorem setPair_p (f : Fibre) (r : Nat) (w : DWord) : (f.setPair r w).p = f.p := rfl
@[simp] theorem setPair_m (f : Fibre) (r : Nat) (w : DWord) : (f.setPair r w).m = f.m := rfl
@[simp] theorem setPair_pos (f : Fibre) (r : Nat) (w : DWord) : (f.setPair r w).pos = f.pos := rfl
@[simp] theorem setPair_fpc (f : Fibre) (r : Nat) (w : DWord) : (f.setPair r w).fpc = f.fpc := rfl
@[simp] theorem setPair_dtag (f : Fibre) (r : Nat) (w : DWord) : (f.setPair r w).dtag = f.dtag := rfl
@[simp] theorem setPair_spass (f : Fibre) (r : Nat) (w : DWord) : (f.setPair r w).spass = f.spass := rfl
@[simp] theorem setPair_slip (f : Fibre) (r : Nat) (w : DWord) : (f.setPair r w).slip = f.slip := rfl
@[simp] theorem setPair_tr (f : Fibre) (r : Nat) (w : DWord) : (f.setPair r w).tr = f.tr := rfl
@[simp] theorem setPair_h (f : Fibre) (r : Nat) (w : DWord) : (f.setPair r w).h = f.h := rfl
@[simp] theorem setPair_resume (f : Fibre) (r : Nat) (w : DWord) : (f.setPair r w).resume = f.resume := rfl
@[simp] theorem setPair_cursor (f : Fibre) (r : Nat) (w : DWord) : (f.setPair r w).cursor = f.cursor := rfl
@[simp] theorem setPair_krec (f : Fibre) (r : Nat) (w : DWord) : (f.setPair r w).krec = f.krec := rfl
@[simp] theorem setPair_arrivals (f : Fibre) (r : Nat) (w : DWord) : (f.setPair r w).arrivals = f.arrivals := rfl
@[simp] theorem setPair_run (f : Fibre) (r : Nat) (w : DWord) : (f.setPair r w).run = f.run := rfl
@[simp] theorem setPair_stores (f : Fibre) (r : Nat) (w : DWord) : (f.setPair r w).stores = f.stores := rfl
@[simp] theorem setPair_steers (f : Fibre) (r : Nat) (w : DWord) : (f.setPair r w).steers = f.steers := rfl
@[simp] theorem setPair_twrs (f : Fibre) (r : Nat) (w : DWord) : (f.setPair r w).twrs = f.twrs := rfl
@[simp] theorem setPair_ivl (f : Fibre) (r : Nat) (w : DWord) : (f.setPair r w).ivl = f.ivl := rfl
@[simp] theorem setPair_ident (f : Fibre) (r : Nat) (w : DWord) : (f.setPair r w).ident = f.ident := rfl
@[simp] theorem setPair_nextId (f : Fibre) (r : Nat) (w : DWord) : (f.setPair r w).nextId = f.nextId := rfl
@[simp] theorem setVal_sk (f : Fibre) (r n x : Nat) : (f.setVal r n x).sk = f.sk := by
  induction n generalizing f r x with
  | zero => rfl
  | succ n ih => simp [Fibre.setVal, ih]
@[simp] theorem setVal_idx (f : Fibre) (r n x : Nat) : (f.setVal r n x).idx = f.idx := by
  induction n generalizing f r x with
  | zero => rfl
  | succ n ih => simp [Fibre.setVal, ih]
@[simp] theorem setVal_lane (f : Fibre) (r n x : Nat) : (f.setVal r n x).lane = f.lane := by
  induction n generalizing f r x with
  | zero => rfl
  | succ n ih => simp [Fibre.setVal, ih]
@[simp] theorem setVal_p (f : Fibre) (r n x : Nat) : (f.setVal r n x).p = f.p := by
  induction n generalizing f r x with
  | zero => rfl
  | succ n ih => simp [Fibre.setVal, ih]
@[simp] theorem setVal_m (f : Fibre) (r n x : Nat) : (f.setVal r n x).m = f.m := by
  induction n generalizing f r x with
  | zero => rfl
  | succ n ih => simp [Fibre.setVal, ih]
@[simp] theorem setVal_pos (f : Fibre) (r n x : Nat) : (f.setVal r n x).pos = f.pos := by
  induction n generalizing f r x with
  | zero => rfl
  | succ n ih => simp [Fibre.setVal, ih]
@[simp] theorem setVal_fpc (f : Fibre) (r n x : Nat) : (f.setVal r n x).fpc = f.fpc := by
  induction n generalizing f r x with
  | zero => rfl
  | succ n ih => simp [Fibre.setVal, ih]
@[simp] theorem setVal_dtag (f : Fibre) (r n x : Nat) : (f.setVal r n x).dtag = f.dtag := by
  induction n generalizing f r x with
  | zero => rfl
  | succ n ih => simp [Fibre.setVal, ih]
@[simp] theorem setVal_spass (f : Fibre) (r n x : Nat) : (f.setVal r n x).spass = f.spass := by
  induction n generalizing f r x with
  | zero => rfl
  | succ n ih => simp [Fibre.setVal, ih]
@[simp] theorem setVal_slip (f : Fibre) (r n x : Nat) : (f.setVal r n x).slip = f.slip := by
  induction n generalizing f r x with
  | zero => rfl
  | succ n ih => simp [Fibre.setVal, ih]
@[simp] theorem setVal_tr (f : Fibre) (r n x : Nat) : (f.setVal r n x).tr = f.tr := by
  induction n generalizing f r x with
  | zero => rfl
  | succ n ih => simp [Fibre.setVal, ih]
@[simp] theorem setVal_h (f : Fibre) (r n x : Nat) : (f.setVal r n x).h = f.h := by
  induction n generalizing f r x with
  | zero => rfl
  | succ n ih => simp [Fibre.setVal, ih]
@[simp] theorem setVal_resume (f : Fibre) (r n x : Nat) : (f.setVal r n x).resume = f.resume := by
  induction n generalizing f r x with
  | zero => rfl
  | succ n ih => simp [Fibre.setVal, ih]
@[simp] theorem setVal_cursor (f : Fibre) (r n x : Nat) : (f.setVal r n x).cursor = f.cursor := by
  induction n generalizing f r x with
  | zero => rfl
  | succ n ih => simp [Fibre.setVal, ih]
@[simp] theorem setVal_krec (f : Fibre) (r n x : Nat) : (f.setVal r n x).krec = f.krec := by
  induction n generalizing f r x with
  | zero => rfl
  | succ n ih => simp [Fibre.setVal, ih]
@[simp] theorem setVal_arrivals (f : Fibre) (r n x : Nat) : (f.setVal r n x).arrivals = f.arrivals := by
  induction n generalizing f r x with
  | zero => rfl
  | succ n ih => simp [Fibre.setVal, ih]
@[simp] theorem setVal_run (f : Fibre) (r n x : Nat) : (f.setVal r n x).run = f.run := by
  induction n generalizing f r x with
  | zero => rfl
  | succ n ih => simp [Fibre.setVal, ih]
@[simp] theorem setVal_stores (f : Fibre) (r n x : Nat) : (f.setVal r n x).stores = f.stores := by
  induction n generalizing f r x with
  | zero => rfl
  | succ n ih => simp [Fibre.setVal, ih]
@[simp] theorem setVal_steers (f : Fibre) (r n x : Nat) : (f.setVal r n x).steers = f.steers := by
  induction n generalizing f r x with
  | zero => rfl
  | succ n ih => simp [Fibre.setVal, ih]
@[simp] theorem setVal_twrs (f : Fibre) (r n x : Nat) : (f.setVal r n x).twrs = f.twrs := by
  induction n generalizing f r x with
  | zero => rfl
  | succ n ih => simp [Fibre.setVal, ih]
@[simp] theorem setVal_ivl (f : Fibre) (r n x : Nat) : (f.setVal r n x).ivl = f.ivl := by
  induction n generalizing f r x with
  | zero => rfl
  | succ n ih => simp [Fibre.setVal, ih]
@[simp] theorem setVal_ident (f : Fibre) (r n x : Nat) : (f.setVal r n x).ident = f.ident := by
  induction n generalizing f r x with
  | zero => rfl
  | succ n ih => simp [Fibre.setVal, ih]
@[simp] theorem setVal_nextId (f : Fibre) (r n x : Nat) : (f.setVal r n x).nextId = f.nextId := by
  induction n generalizing f r x with
  | zero => rfl
  | succ n ih => simp [Fibre.setVal, ih]
@[simp] theorem setPred_sk (f : Fibre) (i : Nat) (b : Bool) : (f.setPred i b).sk = f.sk := by
  unfold Fibre.setPred; split <;> rfl
@[simp] theorem setPred_idx (f : Fibre) (i : Nat) (b : Bool) : (f.setPred i b).idx = f.idx := by
  unfold Fibre.setPred; split <;> rfl
@[simp] theorem setPred_lane (f : Fibre) (i : Nat) (b : Bool) : (f.setPred i b).lane = f.lane := by
  unfold Fibre.setPred; split <;> rfl
@[simp] theorem setPred_v (f : Fibre) (i : Nat) (b : Bool) : (f.setPred i b).v = f.v := by
  unfold Fibre.setPred; split <;> rfl
@[simp] theorem setPred_m (f : Fibre) (i : Nat) (b : Bool) : (f.setPred i b).m = f.m := by
  unfold Fibre.setPred; split <;> rfl
@[simp] theorem setPred_pos (f : Fibre) (i : Nat) (b : Bool) : (f.setPred i b).pos = f.pos := by
  unfold Fibre.setPred; split <;> rfl
@[simp] theorem setPred_fpc (f : Fibre) (i : Nat) (b : Bool) : (f.setPred i b).fpc = f.fpc := by
  unfold Fibre.setPred; split <;> rfl
@[simp] theorem setPred_dtag (f : Fibre) (i : Nat) (b : Bool) : (f.setPred i b).dtag = f.dtag := by
  unfold Fibre.setPred; split <;> rfl
@[simp] theorem setPred_spass (f : Fibre) (i : Nat) (b : Bool) : (f.setPred i b).spass = f.spass := by
  unfold Fibre.setPred; split <;> rfl
@[simp] theorem setPred_slip (f : Fibre) (i : Nat) (b : Bool) : (f.setPred i b).slip = f.slip := by
  unfold Fibre.setPred; split <;> rfl
@[simp] theorem setPred_tr (f : Fibre) (i : Nat) (b : Bool) : (f.setPred i b).tr = f.tr := by
  unfold Fibre.setPred; split <;> rfl
@[simp] theorem setPred_h (f : Fibre) (i : Nat) (b : Bool) : (f.setPred i b).h = f.h := by
  unfold Fibre.setPred; split <;> rfl
@[simp] theorem setPred_resume (f : Fibre) (i : Nat) (b : Bool) : (f.setPred i b).resume = f.resume := by
  unfold Fibre.setPred; split <;> rfl
@[simp] theorem setPred_cursor (f : Fibre) (i : Nat) (b : Bool) : (f.setPred i b).cursor = f.cursor := by
  unfold Fibre.setPred; split <;> rfl
@[simp] theorem setPred_krec (f : Fibre) (i : Nat) (b : Bool) : (f.setPred i b).krec = f.krec := by
  unfold Fibre.setPred; split <;> rfl
@[simp] theorem setPred_arrivals (f : Fibre) (i : Nat) (b : Bool) : (f.setPred i b).arrivals = f.arrivals := by
  unfold Fibre.setPred; split <;> rfl
@[simp] theorem setPred_run (f : Fibre) (i : Nat) (b : Bool) : (f.setPred i b).run = f.run := by
  unfold Fibre.setPred; split <;> rfl
@[simp] theorem setPred_loads (f : Fibre) (i : Nat) (b : Bool) : (f.setPred i b).loads = f.loads := by
  unfold Fibre.setPred; split <;> rfl
@[simp] theorem setPred_stores (f : Fibre) (i : Nat) (b : Bool) : (f.setPred i b).stores = f.stores := by
  unfold Fibre.setPred; split <;> rfl
@[simp] theorem setPred_steers (f : Fibre) (i : Nat) (b : Bool) : (f.setPred i b).steers = f.steers := by
  unfold Fibre.setPred; split <;> rfl
@[simp] theorem setPred_twrs (f : Fibre) (i : Nat) (b : Bool) : (f.setPred i b).twrs = f.twrs := by
  unfold Fibre.setPred; split <;> rfl
@[simp] theorem setPred_ivl (f : Fibre) (i : Nat) (b : Bool) : (f.setPred i b).ivl = f.ivl := by
  unfold Fibre.setPred; split <;> rfl
@[simp] theorem setPred_ident (f : Fibre) (i : Nat) (b : Bool) : (f.setPred i b).ident = f.ident := by
  unfold Fibre.setPred; split <;> rfl
@[simp] theorem setPred_nextId (f : Fibre) (i : Nat) (b : Bool) : (f.setPred i b).nextId = f.nextId := by
  unfold Fibre.setPred; split <;> rfl
@[simp] theorem norm_sk (f : Fibre) : f.norm.sk = f.sk := rfl
@[simp] theorem norm_idx (f : Fibre) : f.norm.idx = f.idx := rfl
@[simp] theorem norm_lane (f : Fibre) : f.norm.lane = f.lane := rfl
@[simp] theorem norm_v (f : Fibre) : f.norm.v = f.v := rfl
@[simp] theorem norm_m (f : Fibre) : f.norm.m = f.m := rfl
@[simp] theorem norm_pos (f : Fibre) : f.norm.pos = f.pos := rfl
@[simp] theorem norm_dtag (f : Fibre) : f.norm.dtag = f.dtag := rfl
@[simp] theorem norm_spass (f : Fibre) : f.norm.spass = f.spass := rfl
@[simp] theorem norm_slip (f : Fibre) : f.norm.slip = f.slip := rfl
@[simp] theorem norm_tr (f : Fibre) : f.norm.tr = f.tr := rfl
@[simp] theorem norm_h (f : Fibre) : f.norm.h = f.h := rfl
@[simp] theorem norm_resume (f : Fibre) : f.norm.resume = f.resume := rfl
@[simp] theorem norm_cursor (f : Fibre) : f.norm.cursor = f.cursor := rfl
@[simp] theorem norm_krec (f : Fibre) : f.norm.krec = f.krec := rfl
@[simp] theorem norm_arrivals (f : Fibre) : f.norm.arrivals = f.arrivals := rfl
@[simp] theorem norm_run (f : Fibre) : f.norm.run = f.run := rfl
@[simp] theorem norm_loads (f : Fibre) : f.norm.loads = f.loads := rfl
@[simp] theorem norm_stores (f : Fibre) : f.norm.stores = f.stores := rfl
@[simp] theorem norm_steers (f : Fibre) : f.norm.steers = f.steers := rfl
@[simp] theorem norm_twrs (f : Fibre) : f.norm.twrs = f.twrs := rfl
@[simp] theorem norm_ivl (f : Fibre) : f.norm.ivl = f.ivl := rfl
@[simp] theorem norm_ident (f : Fibre) : f.norm.ident = f.ident := rfl
@[simp] theorem norm_nextId (f : Fibre) : f.norm.nextId = f.nextId := rfl

@[simp] theorem setPred_rjump (f : Fibre) (i : Nat) (b : Bool) : (f.setPred i b).rjump = f.rjump := by
  unfold Fibre.setPred; split <;> rfl
@[simp] theorem set_rjump (f : Fibre) (r : Nat) (w : Word) : (f.set r w).rjump = f.rjump := rfl
@[simp] theorem setVal_rjump (f : Fibre) (r n x : Nat) : (f.setVal r n x).rjump = f.rjump := by
  induction n generalizing f r x with
  | zero => rfl
  | succ n ih => simp [Fibre.setVal, ih]
@[simp] theorem norm_rjump (f : Fibre) : f.norm.rjump = f.rjump := rfl
@[simp] theorem setPred_clause (f : Fibre) (i : Nat) (b : Bool) : (f.setPred i b).clause = f.clause := by
  unfold Fibre.setPred; split <;> rfl
@[simp] theorem set_clause (f : Fibre) (r : Nat) (w : Word) : (f.set r w).clause = f.clause := rfl
@[simp] theorem setVal_clause (f : Fibre) (r n x : Nat) : (f.setVal r n x).clause = f.clause := by
  induction n generalizing f r x with
  | zero => rfl
  | succ n ih => simp [Fibre.setVal, ih]
@[simp] theorem norm_clause (f : Fibre) : f.norm.clause = f.clause := rfl
@[simp] theorem setPred_rejoin (f : Fibre) (i : Nat) (b : Bool) : (f.setPred i b).rejoin = f.rejoin := by
  unfold Fibre.setPred; split <;> rfl
@[simp] theorem set_rejoin (f : Fibre) (r : Nat) (w : Word) : (f.set r w).rejoin = f.rejoin := rfl
@[simp] theorem setVal_rejoin (f : Fibre) (r n x : Nat) : (f.setVal r n x).rejoin = f.rejoin := by
  induction n generalizing f r x with
  | zero => rfl
  | succ n ih => simp [Fibre.setVal, ih]
@[simp] theorem norm_rejoin (f : Fibre) : f.norm.rejoin = f.rejoin := rfl

/-! ### Front contexts -/

@[simp] theorem front_set_pos (f : Front) (r : Nat) (w : DWord) : (f.set r w).pos = f.pos := rfl
@[simp] theorem front_set_q (f : Front) (r : Nat) (w : DWord) : (f.set r w).q = f.q := rfl
@[simp] theorem front_set_tr (f : Front) (r : Nat) (w : DWord) : (f.set r w).tr = f.tr := rfl
@[simp] theorem front_set_resume (f : Front) (r : Nat) (w : DWord) : (f.set r w).resume = f.resume := rfl
@[simp] theorem front_set_run (f : Front) (r : Nat) (w : DWord) : (f.set r w).run = f.run := rfl
@[simp] theorem front_set_clause (f : Front) (r : Nat) (w : DWord) : (f.set r w).clause = f.clause := rfl
@[simp] theorem front_set_stores (f : Front) (r : Nat) (w : DWord) : (f.set r w).stores = f.stores := rfl
@[simp] theorem front_set_ivl (f : Front) (r : Nat) (w : DWord) : (f.set r w).ivl = f.ivl := rfl
@[simp] theorem front_set_ident (f : Front) (r : Nat) (w : DWord) : (f.set r w).ident = f.ident := rfl
@[simp] theorem front_set_nextId (f : Front) (r : Nat) (w : DWord) : (f.set r w).nextId = f.nextId := rfl
@[simp] theorem front_set_s (f : Front) (r : Nat) (w : DWord) : (f.set r w).s = tputD f.s r 0 w := rfl
@[simp] theorem front_setPred_pos (f : Front) (i : Nat) (b : Bool) : (f.setPred i b).pos = f.pos := by
  unfold Front.setPred; split <;> rfl
@[simp] theorem front_setPred_s (f : Front) (i : Nat) (b : Bool) : (f.setPred i b).s = f.s := by
  unfold Front.setPred; split <;> rfl
@[simp] theorem front_setPred_tr (f : Front) (i : Nat) (b : Bool) : (f.setPred i b).tr = f.tr := by
  unfold Front.setPred; split <;> rfl
@[simp] theorem front_setPred_resume (f : Front) (i : Nat) (b : Bool) : (f.setPred i b).resume = f.resume := by
  unfold Front.setPred; split <;> rfl
@[simp] theorem front_setPred_run (f : Front) (i : Nat) (b : Bool) : (f.setPred i b).run = f.run := by
  unfold Front.setPred; split <;> rfl
@[simp] theorem front_setPred_clause (f : Front) (i : Nat) (b : Bool) : (f.setPred i b).clause = f.clause := by
  unfold Front.setPred; split <;> rfl
@[simp] theorem front_setPred_loads (f : Front) (i : Nat) (b : Bool) : (f.setPred i b).loads = f.loads := by
  unfold Front.setPred; split <;> rfl
@[simp] theorem front_setPred_stores (f : Front) (i : Nat) (b : Bool) : (f.setPred i b).stores = f.stores := by
  unfold Front.setPred; split <;> rfl
@[simp] theorem front_setPred_ivl (f : Front) (i : Nat) (b : Bool) : (f.setPred i b).ivl = f.ivl := by
  unfold Front.setPred; split <;> rfl
@[simp] theorem front_setPred_ident (f : Front) (i : Nat) (b : Bool) : (f.setPred i b).ident = f.ident := by
  unfold Front.setPred; split <;> rfl
@[simp] theorem front_setPred_nextId (f : Front) (i : Nat) (b : Bool) : (f.setPred i b).nextId = f.nextId := by
  unfold Front.setPred; split <;> rfl

/-! ### Skeins -/

@[simp] theorem skein_norm_launch (x : Skein) : x.norm.launch = x.launch := rfl
@[simp] theorem skein_norm_lr (x : Skein) : x.norm.lr = x.lr := rfl
@[simp] theorem skein_norm_idx (x : Skein) : x.norm.idx = x.idx := rfl
@[simp] theorem skein_norm_core (x : Skein) : x.norm.core = x.core := rfl
@[simp] theorem skein_norm_lane0 (x : Skein) : x.norm.lane0 = x.lane0 := rfl
@[simp] theorem skein_norm_slot (x : Skein) : x.norm.slot = x.slot := rfl
@[simp] theorem skein_norm_run (x : Skein) : x.norm.run = x.run := rfl
@[simp] theorem skein_norm_halted (x : Skein) : x.norm.halted = x.halted := rfl
@[simp] theorem skein_norm_cgrp (x : Skein) : x.norm.cgrp = x.cgrp := rfl
@[simp] theorem skein_norm_cpq (x : Skein) : x.norm.cpq = x.cpq := rfl
@[simp] theorem skein_norm_tlq (x : Skein) : x.norm.tlq = x.tlq := rfl
@[simp] theorem skein_norm_dq (x : Skein) : x.norm.dq = x.dq := rfl
@[simp] theorem skein_norm_dqBase (x : Skein) : x.norm.dqBase = x.dqBase := rfl
@[simp] theorem skein_norm_knots (x : Skein) : x.norm.knots = x.knots := rfl
@[simp] theorem skein_norm_queues (x : Skein) : x.norm.queues = x.queues := rfl
@[simp] theorem skein_norm_chans (x : Skein) : x.norm.chans = x.chans := rfl
@[simp] theorem skein_norm_tiles (x : Skein) : x.norm.tiles = x.tiles := rfl
@[simp] theorem skein_norm_tops (x : Skein) : x.norm.tops = x.tops := rfl
@[simp] theorem skein_norm_stash (x : Skein) : x.norm.stash = x.stash := rfl
@[simp] theorem skein_norm_stashSerial (x : Skein) : x.norm.stashSerial = x.stashSerial := rfl
@[simp] theorem skein_norm_slots (x : Skein) : x.norm.slots = x.slots := rfl
@[simp] theorem skein_norm_draft (x : Skein) : x.norm.draft = x.draft := rfl
@[simp] theorem skein_norm_image (x : Skein) : x.norm.image = x.image := rfl
@[simp] theorem skein_norm_dog (x : Skein) : x.norm.dog = x.dog := rfl
@[simp] theorem skein_norm_nextId (x : Skein) : x.norm.nextId = x.nextId := rfl

@[simp] theorem skein_norm_quantum (x : Skein) : x.norm.quantum = x.quantum := rfl
@[simp] theorem skein_norm_save (x : Skein) : x.norm.save = x.save := rfl
@[simp] theorem skein_norm_saved (x : Skein) : x.norm.saved = x.saved := rfl

/-! ### Registers -/

/-- A register after a register is written. -/
theorem reg_set (f : Fibre) (r : Nat) (w : Word) (j : Nat) :
    (f.set r w).reg j = if r = j then w else f.reg j := by
  unfold Fibre.reg
  rw [set_v, tgetD_tputD]

/-- A register of a front context after one is written. -/
theorem front_reg_set (f : Front) (r : Nat) (w : DWord) (j : Nat) :
    (f.set r w).reg j = if r = j then w else f.reg j := by
  unfold Front.reg
  rw [front_set_s, tgetD_tputD]

end Sys2Proof.Laws
end

