-- ==== Sys2Proof/Laws/Effects.lean ====
section
/-! SUPPORT. What an effect can do: every primitive effect keeps the form of the state, so that every
meaning that commits its effects keeps it. -/

namespace Sys2Proof.Laws

open Sys2Proof Machine

/-! ### The three parts of the form -/

theorem and_mask_clear {n : Nat} (x m : BitVec n) : (x &&& m) &&& ~~~ m = 0#n := by
  rw [BitVec.and_assoc, BitVec.and_not_self]
  exact BitVec.and_zero

theorem or_one_bit (x : BitVec 8) : (x ||| 1).getLsbD 0 = true := by
  rw [BitVec.getLsbD_or]
  simp

theorem fibre_norm_wf (f : Fibre) :
    (f.norm.p.getLsbD 0 && (f.norm.fpc &&& ~~~ 0x001F0F1F#32) == 0) = true := by
  rw [Bool.and_eq_true]
  exact ⟨or_one_bit f.p, beq_iff_eq.mpr (and_mask_clear f.fpc 0x001F0F1F#32)⟩

theorem skein_norm_wf (x : Skein) :
    (x.norm.front.q.getLsbD 0 && (x.norm.ctl &&& ~~~ 0x000001FF3FFFFFFF#64) == 0) = true := by
  rw [Bool.and_eq_true]
  exact ⟨or_one_bit x.front.q, beq_iff_eq.mpr (and_mask_clear x.ctl 0x000001FF3FFFFFFF#64)⟩

/-- A fibre in the form is as its registers hold it. -/
theorem fibre_norm_id (f : Fibre)
    (h : (f.p.getLsbD 0 && (f.fpc &&& ~~~ 0x001F0F1F#32) == 0) = true) : f.norm = f := by
  simp only [Bool.and_eq_true, beq_iff_eq] at h
  have hp : f.p ||| 1 = f.p := by
    apply BitVec.eq_of_getLsbD_eq
    intro i hi
    rw [BitVec.getLsbD_or]
    have h1 : ∀ i, i < 8 → (1#8).getLsbD i = decide (i = 0) := by decide
    rw [show (1 : BitVec 8) = 1#8 from rfl, h1 i hi]
    by_cases hz : i = 0
    · subst hz; simp [h.1]
    · simp [hz]
  have hq : f.fpc &&& 0x001F0F1F = f.fpc := by
    have e : f.fpc = (f.fpc &&& 0x001F0F1F#32) ||| (f.fpc &&& ~~~ 0x001F0F1F#32) := by
      rw [← BitVec.and_or_distrib_left, BitVec.or_not_self, BitVec.and_allOnes]
    rw [h.2] at e
    simpa using e.symm
  show { f with p := f.p ||| 1, fpc := f.fpc &&& 0x001F0F1F } = f
  rw [hp, hq]

/-- A skein in the form is as its registers hold it. -/
theorem skein_norm_id (x : Skein)
    (h : (x.front.q.getLsbD 0 && (x.ctl &&& ~~~ 0x000001FF3FFFFFFF#64) == 0) = true) : x.norm = x := by
  simp only [Bool.and_eq_true, beq_iff_eq] at h
  have hp : x.front.q ||| 1 = x.front.q := by
    apply BitVec.eq_of_getLsbD_eq
    intro i hi
    rw [BitVec.getLsbD_or]
    have h1 : ∀ i, i < 8 → (1#8).getLsbD i = decide (i = 0) := by decide
    rw [show (1 : BitVec 8) = 1#8 from rfl, h1 i hi]
    by_cases hz : i = 0
    · subst hz; simp [h.1]
    · simp [hz]
  have hq : x.ctl &&& 0x000001FF3FFFFFFF = x.ctl := by
    have e : x.ctl = (x.ctl &&& 0x000001FF3FFFFFFF#64) ||| (x.ctl &&& ~~~ 0x000001FF3FFFFFFF#64) := by
      rw [← BitVec.and_or_distrib_left, BitVec.or_not_self, BitVec.and_allOnes]
    rw [h.2] at e
    simpa using e.symm
  show { x with front := { x.front with q := x.front.q ||| 1 }, ctl := x.ctl &&& 0x000001FF3FFFFFFF } = x
  rw [hp, hq]

theorem inv_iff (s : State) :
    Safety.Inv s = true ↔ Memory.wf s.wiped s.mem = true ∧
      (∀ e ∈ s.fibres, (e.2.p.getLsbD 0 && (e.2.fpc &&& ~~~ 0x001F0F1F#32) == 0) = true) ∧
      (∀ e ∈ s.skeins, (e.2.front.q.getLsbD 0 && (e.2.ctl &&& ~~~ 0x000001FF3FFFFFFF#64) == 0) = true) ∧
      tableWf s.fibres = true ∧ tableWf s.strands = true ∧ tableWf s.skeins = true ∧
      tableWf s.launches = true ∧ tableWf s.pools = true ∧ tableWf s.banks = true := by
  simp only [Safety.Inv, Safety.memoryWf, Safety.fibresWf, Safety.skeinsWf, Safety.tablesWf,
    Bool.and_eq_true, List.all_eq_true, and_assoc]

/-- A fibre that a state in the form holds is in the form. -/
theorem inv_fibre {s : State} (h : Safety.Inv s = true) {k : Nat} {f : Fibre}
    (hf : tget s.fibres k = some f) : f.norm = f := by
  have hm : ∀ (t : Table Fibre), tget t k = some f → (k, f) ∈ t := by
    intro t
    induction t with
    | nil => simp
    | cons e r ih =>
      obtain ⟨i, y⟩ := e
      simp only [tget_cons]
      split
      · rintro ⟨⟩; simp_all
      · intro g; exact List.mem_cons_of_mem _ (ih g)
  exact fibre_norm_id f (((inv_iff s).mp h).2.1 _ (hm _ hf))

/-- A skein that a state in the form holds is in the form. -/
theorem inv_skein {s : State} (h : Safety.Inv s = true) {k : Nat} {x : Skein}
    (hx : tget s.skeins k = some x) : x.norm = x := by
  have hm : ∀ (t : Table Skein), tget t k = some x → (k, x) ∈ t := by
    intro t
    induction t with
    | nil => simp
    | cons e r ih =>
      obtain ⟨i, y⟩ := e
      simp only [tget_cons]
      split
      · rintro ⟨⟩; simp_all
      · intro g; exact List.mem_cons_of_mem _ (ih g)
  exact skein_norm_id x (((inv_iff s).mp h).2.2.1 _ (hm _ hx))

/-! ### Effects -/

/-- The keys of a table do not change when its values do. -/
theorem tableWf_map {α : Type} (g : α → α) (t : Table α) :
    tableWf (t.map (fun e => (e.1, g e.2))) = tableWf t := by
  induction t with
  | nil => rfl
  | cons e r ih =>
    cases r with
    | nil => rfl
    | cons f r =>
      simp only [List.map_cons, tableWf] at ih ⊢
      rw [ih]

/-- Every effect keeps the form of the state. -/
theorem apply_inv (e : Effect) (s : State) (h : Safety.Inv s = true) :
    Safety.Inv (apply e s) = true := by
  rw [inv_iff] at *
  obtain ⟨hm, hf, hx, wf, ws, wx, wl, wp, wb⟩ := h
  cases e with
  | mem a b => exact ⟨Memory.wf_write _ _ _ _ hm, hf, hx, wf, ws, wx, wl, wp, wb⟩
  | fibre k f =>
    refine ⟨hm, fun e he => ?_, hx, tableWf_tput _ _ _ wf, ws, wx, wl, wp, wb⟩
    rcases mem_tput _ _ _ _ he with rfl | he
    · exact fibre_norm_wf f
    · exact hf e he
  | fibreEnd k => exact ⟨hm, fun e he => hf e (mem_tdel _ _ _ he), hx, tableWf_tdel _ _ wf, ws, wx, wl, wp, wb⟩
  | skein k x =>
    refine ⟨hm, hf, fun e he => ?_, wf, ws, tableWf_tput _ _ _ wx, wl, wp, wb⟩
    rcases mem_tput _ _ _ _ he with rfl | he
    · exact skein_norm_wf x
    · exact hx e he
  | skeinEnd k => exact ⟨hm, hf, fun e he => hx e (mem_tdel _ _ _ he), wf, ws, tableWf_tdel _ _ wx, wl, wp, wb⟩
  | tick n =>
    refine ⟨hm, hf, fun e he => ?_, wf, ws, (tableWf_map _ _).trans wx, wl, wp, wb⟩
    obtain ⟨y, hy, rfl⟩ := List.mem_map.mp he
    have := hx y hy
    show ((y.2.tick n).front.q.getLsbD 0 && ((y.2.tick n).ctl &&& _) == 0) = true
    unfold Skein.tick
    split <;> exact this
  | reset t =>
    refine ⟨Memory.wf_reset _ _ hm, fun e he => ?_, fun e he => ?_, rfl, rfl, rfl, rfl, rfl, rfl⟩
    · exact absurd he (by simp [apply, State.reset])
    · exact absurd he (by simp [apply, State.reset])
  | strand k x => exact ⟨hm, hf, hx, wf, tableWf_tput _ _ _ ws, wx, wl, wp, wb⟩
  | strandEnd k => exact ⟨hm, hf, hx, wf, tableWf_tdel _ _ ws, wx, wl, wp, wb⟩
  | poison k x => exact ⟨hm, hf, hx, wf, ws, wx, wl, wp, wb⟩
  | core k x => exact ⟨hm, hf, hx, wf, ws, wx, wl, wp, wb⟩
  | icache k x => exact ⟨hm, hf, hx, wf, ws, wx, wl, wp, wb⟩
  | map k x => exact ⟨hm, hf, hx, wf, ws, wx, wl, wp, wb⟩
  | mapEnd k => exact ⟨hm, hf, hx, wf, ws, wx, wl, wp, wb⟩
  | reg k x => exact ⟨hm, hf, hx, wf, ws, wx, wl, wp, wb⟩
  | regEnd k => exact ⟨hm, hf, hx, wf, ws, wx, wl, wp, wb⟩
  | pool k x => exact ⟨hm, hf, hx, wf, ws, wx, wl, tableWf_tput _ _ _ wp, wb⟩
  | poolEnd k => exact ⟨hm, hf, hx, wf, ws, wx, wl, tableWf_tdel _ _ wp, wb⟩
  | die k x => exact ⟨hm, hf, hx, wf, ws, wx, wl, wp, wb⟩
  | queue k x => exact ⟨hm, hf, hx, wf, ws, wx, wl, wp, wb⟩
  | launch k x => exact ⟨hm, hf, hx, wf, ws, wx, tableWf_tput _ _ _ wl, wp, wb⟩
  | launchEnd k => exact ⟨hm, hf, hx, wf, ws, wx, tableWf_tdel _ _ wl, wp, wb⟩
  | bank k x => exact ⟨hm, hf, hx, wf, ws, wx, wl, wp, tableWf_tput _ _ _ wb⟩
  | rest t => exact ⟨hm, hf, hx, wf, ws, wx, wl, wp, wb⟩

/-- A list of effects keeps the form. -/
theorem applyAll_inv (l : List Effect) (s : State) (h : Safety.Inv s = true) :
    Safety.Inv (applyAll l s) = true := by
  induction l generalizing s with
  | nil => exact h
  | cons e r ih => exact ih _ (apply_inv e s h)

/-- A meaning that commits its effects keeps the form. -/
theorem commit_inv {s t : State} {act : Act} (h : Safety.Inv s = true) (ht : commit s act = .next t) :
    Safety.Inv t = true := by
  cases ht
  exact applyAll_inv _ _ h

/-! ### The plan of a meaning -/

/-- The effects of a plan lead from the state it began with to the state it sees. -/
def Plan.Leads (s : State) (p : Plan) : Prop := applyAll p.log.reverse s = p.now

theorem applyAll_append (l m : List Effect) (s : State) :
    applyAll (l ++ m) s = applyAll m (applyAll l s) := by
  induction l generalizing s with
  | nil => rfl
  | cons e r ih => exact ih _

theorem leads_start (s : State) : Plan.Leads s { now := s, log := [] } := rfl

theorem leads_emit {s : State} {p : Plan} (h : Plan.Leads s p) (e : Effect) :
    Plan.Leads s (p.emit e) := by
  show applyAll (e :: p.log).reverse s = apply e p.now
  rw [List.reverse_cons, applyAll_append, h]
  rfl

/-- When the effects of a meaning lead to the state it sees, it commits that state. -/
theorem commit_leads {s : State} {act : Act} (h : Plan.Leads s (act { now := s, log := [] })) :
    commit s act = .next (act { now := s, log := [] }).now := by
  unfold commit
  rw [h]

/-- An action that keeps what its plan leads to. -/
def Keeps (act : Act) : Prop := ∀ s p, Plan.Leads s p → Plan.Leads s (act p)

theorem keeps_emit (e : Effect) : Keeps (fun p => p.emit e) := fun _ _ h => leads_emit h e

theorem keeps_comp {a b : Act} (ha : Keeps a) (hb : Keeps b) : Keeps (fun p => b (a p)) :=
  fun s p h => hb s _ (ha s p h)

theorem keeps_forEach {α : Type} (l : List α) (act : α → Act) (h : ∀ x, Keeps (act x)) :
    Keeps (forEach l act) := by
  intro s p hp
  unfold forEach
  induction l generalizing p with
  | nil => exact hp
  | cons x r ih => exact ih _ (h x s p hp)

theorem keeps_modFibre (k : Nat) (g : Fibre → Fibre) : Keeps (modFibre k g) := by
  intro s p h
  unfold modFibre
  split
  · exact leads_emit h _
  · exact h

theorem keeps_modStrand (k : Nat) (g : Strand → Strand) : Keeps (modStrand k g) := by
  intro s p h
  unfold modStrand
  split
  · exact leads_emit h _
  · exact h

theorem keeps_modSkein (k : Nat) (g : Skein → Skein) : Keeps (modSkein k g) := by
  intro s p h
  unfold modSkein
  split
  · exact leads_emit h _
  · exact h

theorem keeps_modFront (k : Nat) (g : Front → Front) : Keeps (modFront k g) := keeps_modSkein k _

theorem keeps_modRest (g : State → State) : Keeps (modRest g) := fun _ _ h => leads_emit h _

theorem keeps_modCore (k : Nat) (g : Core → Core) : Keeps (modCore k g) := fun _ _ h => leads_emit h _

theorem keeps_modDie (k : Nat) (g : Die → Die) : Keeps (modDie k g) := fun _ _ h => leads_emit h _

theorem keeps_actIf (c : Bool) {a : Act} (h : Keeps a) : Keeps (actIf c a) := by
  intro s p hp
  unfold actIf
  split
  · exact h s p hp
  · exact hp

end Sys2Proof.Laws
end

