-- ==== Sys2Proof/Laws/Lanes.lean ====
section
/-! SUPPORT. What the shared operations of fibre words do: retiring a word, and a word that computes in
each lane alone. -/

namespace Sys2Proof.Laws

open Sys2Proof Machine Safety

/-! ### States that differ in fibres, strands and skeins -/

theorem only_refl (s : State) : OnlyWorkers s s := rfl

theorem only_trans {s t u : State} (h : OnlyWorkers s t) (g : OnlyWorkers t u) : OnlyWorkers s u := by
  unfold OnlyWorkers at *
  rw [h] at g
  exact g

theorem only_fibre (s : State) (k : Nat) (f : Fibre) : OnlyWorkers s (apply (.fibre k f) s) := rfl
theorem only_strand (s : State) (k : Nat) (f : Strand) : OnlyWorkers s (apply (.strand k f) s) := rfl
theorem only_skein (s : State) (k : Nat) (f : Skein) : OnlyWorkers s (apply (.skein k f) s) := rfl

/-- An action that changes fibres, strands and skeins alone. -/
def Works (act : Act) : Prop := ∀ p, OnlyWorkers p.now (act p).now

theorem works_modFibre (k : Nat) (g : Fibre → Fibre) : Works (modFibre k g) := by
  intro p
  unfold modFibre
  split <;> rfl

theorem works_modStrand (k : Nat) (g : Strand → Strand) : Works (modStrand k g) := by
  intro p
  unfold modStrand
  split <;> rfl

theorem works_modSkein (k : Nat) (g : Skein → Skein) : Works (modSkein k g) := by
  intro p
  unfold modSkein
  split <;> rfl

@[simp] theorem forEach_nil {α : Type} (act : α → Act) (p : Plan) : forEach [] act p = p := rfl

@[simp] theorem forEach_cons {α : Type} (a : α) (l : List α) (act : α → Act) (p : Plan) :
    forEach (a :: l) act p = forEach l act (act a p) := rfl

theorem works_forEach {α : Type} (l : List α) (act : α → Act) (h : ∀ x, Works (act x)) :
    Works (forEach l act) := by
  induction l with
  | nil => exact fun p => only_refl _
  | cons a r ih => exact fun p => only_trans (h a p) (ih _)

/-! ### Loops over fibres and skeins -/

@[simp] theorem modFibre_fibres (k : Nat) (g : Fibre → Fibre) (p : Plan) (j : Nat) :
    tget (modFibre k g p).now.fibres j =
      (tget p.now.fibres j).map (fun f => if j = k then (g f).norm else f) := by
  unfold modFibre
  split
  · rename_i f hf
    show tget (tput _ k (g f).norm) j = _
    rw [tget_tput]
    by_cases h : k = j
    · subst h; simp [hf]
    · simp [h, Ne.symm h]
  · rename_i hf
    by_cases h : j = k
    · subst h; simp [hf]
    · simp [h]

@[simp] theorem modFibre_strands (k : Nat) (g : Fibre → Fibre) (p : Plan) :
    (modFibre k g p).now.strands = p.now.strands := by
  unfold modFibre; split <;> rfl

@[simp] theorem modFibre_skeins (k : Nat) (g : Fibre → Fibre) (p : Plan) :
    (modFibre k g p).now.skeins = p.now.skeins := by
  unfold modFibre; split <;> rfl

@[simp] theorem modSkein_skeins (k : Nat) (g : Skein → Skein) (p : Plan) (j : Nat) :
    tget (modSkein k g p).now.skeins j =
      (tget p.now.skeins j).map (fun f => if j = k then (g f).norm else f) := by
  unfold modSkein
  split
  · rename_i f hf
    show tget (tput _ k (g f).norm) j = _
    rw [tget_tput]
    by_cases h : k = j
    · subst h; simp [hf]
    · simp [h, Ne.symm h]
  · rename_i hf
    by_cases h : j = k
    · subst h; simp [hf]
    · simp [h]

@[simp] theorem modSkein_strands (k : Nat) (g : Skein → Skein) (p : Plan) :
    (modSkein k g p).now.strands = p.now.strands := by
  unfold modSkein; split <;> rfl

@[simp] theorem modSkein_fibres (k : Nat) (g : Skein → Skein) (p : Plan) :
    (modSkein k g p).now.fibres = p.now.fibres := by
  unfold modSkein; split <;> rfl

/-- Holding a fibre as its registers do, twice. -/
@[simp] theorem fibre_norm_norm (f : Fibre) : f.norm.norm = f.norm := by
  show ({ f.norm with p := f.norm.p ||| 1, fpc := f.norm.fpc &&& 0x001F0F1F } : Fibre) = f.norm
  have h1 : f.norm.p ||| 1 = f.norm.p := by
    show (f.p ||| 1) ||| 1 = f.p ||| 1
    rw [BitVec.or_assoc, BitVec.or_self]
  have h2 : f.norm.fpc &&& 0x001F0F1F = f.norm.fpc := by
    show (f.fpc &&& 0x001F0F1F) &&& 0x001F0F1F = f.fpc &&& 0x001F0F1F
    rw [BitVec.and_assoc, BitVec.and_self]
  rw [h1, h2]

theorem fibre_move_norm (f : Fibre) (np : Pos) :
    ({ ({ f with pos := np } : Fibre).norm with pos := np } : Fibre).norm =
      ({ f with pos := np } : Fibre).norm := fibre_norm_norm { f with pos := np }

/-- A loop that changes fibres by one function that may be done twice. -/
theorem forEach_modFibre (l : List Nat) (g : Fibre → Fibre) (hg : ∀ f, (g (g f).norm).norm = (g f).norm)
    (p : Plan) (j : Nat) :
    tget (forEach l (fun k => modFibre k g) p).now.fibres j =
      (tget p.now.fibres j).map (fun f => if j ∈ l then (g f).norm else f) := by
  induction l generalizing p with
  | nil => simp
  | cons a r ih =>
    rw [forEach_cons, ih, modFibre_fibres, Option.map_map]
    congr 1
    funext f
    by_cases h : j = a <;> by_cases hr : j ∈ r <;> simp [h, hr, hg]

theorem forEach_modFibre_strands {α : Type} (l : List α) (k : α → Nat) (g : α → Fibre → Fibre) (p : Plan) :
    (forEach l (fun a => modFibre (k a) (g a)) p).now.strands = p.now.strands := by
  induction l generalizing p with
  | nil => rfl
  | cons a r ih => rw [forEach_cons, ih, modFibre_strands]

theorem forEach_modFibre_skeins {α : Type} (l : List α) (k : α → Nat) (g : α → Fibre → Fibre) (p : Plan) :
    (forEach l (fun a => modFibre (k a) (g a)) p).now.skeins = p.now.skeins := by
  induction l generalizing p with
  | nil => rfl
  | cons a r ih => rw [forEach_cons, ih, modFibre_skeins]

/-- The watchdogs of some skeins return to 0. -/
theorem forEach_kickDog (l : List Nat) (p : Plan) (j : Nat) :
    tget (forEach l kickDog p).now.skeins j =
      (tget p.now.skeins j).map (fun y => if j ∈ l then ({ y with dog := 0 } : Skein).norm else y) := by
  induction l generalizing p with
  | nil => simp
  | cons a r ih =>
    rw [forEach_cons, ih]
    unfold kickDog
    rw [modSkein_skeins, Option.map_map]
    congr 1
    funext y
    by_cases h : j = a <;> by_cases hr : j ∈ r <;> simp [h, hr]
    · subst h
      simp [hr, Skein.norm, BitVec.or_assoc, BitVec.and_assoc]
    · subst h; simp [hr]

theorem forEach_kickDog_strands (l : List Nat) (p : Plan) :
    (forEach l kickDog p).now.strands = p.now.strands := by
  induction l generalizing p with
  | nil => rfl
  | cons a r ih => rw [forEach_cons, ih]; exact modSkein_strands _ _ _

theorem forEach_kickDog_fibres (l : List Nat) (p : Plan) :
    (forEach l kickDog p).now.fibres = p.now.fibres := by
  induction l generalizing p with
  | nil => rfl
  | cons a r ih => rw [forEach_cons, ih]; exact modSkein_fibres _ _ _

/-! ### Members of a strand -/

theorem mem_sadd (l : List Nat) (k j : Nat) : j ∈ sadd l k ↔ j = k ∨ j ∈ l := by
  induction l with
  | nil => simp [sadd]
  | cons i r ih =>
    unfold sadd
    split
    · simp
    · split <;> simp_all <;> grind

theorem mem_skeinsOf (l : List (Nat × Fibre)) (j : Nat) : j ∈ skeinsOf l ↔ ∃ e ∈ l, e.2.sk = j := by
  have h : ∀ (l : List (Nat × Fibre)) (m : List Nat),
      j ∈ l.foldl (fun m e => sadd m e.2.sk) m ↔ j ∈ m ∨ ∃ e ∈ l, e.2.sk = j := by
    intro l
    induction l with
    | nil => simp
    | cons a r ih =>
      intro m
      rw [List.foldl_cons, ih, mem_sadd]
      grind
  simpa [skeinsOf] using h l []

/-- A lane of a strand is a fibre of the strand that the state holds, with its skein. -/
theorem mem_lanes {s : State} {x : Strand} {l : Lane} (h : l ∈ s.lanes x) :
    l.k ∈ x.fibs ∧ tget s.fibres l.k = some l.f ∧ tget s.skeins l.f.sk = some l.x ∧
      l.act = laneAct s.prefixWord l.f := by
  simp only [State.lanes, State.strandFibres, List.mem_filterMap, Option.map_eq_some_iff] at h
  obtain ⟨e, ⟨k, hk, f, hf, rfl⟩, y, hy, rfl⟩ := h
  exact ⟨(mem_nub _ _).mp hk, hf, hy, rfl⟩

/-- The lanes of a strand are different fibres. -/
theorem lanes_nodup (s : State) (x : Strand) : ((s.lanes x).map (fun l => l.k)).Nodup := by
  have h : ∀ (ks : List Nat), ks.Nodup → (((ks.filterMap (fun k =>
      (tget s.fibres k).map (fun f => (k, f)))).filterMap (fun e => (tget s.skeins e.2.sk).map (fun y =>
        ({ k := e.1, f := e.2, x := y, act := laneAct s.prefixWord e.2 } : Lane)))).map
          (fun l => l.k)).Nodup ∧ ∀ j ∈ ((ks.filterMap (fun k =>
      (tget s.fibres k).map (fun f => (k, f)))).filterMap (fun e => (tget s.skeins e.2.sk).map (fun y =>
        ({ k := e.1, f := e.2, x := y, act := laneAct s.prefixWord e.2 } : Lane)))).map
          (fun l => l.k), j ∈ ks := by
    intro ks
    induction ks with
    | nil => intro _; simp
    | cons a r ih =>
      intro hn
      rw [List.nodup_cons] at hn
      obtain ⟨h1, h2⟩ := ih hn.2
      cases hf : tget s.fibres a with
      | none =>
        simp only [List.filterMap_cons, hf, Option.map_none]
        exact ⟨h1, fun j hj => List.mem_cons_of_mem _ (h2 j hj)⟩
      | some f =>
        simp only [List.filterMap_cons, hf, Option.map_some]
        cases hy : tget s.skeins f.sk with
        | none =>
          simp only [Option.map_none]
          exact ⟨h1, fun j hj => List.mem_cons_of_mem _ (h2 j hj)⟩
        | some y =>
          simp only [Option.map_some, List.map_cons, List.nodup_cons]
          refine ⟨⟨fun hm => hn.1 (h2 a hm), h1⟩, fun j hj => ?_⟩
          rcases List.mem_cons.mp hj with rfl | hj
          · exact List.mem_cons_self
          · exact List.mem_cons_of_mem _ (h2 j hj)
  exact (h (nub x.fibs) (nodup_nub _)).1

/-- A fibre of a strand with a skein is one of its lanes. -/
theorem lane_mem {s : State} {x : Strand} {k : Nat} {f : Fibre} {y : Skein} (hk : k ∈ x.fibs)
    (hf : tget s.fibres k = some f) (hy : tget s.skeins f.sk = some y) :
    (⟨k, f, y, laneAct s.prefixWord f⟩ : Lane) ∈ s.lanes x := by
  simp only [State.lanes, State.strandFibres, List.mem_filterMap, Option.map_eq_some_iff]
  exact ⟨(k, f), ⟨k, (mem_nub _ _).mpr hk, f, hf, rfl⟩, y, hy, rfl⟩

/-! ### Retiring a word -/

theorem retireStrand_now (n : Nat) (p : Plan) (x : Strand) (hx : tget p.now.strands n = some x) :
    retireStrand n p =
      (let np := nextPos x.pos x.clause (wordBytes p.now)
       let q := p.emit (.strand n { x with
        pos := np
        since := p.now.time
        missed := false
        waits := false
        yields := np.pc == np.hdr && x.asksYield
        clause := if np.pc == np.hdr then none else x.clause })
       let q := forEach x.fibs (fun k => modFibre k (fun f => { f with pos := np })) q
       forEach (skeinsOf (q.now.strandFibres x)) kickDog q) := by
  unfold retireStrand
  rw [hx]

theorem works_retireStrand (n : Nat) : Works (retireStrand n) := by
  intro p
  cases hx : tget p.now.strands n with
  | none => unfold retireStrand; rw [hx]; exact only_refl _
  | some x =>
    rw [retireStrand_now n p x hx]
    have h1 : Works (forEach x.fibs (fun k => modFibre k (fun f => { f with
        pos := nextPos x.pos x.clause (wordBytes p.now) }))) :=
      works_forEach _ _ (fun k => works_modFibre k _)
    have h2 : ∀ l, Works (forEach l kickDog) := fun l => works_forEach _ _ (fun k => works_modSkein k _)
    refine only_trans ?_ (h2 _ _)
    refine only_trans ?_ (h1 _)
    exact only_strand p.now n _

/-- What retiring a word does to fibres, strands and skeins (16 R395, 02 R44). -/
theorem retireStrand_spec (n : Nat) (p : Plan) (x : Strand) (hx : tget p.now.strands n = some x) :
    let np := nextPos x.pos x.clause (wordBytes p.now)
    (∀ j, tget (retireStrand n p).now.fibres j =
      (tget p.now.fibres j).map (fun f => if j ∈ x.fibs then ({ f with pos := np } : Fibre).norm else f)) ∧
    (∀ m, tget (retireStrand n p).now.strands m = if m = n then
        some { x with
          pos := np
          since := p.now.time
          missed := false
          waits := false
          yields := np.pc == np.hdr && x.asksYield
          clause := if np.pc == np.hdr then none else x.clause }
      else tget p.now.strands m) ∧
    (∀ j, tget (retireStrand n p).now.skeins j = (tget p.now.skeins j).map (fun y =>
      if (∃ k ∈ x.fibs, ∃ f, tget p.now.fibres k = some f ∧ f.sk = j) then
        ({ y with dog := 0 } : Skein).norm else y)) := by
  intro np
  rw [retireStrand_now n p x hx]
  refine ⟨fun j => ?_, fun m => ?_, fun j => ?_⟩
  · simp only [forEach_kickDog_fibres]
    rw [forEach_modFibre]
    · rfl
    · intro f; exact fibre_move_norm f np
  · simp only [forEach_kickDog_strands]
    rw [forEach_modFibre_strands x.fibs (fun k => k) (fun _ f => { f with pos := np })]
    show tget (tput p.now.strands n _) m = _
    rw [tget_tput]
    by_cases h : n = m
    · rw [if_pos h, if_pos h.symm]
    · rw [if_neg h, if_neg (Ne.symm h)]
  · rw [forEach_kickDog]
    rw [forEach_modFibre_skeins x.fibs (fun k => k) (fun _ f => { f with pos := np })]
    show (tget p.now.skeins j).map _ = _
    congr 1
    funext y
    congr 1
    rw [mem_skeinsOf]
    simp only [State.strandFibres, List.mem_filterMap, Option.map_eq_some_iff, eq_iff_iff]
    have hk : ∀ k f, tget (forEach x.fibs (fun k => modFibre k (fun f => { f with pos := np }))
        (p.emit (.strand n { x with
          pos := np, since := p.now.time, missed := false, waits := false
          yields := np.pc == np.hdr && x.asksYield
          clause := if np.pc == np.hdr then none else x.clause }))).now.fibres k = some f →
        ∃ g, tget p.now.fibres k = some g ∧ f.sk = g.sk := by
      intro k f h
      rw [forEach_modFibre _ _ (fun f => fibre_move_norm f np)] at h
      obtain ⟨g, hg, hf⟩ := Option.map_eq_some_iff.mp h
      refine ⟨g, hg, ?_⟩
      rw [← hf]
      split <;> rfl
    have hb : ∀ k g, tget p.now.fibres k = some g → ∃ f,
        tget (forEach x.fibs (fun k => modFibre k (fun f => { f with pos := np }))
        (p.emit (.strand n { x with
          pos := np, since := p.now.time, missed := false, waits := false
          yields := np.pc == np.hdr && x.asksYield
          clause := if np.pc == np.hdr then none else x.clause }))).now.fibres k = some f ∧
          f.sk = g.sk := by
      intro k g h
      rw [forEach_modFibre _ _ (fun f => fibre_move_norm f np)]
      show ∃ f, (tget p.now.fibres k).map _ = some f ∧ _
      rw [h]
      refine ⟨_, rfl, ?_⟩
      split <;> rfl
    constructor
    · rintro ⟨e, ⟨k, hkm, f, hf, rfl⟩, hs⟩
      obtain ⟨g, hg, he⟩ := hk k f hf
      exact ⟨k, (mem_nub _ _).mp hkm, g, hg, he ▸ hs⟩
    · rintro ⟨k, hkm, g, hg, hs⟩
      obtain ⟨f, hf, he⟩ := hb k g hg
      exact ⟨(k, f), ⟨k, (mem_nub _ _).mpr hkm, f, hf, rfl⟩, he.trans hs⟩

/-! ### A fibre word whose operands are legal and there -/

theorem check_fits {rg : Regs} {g : Nat} (h : Fits rg g) : rg.check g false = none := by
  have h1 : (rg.src ++ rg.dst).any (fun o => decide (g < o.r + o.n)) = false := by
    rw [List.any_eq_false]
    intro o ho
    have := (h o ho).1
    simp; omega
  have h2 : (rg.src ++ rg.dst).any (fun o => o.r % o.al != 0) = false := by
    rw [List.any_eq_false]
    intro o ho
    simp [(h o ho).2]
  unfold Regs.check
  simp only [h1, h2]
  rfl

theorem poisonOf_ready {rg : Regs} {ls : List Lane} (h : SourcesReady rg ls) : poisonOf ls rg = [] := by
  unfold poisonOf
  rw [List.filterMap_eq_nil_iff]
  intro l hl
  unfold Lane.meets
  split
  · rename_i ho
    rw [Option.map_eq_none_iff, List.find?_eq_none]
    intro y hy
    simp [h l hl ho y hy]
  · rfl

theorem waits_ready {rg : Regs} {ls : List Lane} (h : SourcesReady rg ls) :
    ls.any (fun l => l.waits rg) = false := by
  rw [List.any_eq_false]
  intro l hl
  unfold Lane.waits
  cases ho : l.on
  · simp
  · have : l.f.loads.any (fun y => y.blocks rg) = false := by
      rw [List.any_eq_false]
      intro y hy
      simp [h l hl ho y hy]
    simp [this]

/-- A fibre word goes on with its effect where its registers are legal, its sources are there and its
privilege holds. -/
theorem fibreWord_ready {n : Nat} {x : Strand} {rg : Regs} {denied : Skein → Bool}
    {body : Nat → List Lane → Act} {p : Plan} (h : Ready p.now n x rg)
    (hd : ∀ l ∈ p.now.lanes x, denied l.x = false) :
    fibreWord rg denied body p = body n (p.now.lanes x) p := by
  obtain ⟨⟨hw, hx, hne⟩, hfit, hsrc⟩ := h
  unfold fibreWord
  rw [hw]
  simp only [hx]
  cases hl : p.now.lanes x with
  | nil => exact absurd hl hne
  | cons l r =>
    have hm : l ∈ p.now.lanes x := by rw [hl]; exact List.mem_cons_self
    simp only [hd l hm, check_fits (hfit l hm)]
    rw [← hl, poisonOf_ready hsrc, waits_ready hsrc]
    rfl

/-! ### Words that compute in each lane alone -/

/-- The lanes' fibres after they have been written. -/
theorem forEach_emit_fibre {α : Type} (l : List α) (k : α → Nat) (g : α → Fibre) (p : Plan) (j : Nat) (f : Fibre)
    (h : ∀ a ∈ l, k a = j → (g a).norm = f) :
    tget (forEach l (fun a q => q.emit (.fibre (k a) (g a))) p).now.fibres j =
      if j ∈ l.map k then some f else tget p.now.fibres j := by
  induction l generalizing p with
  | nil => simp
  | cons a r ih =>
    rw [forEach_cons, ih _ (fun b hb => h b (List.mem_cons_of_mem _ hb))]
    show (if j ∈ r.map k then some f else tget (tput p.now.fibres (k a) (g a).norm) j) = _
    rw [tget_tput]
    by_cases hj : k a = j
    · rw [if_pos hj, h a List.mem_cons_self hj]
      simp [hj]
    · have hj' : ¬ j = k a := fun e => hj e.symm
      simp [hj, hj']

theorem works_emit_fibre {α : Type} (l : List α) (k : α → Nat) (g : α → Fibre) :
    Works (forEach l (fun a q => q.emit (.fibre (k a) (g a)))) :=
  works_forEach _ _ (fun a p => only_fibre p.now (k a) (g a))

theorem only_cur {s t : State} (h : OnlyWorkers s t) : t.cur = s.cur := by rw [h]; rfl
theorem only_clk {s t : State} (h : OnlyWorkers s t) : t.clk = s.clk := by rw [h]; rfl

theorem only_wordBytes {s t : State} (h : OnlyWorkers s t) : wordBytes t = wordBytes s := by
  unfold wordBytes
  rw [only_cur h]

theorem only_time {s t : State} (h : OnlyWorkers s t) : t.time = s.time := by
  unfold State.time
  rw [only_clk h]

theorem keeps_emit_fibre {α : Type} (l : List α) (k : α → Nat) (g : α → Fibre) :
    Keeps (forEach l (fun a q => q.emit (.fibre (k a) (g a)))) :=
  keeps_forEach _ _ (fun _ => keeps_emit _)

theorem keeps_retireStrand (n : Nat) : Keeps (retireStrand n) := by
  intro s p h
  cases hx : tget p.now.strands n with
  | none => unfold retireStrand; rw [hx]; exact h
  | some x =>
    rw [retireStrand_now n p x hx]
    refine keeps_forEach _ _ (fun k => keeps_modSkein k _) _ _ ?_
    refine keeps_forEach _ _ (fun k => keeps_modFibre k _) _ _ ?_
    exact leads_emit h _

theorem retire_strand {p : Plan} {n : Nat} (h : p.now.cur.who = some (.strand n)) :
    retire p = retireStrand n p := by
  unfold retire
  rw [h]

/-- A strand whose lanes have been written retires its word. -/
theorem retires_of_written {s : State} {n : Nat} {x : Strand} {q : Plan} {after : Lane → Fibre}
    (hi : Inv s = true) (h : Issues s n x) (hq : OnlyWorkers s q.now) (hl : Plan.Leads s q)
    (hst : q.now.strands = s.strands) (hsk : q.now.skeins = s.skeins)
    (hf : ∀ l ∈ s.lanes x, tget q.now.fibres l.k = some (after l) ∧ (after l).norm = after l ∧
      (after l).sk = l.f.sk)
    (ho : ∀ k, k ∉ x.fibs → tget q.now.fibres k = tget s.fibres k)
    (hm : ∀ k ∈ x.fibs, ∀ f, tget q.now.fibres k = some f → ∃ g, tget s.fibres k = some g ∧ g.sk = f.sk) :
    ∃ t, t = (retire q).now ∧ Plan.Leads s (retire q) ∧ Retires s t n x after := by
  have hw : q.now.cur.who = some (.strand n) := by rw [only_cur hq]; exact h.1
  have hx : tget q.now.strands n = some x := by rw [hst]; exact h.2.1
  refine ⟨_, rfl, ?_, ?_⟩
  · rw [retire_strand hw]
    exact keeps_retireStrand n s q hl
  · rw [retire_strand hw]
    obtain ⟨h1, h2, h3⟩ := retireStrand_spec n q x hx
    rw [only_wordBytes hq] at h1 h2
    rw [only_time hq] at h2
    refine ⟨only_trans hq (works_retireStrand n q), fun l hm => ?_, fun k hk => ?_, fun m => ?_, fun j => ?_⟩
    · rw [h1, (hf l hm).1]
      simp only [Option.map_some, (mem_lanes hm).1, if_true]
      congr 1
      have e : ∀ (f : Fibre) (np : Pos), f.norm = f → ({ f with pos := np } : Fibre).norm = { f with pos := np } := by
        intro f np hn
        have e1 : f.p ||| 1 = f.p := congrArg Fibre.p hn
        have e2 : f.fpc &&& 0x001F0F1F = f.fpc := congrArg Fibre.fpc hn
        show ({ f with pos := np, p := f.p ||| 1, fpc := f.fpc &&& 0x001F0F1F } : Fibre) = _
        rw [e1, e2]
      exact e _ _ (hf l hm).2.1
    · rw [h1, ho k hk]
      cases tget s.fibres k with
      | none => rfl
      | some f => simp [hk]
    · rw [h2, hst]
      rfl
    · rw [h3, hsk]
      cases hj : tget s.skeins j with
      | none => rfl
      | some y =>
        simp only [Option.map_some]
        congr 1
        have hiff : (∃ k ∈ x.fibs, ∃ f, tget q.now.fibres k = some f ∧ f.sk = j) ↔ inStrand s x j = true := by
          unfold inStrand
          rw [List.any_eq_true]
          constructor
          · rintro ⟨k, hk, f, hf', hfs⟩
            obtain ⟨g, hg, hgs⟩ := hm k hk f hf'
            have hgj : tget s.skeins g.sk = some y := by rw [hgs, hfs]; exact hj
            exact ⟨_, lane_mem hk hg hgj, by simp [hgs, hfs]⟩
          · rintro ⟨l, hl', hls⟩
            obtain ⟨ha, hb⟩ := hf l hl'
            exact ⟨l.k, (mem_lanes hl').1, after l, ha, by rw [hb.2]; exact beq_iff_eq.mp hls⟩
        by_cases hc : inStrand s x j = true
        · rw [if_pos (hiff.mpr hc), if_pos hc]
          have e : ∀ (y : Skein), y.norm = y → ({ y with dog := 0 } : Skein).norm = { y with dog := 0 } := by
            intro y hn
            have e1 : ({ y.front with q := y.front.q ||| 1 } : Front) = y.front := congrArg Skein.front hn
            have e2 : y.ctl &&& 0x000001FF3FFFFFFF = y.ctl := congrArg Skein.ctl hn
            show ({ y with dog := 0, front := { y.front with q := y.front.q ||| 1 }, ctl := y.ctl &&& 0x000001FF3FFFFFFF } : Skein) = _
            rw [e1, e2]
          exact e y (inv_skein hi hj)
        · rw [if_neg (fun e => hc (hiff.mp e)), if_neg hc]

/-- A word that computes in each lane alone (04 R119, 02 R53): it retires, each lane as its result. -/
theorem laneWord_retires {s : State} {n : Nat} {x : Strand} {rg : Regs} {g : State → Lane → LaneOut}
    (hi : Inv s = true) (h : Ready s n x rg)
    (hok : ∀ l ∈ s.lanes x, l.on = true → (g s l).trap = none)
    (hsk : ∀ l ∈ s.lanes x, (l.result rg (g s)).f.sk = l.f.sk)
    (hwf : ∀ l ∈ s.lanes x, (l.result rg (g s)).f.norm = (l.result rg (g s)).f) :
    ∃ t, commit s (laneWord rg g) = .next t ∧
      Retires s t n x (laneAfter rg (fun l => (g s l).f)) := by
  have hnone : worstTrap (((s.lanes x).map (fun l => (l, l.result rg (g s)))).filterMap
      (fun o => o.2.trap.map (fun t => { t with mask := o.1.bit }))) = none := by
    have : ((s.lanes x).map (fun l => (l, l.result rg (g s)))).filterMap
        (fun o => o.2.trap.map (fun t => { t with mask := o.1.bit })) = ([] : List Trap) := by
      rw [List.filterMap_eq_nil_iff]
      intro o hm
      obtain ⟨l, hl, rfl⟩ := List.mem_map.mp hm
      simp only [Option.map_eq_none_iff]
      unfold Lane.result
      split
      · rename_i ha
        exact hok l hl (by simp [Lane.on, ha])
      · rfl
      · rfl
    rw [this]
    rfl
  have hafter : ∀ l, laneAfter rg (fun l => (g s l).f) l = (l.result rg (g s)).f := by
    intro l
    unfold laneAfter Lane.result
    cases l.act <;> rfl
  let outs := (s.lanes x).map (fun l => (l, l.result rg (g s)))
  let q : Plan := forEach outs (fun o q => q.emit (.fibre o.1.k o.2.f)) { now := s, log := [] }
  have hq : OnlyWorkers s q.now := works_emit_fibre outs (fun o => o.1.k) (fun o => o.2.f) _
  have hlead : Plan.Leads s q := keeps_emit_fibre outs (fun o => o.1.k) (fun o => o.2.f) _ _ (leads_start s)
  have hsame : ∀ (l : List (Lane × LaneOut)) (p : Plan),
      (forEach l (fun o q => q.emit (.fibre o.1.k o.2.f)) p).now.strands = p.now.strands ∧
        (forEach l (fun o q => q.emit (.fibre o.1.k o.2.f)) p).now.skeins = p.now.skeins := by
    intro l
    induction l with
    | nil => exact fun p => ⟨rfl, rfl⟩
    | cons a r ih => exact fun p => ih _
  have hmem : ∀ j, j ∈ outs.map (fun o => o.1.k) ↔ ∃ l ∈ s.lanes x, l.k = j := by
    intro j
    simp [outs]
  have hone : ∀ l ∈ s.lanes x, ∀ m ∈ s.lanes x, m.k = l.k → m = l := by
    intro l hl m hm hk
    obtain ⟨_, a2, a3, a4⟩ := mem_lanes hl
    obtain ⟨_, b2, b3, b4⟩ := mem_lanes hm
    rw [hk, a2] at b2
    cases l; cases m
    simp_all
  have hget : ∀ l ∈ s.lanes x, tget q.now.fibres l.k = some (l.result rg (g s)).f := by
    intro l hl
    have := forEach_emit_fibre outs (fun o => o.1.k) (fun o => o.2.f) { now := s, log := [] } l.k
      (l.result rg (g s)).f (by
        intro o ho hk
        obtain ⟨m, hm, rfl⟩ := List.mem_map.mp ho
        rw [hone l hl m hm hk]
        exact hwf l hl)
    rw [if_pos ((hmem l.k).mpr ⟨l, hl, rfl⟩)] at this
    exact this
  have hother : ∀ k, (¬ ∃ l ∈ s.lanes x, l.k = k) → tget q.now.fibres k = tget s.fibres k := by
    intro k hk
    have := forEach_emit_fibre outs (fun o => o.1.k) (fun o => o.2.f) { now := s, log := [] } k
      { sk := 0, idx := 0, lane := 0, pos := { pc := 0, hdr := 0 }, ident := { die := 0, core := 0, serial := 0 } } (by
        intro o ho hk'
        obtain ⟨m, hm, rfl⟩ := List.mem_map.mp ho
        exact absurd ⟨m, hm, hk'⟩ hk)
    rw [if_neg (fun e => hk ((hmem k).mp e))] at this
    exact this
  obtain ⟨t, ht, hlt, hr⟩ := retires_of_written (q := q) (after := laneAfter rg (fun l => (g s l).f)) hi h.1 hq hlead
    (hsame outs _).1 (hsame outs _).2
    (fun l hl => by
      rw [hafter]
      exact ⟨hget l hl, hwf l hl, hsk l hl⟩)
    (fun k hk => hother k (by
      rintro ⟨l, hl, rfl⟩
      exact hk (mem_lanes hl).1))
    (fun k hk f hf => by
      by_cases hx : ∃ l ∈ s.lanes x, l.k = k
      · obtain ⟨l, hl, rfl⟩ := hx
        rw [hget l hl] at hf
        cases hf
        exact ⟨l.f, (mem_lanes hl).2.1, (hsk l hl).symm⟩
      · rw [hother k hx] at hf
        exact ⟨f, hf, rfl⟩)
  refine ⟨t, ?_, hr⟩
  have hact : laneWord rg g { now := s, log := [] } = retire q := by
    unfold laneWord
    rw [fibreWord_ready (p := { now := s, log := [] }) h (fun _ _ => rfl)]
    simp only [hnone]
    rfl
  rw [commit_leads (by rw [hact]; exact hlt), hact, ht]

end Sys2Proof.Laws
end

