-- ==== Sys2Proof/Tests/Slice0.lean ====
section
/-! SUPPORT. Tests of the model: words written out from the encodings of the spec, ill-formed instructions that
the check refuses, single steps with results worked by hand from the rules, and states that meet the hypotheses
of the statements. -/

namespace Sys2Proof.Tests

open Sys2Proof Machine Safety

-- The kernel evaluates these one after another: waiting threads would exhaust the memory.
set_option Elab.async false

/-! ### States -/

/-- One fibre, key 1, of skein 1 in strand 1 of core 0 issues a word. -/
def fib (w : Word) (g : Fibre → Fibre) (h : Skein → Skein) : State :=
  let s := State.reset.withSkein false w
  { s with
    fibres := s.fibres.map (fun e => (e.1, g e.2))
    skeins := s.skeins.map (fun e => (e.1, h e.2))
    turn := none
    cur := { who := some (.strand 1), word := w } }

/-- The front context of skein 1 of core 0 issues a word; fibre 1 waits in no strand. -/
def fro (w : Word) (h : Skein → Skein) : State :=
  let s := State.reset.withSkein true w
  { s with
    skeins := s.skeins.map (fun e => (e.1, h e.2))
    turn := none
    cur := { who := some (.front 1), word := w } }

/-- The strand of `fib`. -/
def str (s : State) : Strand := (tget s.strands 1).getD
  { core := 0, slot := 0, active := false, fibs := [], pos := posAt 0 }

/-- An identity. -/
def nobody : Ident := { die := 0, core := 0, serial := 0 }

/-- Skein 1. -/
def sk (s : State) : Skein := (tget s.skeins 1).getD
  { launch := 0, lr := fullRecord, idx := 0, core := 0, lane0 := 0, slot := 0, ctl := 0,
    front := { pos := posAt 0, ident := nobody } }

/-- The one lane of the strand. -/
def lane (s : State) : Lane :=
  let f : Fibre := { sk := 0, idx := 0, lane := 0, pos := posAt 0, run := .filed, ident := nobody }
  { k := 1, f := (tget s.fibres 1).getD f, x := sk s, act := .active }

/-- The fibre of `fib`. -/
def fb (s : State) : Fibre := (lane s).f

/-- A plain word. -/
def plain : State := fib 0 id id

/-- A launch record of one skein whose binding 0 names buffer 0. -/
def bound : LaunchRec := { fullRecord with binds := [0x80000000] }

/-- A buffer of a page from address 0 with every right, owned by context 0, tracked. -/
def entry : BitVec 512 := BitVec.ofNat 512 (2 ^ 15 * 2 ^ 64 + 0x1F * 2 ^ 128 + 2 ^ 158 + 2 ^ 185)

/-- Core 0 holds that buffer and a writable translation of its page to package memory. -/
def withPage (s : State) : State :=
  { s with cores := tput s.cores 0 { s.core 0 with
      bufs := [{ ctx := 0, index := 0, entry := entry }]
      xlats := [{ ctx := 0, page := 0, pte := 0x3031, frame := 0x120000, dirty := true }] } }

/-- A fibre that has a page. -/
def paged (g : Fibre → Fibre) : State := withPage (fib 0 g (fun x => { x with lr := bound }))

/-- A result is there, and a test holds of it. -/
def onOk {ε α : Type} (r : Except ε α) (p : α → Bool) : Bool :=
  match r with
  | .ok a => p a
  | .error _ => false

/-! ### Witnesses: words that compute in each lane alone -/

theorem witness_registers : Inv plain = true ∧
    Ready plain 1 (str plain) { src := [one 127#7, one 0#7], dst := [one 3#7] } ∧
    Ready plain 1 (str plain) { src := [two 126#7, two 0#7], dst := [two 4#7] } ∧
    Ready plain 1 (str plain) { src := [two 126#7, two 0#7], pdst := [7] } ∧
    Ready plain 1 (str plain) {} := by
  unfold Ready Issues Fits SourcesReady; decide +kernel
theorem witness_amounts : (31#6).toNat < 32 ∧ 32 ≤ (32#6).toNat ∧ Issues plain 1 (str plain) := by
  unfold Issues; decide +kernel
theorem witness_float : ∀ l ∈ plain.lanes (str plain),
    (fAdd .f32 (plain.mode l.f) (FV.of .f32 0x3F800000) (FV.of .f32 0)).cond.raised l.f.fpc = 0 ∧
    (fAdd .f64 (plain.mode l.f) (FV.of .f64 0) (FV.of .f64 0)).cond.raised l.f.fpc = 0 := by decide +kernel
theorem witness_convert : cvtPairLegal 0 1 = true ∧ cvtPairLegal 15 0 = false := by decide +kernel

/-- A word that writes sr.ctl, in supervisor code. -/
def toCtl : State := fib 0 (fun f => f.setPair 2 0x1101000000) id
theorem witness_special_reads : specialListed 0x08 = true ∧ specialWide 0x08 = true ∧
    specialListed 0x02 = true ∧ specialWide 0x02 = false ∧ specialListed 0x26 = false ∧ Issues plain 1 (str plain) := by unfold Issues; decide +kernel
theorem witness_wsr : Inv toCtl = true ∧ Ready toCtl 1 (str toCtl) { src := [two 2#7] } ∧
    (∀ l ∈ toCtl.lanes (str toCtl), l.x.lr.sup = true ∧ l.f.pair 2 = 0x1101000000 ∧
      specialRefused 0x12 (specialValue l.f 2 0x12) = false) := by
  unfold Ready Issues Fits SourcesReady; decide +kernel
theorem witness_lovt : Ready plain 1 (str plain) { src := [one 4#7] } ∧ (∀ l ∈ plain.lanes (str plain),
    l.x.lr.sup = true ∧ l.f.reg 4 = 0 ∧ l.x.converting = false) ∧ ovtLegal 0 = true := by
  unfold Ready Issues Fits SourcesReady; decide +kernel

/-! ### Witnesses: checks, waits and traps -/

/-- A fibre of 64 registers in user code. -/
def user : State := fib 0 (fun f => f.setPair 2 2) (fun x =>
  { x with
    ctl := 0x11000000000
    lr := { x.lr with
      regs := 64
      sup := false } })
theorem witness_register_checks : Issues user 1 (str user) ∧ (∀ l ∈ user.lanes (str user), l.x.lr.regs = 64) ∧
    64 ≤ (64#7).toNat ∧ 64 < (63#7).toNat + 2 ∧ (61#7).toNat + 2 ≤ 64 ∧ (61#7).toNat % 2 = 1 := by
  unfold Issues; decide +kernel
theorem witness_privileged : ∀ l ∈ user.lanes (str user), l.x.lr.sup = false ∧ (62#7).toNat + 2 ≤ l.x.lr.regs := by
  decide +kernel

/-- A fibre whose pair 2 holds an address behind the last one. -/
def beyond : State := fib 0 (fun f => f.setPair 2 0x8000000000000) id
theorem witness_bad_targets : Ready user 1 (str user) { src := [two 2#7] } ∧
    (∀ l ∈ user.lanes (str user), (l.f.pair 2).toNat = 2) ∧ Ready beyond 1 (str beyond) { src := [two 2#7] } ∧
    ∀ l ∈ beyond.lanes (str beyond), (l.f.pair 2).toNat = 2 ^ 51 := by
  unfold Ready Issues Fits SourcesReady; decide +kernel

/-- A fibre that traps invalid operations and adds infinities of both signs. -/
def invalid : State := fib 0 (fun f => { (f.set 2 0x7F800000).set 3 0xFF800000 with fpc := 0x0F00 }) id
theorem witness_nonfinite : Inv invalid = true ∧
    Ready invalid 1 (str invalid) { src := [one 2#7, one 3#7], dst := [one 4#7] } ∧
    ∀ l ∈ invalid.lanes (str invalid), l.on = true ∧
      ((fAdd .f32 (invalid.mode l.f) (inVal .f32 (invalid.mode l.f) (l.f.reg 2).toNat)
        (inVal .f32 (invalid.mode l.f) (l.f.reg 3).toNat)).cond.raised l.f.fpc != 0) = true := by
  unfold Ready Issues Fits SourcesReady; decide +kernel

/-- A load of one register, of the constant store. -/
def pendingLoad (src : LoadSrc) : Load :=
  { id := 5, img := .b32, dst := 2, n := 1, src := src, pc := 0, word := 0 }

/-- A fibre with that load outstanding. -/
def loading : State := fib 0 (fun f => { f with loads := [pendingLoad (.const 0)] }) (fun x =>
  { x with lr := { x.lr with clen := 16 } })
theorem witness_waiting_word : Issues loading 1 (str loading) ∧
    (∀ l ∈ loading.lanes (str loading), Fits { src := [one 2#7, one 3#7], dst := [one 4#7] } l.x.lr.regs ∧
      l.on = true ∧ (∃ y ∈ l.f.loads, y.covers 2 = true) ∧ ∀ y ∈ l.f.loads, y.poisoned = false) := by
  unfold Issues Fits; decide +kernel
theorem witness_wait : Inv loading = true ∧ ∀ y ∈ loading.lanes (str loading), y.f.ld ≤ (1#4).toNat ∧
    y.f.st ≤ (0#4).toNat ∧ y.x.cp ≤ (0#3).toNat ∧ y.x.tl ≤ (0#3).toNat := by decide +kernel

/-- A front context at work. -/
def front : State := fro 0 id
theorem witness_front : Inv front = true ∧ FrontReady front 1 (sk front) ∧ (sk front).cp ≤ (0#3).toNat ∧
    (sk front).tl ≤ (0#3).toNat := by unfold FrontReady; decide +kernel
theorem witness_ipf : Inv (paged id) = true ∧ Issues (paged id) 1 (str (paged id)) ∧
    (paged id).lanes (str (paged id)) = [lane (paged id)] ∧
    ((paged id).cached 0 0 0).isSome = true ∧
    ((paged id).buf 0 0 0).any (fun e => e.owner == 0 && e.ex && e.base == 0 && e.len == 2 ^ 15) = true ∧
    onOk ((paged id).xlateNow 0 0 0x40 false (some 0)) (fun y => y.pa 0x40 == 0x120040) = true ∧
    (paged id).cachedCode 0 (codeLine none 0x120040) = none := by unfold Issues; decide +kernel

/-- A fibre with a handler for the traps of every group. -/
def handled : State := fib 0 id (fun x =>
  { x with
    ctl := 0x110103F0000
    lr := { x.lr with tentry := 0x100 } })
theorem witness_handler : Inv handled = true ∧ Issues handled 1 (str handled) ∧
    BinsHaveRoom handled (str handled) ∧ ∀ l ∈ handled.lanes (str handled),
      goesToHandler { cause := .breakpoint, detail := 1, mask := 1 } l = true ∧
      goesToHandler { cause := .userTrap, detail := 1, mask := 1 } l = true := by
  unfold Issues BinsHaveRoom; decide +kernel
theorem witness_stop : (∀ l ∈ plain.lanes (str plain),
      goesToHandler { cause := .breakpoint, detail := 1, mask := 1 } l = false) ∧
    Cause.breakpoint.viaFaultQueue = false ∧ BinsHaveRoom plain (str plain) ∧
    front.cur.who = some (.front 1) ∧ tget front.skeins 1 = some (sk front) := by
  unfold BinsHaveRoom; decide +kernel

/-- A fibre in its handler. -/
def inHandler : State := fib 0 (fun f => { f with h := true }) id
theorem witness_tret : Inv inHandler = true ∧ Issues inHandler 1 (str inHandler) ∧
    BinsHaveRoom inHandler (str inHandler) ∧ (∀ l ∈ inHandler.lanes (str inHandler),
      l.f.h = true ∧ l.f.tr.pc.toNat % 4 = 0) ∧ ∀ l ∈ plain.lanes (str plain), l.f.h = false := by
  unfold Issues BinsHaveRoom; decide +kernel

/-! ### Witnesses: control transfers -/

/-- Two fibres of a skein of four lanes in one strand; `g` and `h` change the first and the second. -/
def pair (g h : Fibre → Fibre) (y : Skein → Skein) : State :=
  let s := fib 0 id (fun x => y { x with lr := { x.lr with
    span := 4
    fibres := 4 } })
  { s with
    fibres := [(1, g (fb s)), (2, h { fb s with
      idx := 1
      lane := 1 })]
    strands := [(1, { str s with fibs := [1, 2] })] }

/-- Two fibres whose p1 differ. -/
def split : State := pair (fun f => f.setPred 1 true) id id
theorem witness_agreeing : Inv split = true ∧ Issues split 1 (str split) ∧
    (∀ l ∈ split.lanes (str split), taken 0 0 l = true) ∧ (∀ l ∈ split.lanes (str split), taken 0 1 l = false) ∧
    (split.lanes (str split)).length = 2 := by unfold Issues; decide +kernel
theorem witness_indirect : Ready split 1 (str split) { src := [two 2#7], dst := [two 4#7] } ∧
    ∀ l ∈ split.lanes (str split), l.f.pair 2 = 0 := by unfold Ready Issues Fits SourcesReady; decide +kernel
theorem witness_divergent : BinsHaveRoom split (str split) ∧ (∃ l ∈ split.lanes (str split), taken 1 0 l = true) ∧
    (∃ l ∈ split.lanes (str split), taken 1 0 l = false ∧ bitOf l.x.ctl.toNat 22 = false) ∧
    targetOf (str split) (100#22) ≠ fallOf split (str split) := by unfold BinsHaveRoom; decide +kernel

/-- The same with DEMOTE. -/
def demoting : State := pair (fun f => f.setPred 1 true) id (fun x => { x with ctl := 0x11010400000 })
theorem witness_demote : Inv demoting = true ∧ (∀ l ∈ demoting.lanes (str demoting), bitOf l.x.ctl.toNat 22 = true) ∧
    targetOf (str demoting) (100#14) ≠ fallOf demoting (str demoting) := by decide +kernel

/-- A skein whose decision queue holds an entry of tag 3. -/
def deciding : State := fib 0 id (fun x => { x with dq := [{ tag := 3, taken := true, value := 9 }] })
theorem witness_decision : Inv deciding = true ∧ Ready deciding 1 (str deciding) { dst := [one 4#7] } ∧
    (∀ l ∈ deciding.lanes (str deciding), l.act = .active ∧
      l.x.decision l.f = some { tag := 3, taken := true, value := 9 }) ∧
    (deciding.lanes (str deciding)).filter (fun l => l.on && (3 : BitVec 7) != 4) = [lane deciding] := by
  unfold Ready Issues Fits SourcesReady; decide +kernel

/-! ### Witnesses: halt, exit and the front context -/

theorem witness_halt : (∀ l ∈ plain.lanes (str plain), l.x.lr.sup = true) ∧ (sk front).lr.sup = true := by
  decide +kernel

/-- A fibre of a skein in relay mode with one entry of the table. -/
def relaying : State := fib 0 id (fun x => { x with lr := { x.lr with
  relayMode := true
  relay := [{ entry := 0x80, keep := 3 }] } })
theorem witness_exit : Inv relaying = true ∧ Issues relaying 1 (str relaying) ∧
    BinsHaveRoom relaying (str relaying) ∧ (∀ l ∈ relaying.lanes (str relaying), l.f.st = 0 ∧
      draftLeaveFails l.x l.k = false ∧ l.x.lr.relayMode = true ∧ l.x.lr.cvalid = false ∧
      l.x.lr.relay[0]? = some { entry := 0x80, keep := 3 } ∧ l.x.lr.relay.length ≤ 1) ∧
    ∀ l ∈ plain.lanes (str plain), l.x.lr.relayMode = false := by unfold Issues BinsHaveRoom; decide +kernel

/-- A fibre whose launch counts at offset 0 of its buffer. -/
def counting : State := withPage (fib 0 id (fun x => { x with lr := { bound with cvalid := true } }))
theorem witness_counted_exit : Inv counting = true ∧ counting.lanes (str counting) = [lane counting] ∧
    (lane counting).f.st = 0 ∧ (lane counting).x.lr.counts = true ∧
    onOk (counting.checkAccess (counterAsk 1 (lane counting))) (counterReady counting (lane counting)) = true := by
  decide +kernel
theorem witness_far_counter :
    let s := { counting with cores := tput counting.cores 0 { counting.core 0 with
      bufs := [{ ctx := 0, index := 0, entry := BitVec.ofNat 512 (2 ^ 15 * 2 ^ 64 + 0x1F * 2 ^ 128 + 3 * 2 ^ 152 +
        5 * 2 ^ 160 + 2 ^ 185) }] } }
    s.lanes (str s) = [lane s] ∧ onOk (s.checkAccess (counterAsk 1 (lane s))) (fun a => a.remote.isSome &&
      counterReady s (lane s) a) = true := by decide +kernel
theorem witness_front_branch : (sk front).front.pred 0 = true ∧ ((sk front).front.reg 63).toNat % 4 = 0 ∧
    ((sk front).front.reg 63).toNat < 2 ^ 51 := by decide +kernel

/-- A front context whose s63 is misaligned, or lies behind the last address, in user code. -/
def badLink (v : DWord) : State := fro 0 (fun x => { x with
  front := x.front.set 63 v
  ctl := 0x11000000000
  lr := { x.lr with sup := false } })
theorem witness_bad_links : Inv (badLink 2) = true ∧ FrontReady (badLink 2) 1 (sk (badLink 2)) ∧
    ((sk (badLink 2)).front.reg 63).toNat % 4 ≠ 0 ∧ FrontReady (badLink 0x8000000000000) 1
      (sk (badLink 0x8000000000000)) ∧ 2 ^ 51 ≤ ((sk (badLink 0x8000000000000)).front.reg 63).toNat ∧
    (sk (badLink 2)).lr.sup = false := by unfold FrontReady; decide +kernel
theorem witness_front_special : specialFrontReadable 0x10 = true ∧ specialFrontReadable 0x00 = false ∧
    specialRefused 0x12 (0x1101000000 : DWord) = false ∧ ovtLegal 0 = true ∧ (sk front).converting = false ∧
    (sk front).dq.length < 64 ∧ (sk front).front.stores = [] := by decide +kernel

/-! ### Witnesses: memory words -/

/-- The access that a word of `n` bytes makes through binding 0 passes its checks. -/
def passesAt (s : State) (n : Nat) (rd wr at_ : Bool) : Bool :=
  onOk (s.checkAccess (laneAsk 1 (lane s) 2 0 s.prefixOffset n rd wr at_ 0 7)) (fun a => a.pa == 0x120010 &&
    a.remote.isNone) && !s.rlog.en

/-- A fibre whose v2 holds the offset 16. -/
def at16 : State := paged (fun f => f.set 2 16)
theorem witness_accesses : Inv at16 = true ∧ Ready at16 1 (str at16) (loadRegs .b128 4 2) ∧
    Ready at16 1 (str at16) (storeRegs 16 4 2) ∧ (∀ l ∈ at16.lanes (str at16), l.f.awaited = none ∧
      l.f.ld < 15 ∧ l.f.st < 15) ∧ passesAt at16 16 true false false = true ∧
    passesAt at16 16 false true false = true ∧ passesAt at16 8 true true true = true := by
  unfold Ready Issues Fits SourcesReady; decide +kernel

/-- An entry that the core holds is at hand. -/
theorem entryAtHand_of {s : State} {core ctx i : Nat} (h : (s.core core).bufs.any (fun c =>
    decide (c.ctx = ctx ∧ c.index = i)) = true) : EntryAtHand s core ctx i :=
  Or.inl (by simpa using h)

/-- With no registration no read of a range recalls a stash line. -/
theorem rangeAtHand_of {s : State} (h : s.regs = []) (core ctx va n : Nat) : RangeAtHand s core ctx va n := by
  intro _ _ _ _ _ q _
  simp [State.reach, h, tget]
theorem witness_entry : (lane at16).x.lr.binding 0 = some 0 ∧ EntryAtHand at16 0 0 0 ∧
    at16.entryHeld 0 0 0 = false := ⟨by decide +kernel, entryAtHand_of (by decide +kernel), by decide +kernel⟩
theorem witness_local_accesses : offsetFits at16 (lane at16) 2 (0#9) 16 524288 16 ∧
    stashOpen at16 (lane at16) 16 16 false ∧ stashOpen at16 (lane at16) 524272 16 true := by
  unfold offsetFits stashOpen; decide +kernel

/-- The access of 4 bytes at 0x120010. -/
def word16 : Access :=
  { ctx := 0, va := 16, pa := 0x120010, n := 4, tracked := true, policy := 1, cls := .f, remote := none,
    scope := 1, ascope := 0, watch := false, rdup := false }

/-- A fibre with one load of a source. -/
def oneLoad (src : LoadSrc) : State := paged (fun f => { f with loads := [pendingLoad src] })
theorem witness_one_load : Inv (oneLoad (.mem word16 false)) = true ∧
    OneLoad (oneLoad (.mem word16 false)) 1 (fb (oneLoad (.mem word16 false))) (sk (oneLoad (.mem word16 false)))
      (pendingLoad (.mem word16 false)) ∧ InMemory (oneLoad (.mem word16 false)) word16 ∧
    (oneLoad (.mem word16 false)).readHeld 0 word16 = false := by
  unfold OneLoad InMemory; decide +kernel

/-- A fibre whose load reads the pool of its group. -/
def poolLoad : State :=
  { oneLoad (.pool 8) with pools := [(4, { clus := 0, launch := 1, cgrp := 0, size := 256, serial := 0 })] }
theorem witness_pool_load : Inv poolLoad = true ∧ OneLoad poolLoad 1 (fb poolLoad) (sk poolLoad) (pendingLoad (.pool 8)) ∧
    (poolLoad.poolOf 1).map (fun e => (e.2.poisoned, decide (tget poolLoad.pools e.1 = some e.2))) = some ([], true) := by
  unfold OneLoad; decide +kernel
theorem witness_value_loads : OneLoad (oneLoad (.value 7)) 1 (fb (oneLoad (.value 7))) (sk (oneLoad (.value 7)))
      (pendingLoad (.value 7)) ∧ OneLoad (oneLoad (.stash 4)) 1 (fb (oneLoad (.stash 4))) (sk (oneLoad (.stash 4)))
      (pendingLoad (.stash 4)) ∧ (oneLoad (.stash 4)).stashPoisoned 1 4 4 = false ∧
    (oneLoad (.stash 4)).fillNeeds 1 4 4 false = [] := by unfold OneLoad; decide +kernel

/-- A store of four bytes. -/
def fourBytes (kind : StoreKind) : Store := { id := 3, kind := kind, data := [1, 2, 3, 4], group := 9 }

/-- A fibre of core `c` with one store in its queue. -/
def storing (kind : StoreKind) (c : Nat) : State :=
  let s := withPage (fib 0 (fun f => { f with stores := [fourBytes kind] }) (fun x => { x with core := c }))
  { s with pools := [(4, { clus := 0, launch := 1, cgrp := 0, size := 256, serial := 0 })] }
theorem witness_store_turn : Inv (storing (.mem word16 none) 0) = true ∧
    StoreTurn (storing (.mem word16 none) 0) 1 (fb (storing (.mem word16 none) 0)) 0 (fourBytes (.mem word16 none)) [] ∧
    InMemory (storing (.mem word16 none) 0) word16 ∧ (storing (.mem word16 none) 0).server word16 = 0 := by
  unfold StoreTurn InMemory; decide +kernel
theorem witness_store_of_another_die : StoreTurn (storing (.mem word16 none) 64) 1
      (fb (storing (.mem word16 none) 64)) 64 (fourBytes (.mem word16 none)) [] ∧
    (storing (.mem word16 none) 64).server word16 ≠ 64 / 64 ∧ word16.tracked = true ∧ word16.remote = none ∧
    (storing (.mem word16 none) 64).homeGone word16.pa = false ∧ isPackage word16.pa = true := by
  unfold StoreTurn; decide +kernel
theorem witness_local_stores : StoreTurn (storing (.pool 0) 0) 1 (fb (storing (.pool 0) 0)) 0 (fourBytes (.pool 0)) [] ∧
    ((storing (.pool 0) 0).poolOf 1).isSome = true ∧
    StoreTurn (storing (.stash 0) 0) 1 (fb (storing (.stash 0) 0)) 0 (fourBytes (.stash 0)) [] ∧
    (sk (storing (.stash 0) 0)).slots = [] := by unfold StoreTurn; decide +kernel
theorem witness_atomic : StoreTurn (storing (.atom word16 0 1 0 none) 0) 1 (fb (storing (.atom word16 0 1 0 none) 0)) 0
      (fourBytes (.atom word16 0 1 0 none)) [] ∧ InMemory (storing (.atom word16 0 1 0 none) 0) word16 := by
  unfold StoreTurn InMemory; decide +kernel

/-- The same access through an untracked page. -/
def untracked16 : Access := { word16 with
  tracked := false }

/-- Two fibres of one strand with an atomic of one word each. -/
def grouped : State :=
  let g := fun (f : Fibre) => { f with stores := [fourBytes (.atom untracked16 0 1 0 none)] }
  pair g g id
theorem witness_group : Inv grouped = true ∧ (∃ f, tget grouped.fibres 1 = some f ∧
    StoreTurn grouped 1 f 0 (fourBytes (.atom untracked16 0 1 0 none)) []) ∧
    (grouped.groupMembers 9).map (fun e => e.1) = [1, 2] ∧ untracked16.tracked = false ∧
    (tget grouped.fibres 2).any (fun f => f.stores == [fourBytes (.atom untracked16 0 1 0 none)] && f.loads == []) = true ∧
    grouped.coreOf (.fibre 2) = some 0 ∧ (storing (.atom word16 0 1 0 none) 0).groupMembers 9 = [(1,
      fb (storing (.atom word16 0 1 0 none) 0))] ∧ InMemory grouped untracked16 := by
  unfold StoreTurn InMemory
  exact ⟨by decide +kernel, ⟨fb grouped, by decide +kernel⟩, by decide +kernel⟩

/-- A fibre of a skein without the right that a word needs, and one whose buffer another context owns. -/
def withEntry (e : Nat) : State :=
  let s := at16
  { s with cores := tput s.cores 0 { s.core 0 with bufs := [{ ctx := 0, index := 0, entry := BitVec.ofNat 512 e }] } }
theorem witness_bad_access : (lane plain).x.lr.binding 0 = none ∧
    (withEntry 0).buf 0 0 0 = none ∧
    ((withEntry (2 ^ 185 + 2 ^ 136)).buf 0 0 0).any (fun y => y.owner == 1) = true ∧
    ((withEntry (2 ^ 185)).buf 0 0 0).any (fun y => y.owner == 0 && !y.rd && !y.wr) = true ∧
    ((withEntry (2 ^ 185 + 2 ^ 128 + 16 * 2 ^ 64)).buf 0 0 0).any (fun y => y.owner == 0 && y.rd &&
      y.len == 16) = true ∧ ((lane at16).f.reg 2).toNat = 16 ∧
    (∀ e ∈ [0, 2 ^ 185 + 2 ^ 136, 2 ^ 185, 2 ^ 185 + 2 ^ 128 + 16 * 2 ^ 64],
      (lane (withEntry e)).x.lr.binding 0 = some 0 ∧ (withEntry e).entryHeld 0 0 0 = false) := by decide +kernel
theorem witness_quiet : Quiet at16 ∧ Quiet front := by
  refine ⟨⟨by decide +kernel, fun d => ?_⟩, ⟨by decide +kernel, fun d => ?_⟩⟩ <;>
    exact congrArg (fun x : Die => x.walks) (by rfl : _ = ({} : Die))
theorem witness_fence : (plain.lanes (str plain)).head? = some (lane plain) ∧ (lane plain).f.loads = [] ∧
    (lane plain).f.stores = [] ∧ (lane plain).f.twrs = 0 ∧ plain.flushed 0 5 = true ∧ (lane plain).f.steers = [] ∧
    front.flushed 0 5 = true ∧ (sk front).cpq = [] ∧ (sk front).tlq = [] := by decide +kernel

/-- A steering word under way. -/
def steer : Steer := { id := 2, op := 0, ctx := 0, base := 0, len := 128, ilv := 0, lcls := 0, trk := true }
/-- A fibre with one. -/
def steering (u : Steer) : State := paged (fun f => { f with steers := [u] })
/-- The page of a steering word translates. -/
def steersAt (u : Steer) : Bool :=
  onOk ((steering u).xlateNow 0 0 u.base false (some u.ilv)) (fun y => isPackage (y.pa u.base) &&
    (u.op == 3 || decide (u.item < ((steering u).rowsIn (y.pa u.base / 32768 * 32768) 32768).length)) &&
    !(steering u).readHeld 0 { unitAccess (lineOf (y.pa u.base) * 128) 128 with tracked := true } &&
    (steering u).reach (lineOf (y.pa u.base) * 128) 128 == .memory)
theorem witness_steering_works : ∀ u ∈ [steer, { steer with op := 3 }], Inv (steering u) = true ∧
    (fb (steering u)).steers = [u] ∧ (piecesOf u.base u.len)[u.page]? = some (0, 128) ∧
    (steering u).xlateHeld 0 0 0 false = false ∧ steersAt u = true ∧
    ((steering u).cached 0 0 0).isSome = true := by decide +kernel
theorem witness_steering_ends : (piecesOf steer.base steer.len).length ≤ ({ steer with page := 1 } : Steer).page ∧
    onOk ((steering { steer with base := 2 ^ 20 }).xlateNow 0 0 (2 ^ 20) false (some 0)) (fun _ => true) = false ∧
    (steering { steer with base := 2 ^ 20 }).xlateHeld 0 0 (2 ^ 20) false = false := by decide +kernel
theorem witness_steering : Ready at16 1 (str at16) { src := [one 2#7, one 3#7] } ∧
    (at16.buf 0 0 0).any (fun y => y.owner == 0 && y.rd && y.len == 2 ^ 15) = true := by
  unfold Ready Issues Fits SourcesReady; decide +kernel
theorem witness_cross : Ready split 1 (str split) { src := [one 2#7], dst := [one 3#7] } ∧
    AllMeet split (str split) 0 ∧ (∀ l ∈ split.lanes (str split), (meeting split l 0).length = 2 ∧ l.on = true) := by
  unfold Ready Issues Fits SourcesReady AllMeet; decide +kernel

/-- A front context that has a page. -/
def frontPaged (h : Skein → Skein) : State := withPage (fro 0 (fun x => h { x with lr := bound }))
theorem witness_front_access : Inv (frontPaged id) = true ∧ FrontReady (frontPaged id) 1 (sk (frontPaged id)) ∧
    onOk ((frontPaged id).checkAccess (frontAsk 1 (sk (frontPaged id)) 0 0 63 8 true false))
      (fun u => u.remote.isNone) = true ∧ (frontPaged id).rlog.en = false := by
  unfold FrontReady; decide +kernel

/-! ### Witnesses: sliver records, fills and walks -/

/-- A fibre whose skein holds 64 zero elements at 0 of its stash, for a record at 1024. -/
def slivering : State := fib 0 (fun f => ((f.set 2 1024).set 3 4).set 5 64) (fun x =>
  { x with stash := (List.range 128).map (fun i => (i, 0)) })
theorem witness_sliver : Inv slivering = true ∧ slivering.lanes (str slivering) = [lane slivering] ∧
    Ready slivering 1 (str slivering) { src := [two 2#7, two 4#7] } ∧ (lane slivering).f.loads = [] ∧
    Ready slivering 1 (str slivering) { src := [one 2#7], dst := [four 4#7] } ∧
    (lane slivering).f.stores = [] ∧ (lane slivering).f.st < 15 ∧ (lane slivering).x.slots = [] ∧
    ((lane slivering).f.reg 2).toNat % 128 = 0 ∧
    ((lane slivering).f.reg 2).toNat + 16 ≤ (lane slivering).x.lr.stash ∧
    ((lane slivering).f.reg 4).toNat % 16 = 0 ∧ ((lane slivering).f.reg 5).toNat = 64 ∧
    1024 + 128 * ((lane slivering).f.reg 3).toNat ≤ (lane slivering).x.lr.stash ∧ slivValues 64 = 48 := by
  unfold Ready Issues Fits SourcesReady; decide +kernel

/-- A number of bytes in memory, as a table of bytes. -/
def putNum (l : List (Nat × Byte)) (a n v : Nat) : List (Nat × Byte) :=
  (List.range n).foldl (fun l i => tputD l (a + i) 0 (BitVec.ofNat 8 (v / 256 ^ i))) l

/-- The stash of a fibre with a record of 64 zero elements at 1024, marked zero or not. -/
def recording (zero : Bool) : State := fib 0 (fun f => ((f.set 2 1024).set 4 0).set 5 64) (fun x =>
  { x with stash := (List.range 48).map (fun i => (1024 + i, BitVec.ofNat 8 ((0x534C + 9 * 2 ^ 16 +
      (if zero then 3 else 2) * 2 ^ 24 + 64 * 2 ^ 32 + 4 * 2 ^ 96) / 256 ^ i))) })
theorem witness_sliver_load : ∀ z ∈ [true, false], let s := recording z
    Ready s 1 (str s) { src := [two 4#7, one 2#7] } ∧ Inv s = true ∧ s.lanes (str s) = [lane s] ∧
    stashNat s 1 1024 2 = 0x534C ∧ (stashNat s 1 1027 1).testBit 1 = true ∧ (stashNat s 1 1027 1).testBit 0 = z ∧
    stashNat s 1 1026 1 = (slivForm 0).1 ∧ stashNat s 1 1028 4 = 64 ∧ stashNat s 1 1032 4 = 0 ∧
    stashNat s 1 1036 2 = 4 ∧ countBelow 64 (fun i => (stashNat s 1 (1056 + i / 8) 1).testBit (i % 8)) = 0 := by
  unfold Ready Issues Fits SourcesReady; decide +kernel

/-- A mapping of the first 256 bytes of the buffer in core 0. -/
def mapping : Mapping :=
  let d : MapDesc :=
    { bind := 0, mode := 0, key := 0, offset := 0, stride := 256, foff := 0, flen := 256, count := 1, sbase := 0 }
  { ctx := 0, core := 0, desc := d, bufIndex := 0, base := 0, ilv := 0, trk := true, lcls := 0, rdev := 0,
    serial := 5 }

/-- Its first line is being filled. -/
def filling : State :=
  { at16 with
    maps := [(5, mapping)]
    fills := [{ map := 5, line := 0, waiters := [], writes := none }] }
theorem witness_fill : Inv filling = true ∧ filling.fills.length = 1 ∧ mapping.filled.contains 0 = false ∧
    (∀ f ∈ filling.fills, f.done = false ∧ f.writes = none) ∧
    filling.regs = [] ∧ filling.fillHeld { map := 5, line := 0, writes := none } = false ∧ mapping.ilv ≠ 3 ∧
    onOk (filling.fillBytes mapping ((List.range 128).filterMap (fun i => if i < mapping.desc.size then some i
      else none))) (fun l => l.length == 128 && l.all (fun b => !filling.fillPoisoned b &&
        (filling.cached 0 0 (b.va / 2 ^ 15)).isSome) && decide ((l.map (fun b => b.pa)).Nodup) &&
        decide ((linesOf (l.filter (fun b => b.tracked))).length ≤ 16)) = true := by decide +kernel

/-- Context 0 has its page table at 0x200000, in one leaf of 32 KiB at 0x300000 through two nodes. -/
def tabled : State :=
  let s := fib 0 id (fun x => { x with lr := bound })
  let put := fun (l : List Host.Cell) (a v : Nat) =>
    (List.range 8).foldl (fun l i => tputD l (a + i) 0 (BitVec.ofNat 8 (v / 256 ^ i))) l
  { s with
    mem := put (put (put [] 0x200000 0x210001) 0x210000 0x220001) 0x220000 0x300031
    dies := [(0, { roots := [(0, 0x200000)], walks := [{ ctx := 0, page := 0, waiters :=
      [{ agent := .who (.strand 1), write := true, ilv := some 0 }] }] })] }
theorem witness_walk : Inv tabled = true ∧ tabled.regs = [] ∧ tabled.walkHeld 0 0 0 = false ∧
    onOk (tabled.walk 0 0 0) (fun l => !tabled.readsPoison (unitAccess l.at_ 8)) = true ∧ tabled.agentCore 0 (.who (.strand 1)) / 64 = 0 ∧
    onOk ({ tabled with fresh := tabled.fresh + 1 }.walk 0 0 0) (fun l => l.pte == 0x300031 &&
      l.frame == 0x300000 && (({ tabled with fresh := 1 }).leafCheck l 0 true (some 0)).isNone) = true := by decide +kernel
theorem witness_walk_fails : onOk ({ tabled with
    fresh := 1
    mem := [] }.walk 0 0 0) (fun _ => true) = false := by decide +kernel

/-! ### Witnesses: knots, ties and tiles -/

/-- The strand of `fib` issues a word of one active lane whose registers are `rg`. -/
def aloneAt (s : State) (rg : Regs) : Bool :=
  Inv s && s.cur.who == some (.strand 1) && tget s.strands 1 == some (str s) && s.lanes (str s) == [lane s] &&
    (str s).fibs == [(lane s).k] && (lane s).on && (rg.src ++ rg.dst).all (fun o => o.r + o.n ≤ (lane s).x.lr.regs && o.r % o.al == 0) &&
    (lane s).f.loads.all (fun y => !y.blocks rg)
theorem alone_of {s : State} {rg : Regs} (h : aloneAt s rg = true) : Alone s 1 (str s) (lane s) rg := by
  simp only [aloneAt, Bool.and_eq_true, beq_iff_eq, List.all_eq_true, decide_eq_true_eq, Bool.not_eq_true'] at h
  obtain ⟨⟨⟨⟨⟨⟨⟨h1, h2⟩, h3⟩, h4⟩, h0⟩, h5⟩, h6⟩, h7⟩ := h
  refine ⟨h1, ⟨⟨h2, h3, by rw [h4]; exact List.cons_ne_nil _ _⟩, ?_, ?_⟩, h0, h4, h5⟩
  · rw [h4]; intro l hl; cases List.mem_singleton.mp hl; exact h6
  · unfold SourcesReady; rw [h4]; intro l hl _; cases List.mem_singleton.mp hl; exact h7

/-- A fibre whose skein holds knot 2 as `y`, and v2 and v3 as `a` and `b`. -/
def knotted (y : Knot) (a b : Word) : State := fib 0 (fun f => (f.set 2 a).set 3 b) (fun x =>
  { x with knots := [(2, y)] })

/-- No fibre waits, from a check that each fibre has another state. -/
theorem noOneWaits_of {s : State} {k : Nat} (h : s.fibres.all (fun e => match e.2.run with
    | .parked _ _ => false
    | _ => true) = true) : NoOneWaits s k := by
  intro e he _ w p hr
  have := List.all_eq_true.mp h e he
  simp [hr] at this
theorem witness_knot : ∀ s ∈ [knotted { memberMode := true } 7 0, knotted {} 7 0, knotted { b := 7 } 7 0],
    (2 : Nat) < (sk s).lr.knots ∧ (sk s).halted = false ∧
      aloneAt s { src := [one 2#7] } = true ∧ aloneAt s { dst := [two 2#7] } = true ∧
      ((sk s).knot 2).ties = 0 ∧ ((sk s).knot 2).posted = false ∧ ((sk s).knot 2).error = false ∧
      ((sk s).knot 2).open_ = none ∧ ((lane s).f.reg 2).toNat = 7 := by
  decide +kernel
theorem witness_no_one_waits : ∀ k, NoOneWaits (knotted {} 7 0) k := fun _ => noOneWaits_of (by decide +kernel)
theorem witness_kwait : serialPassed ((sk (knotted {} 7 0)).knot 2).p ((fb (knotted {} 7 0)).phase 2) = true ∧
    serialPassed ((sk (knotted { p := 0xFFFFFFFF } 7 0)).knot 2).p
      ((fb (knotted { p := 0xFFFFFFFF } 7 0)).phase 2) = false ∧
    ((sk (knotted {} 7 0)).knot 2).b < 7 ∧ (7 : Int) ≤ ((sk (knotted { b := 7 } 7 0)).knot 2).b := by
  decide +kernel

/-- Knot 2 gathers `c` ties, of which 0 are in; the draft set is `dr`. -/
def tying (c : Nat) (dr : Draft) : State := fib 0 (fun f => (f.set 2 5).set 3 4) (fun x =>
  { x with
    knots := [(2, { memberMode := true, c := c })]
    draft := dr })

/-- A draft set of one member, fibre 1, with 4 iterations from 5. -/
def oneMember (cursor : Nat) (pending : Bool) : Draft :=
  { isOpen := true, n := 1, total := 4, members := [
      { fib := 1, start := 5, len := 4, cursor := cursor, pending := pending }] }

/-- An open knot accepts a tie, from checks that a list decides. -/
theorem tieOpen_of {s : State} {l : Lane} {k : Nat} {op : KnotOp} (h : k < l.x.lr.knots ∧
    (l.x.knot k).error = false ∧ (l.x.knot k).memberMode = true ∧ (l.x.knot k).closed = false ∧
    (l.x.knot k).members = [] ∧ (l.x.knot k).open_ = none ∧ l.f.stores = []) : TieOpen s l k op := by
  obtain ⟨h1, h2, h3, h4, h5, h6, h7⟩ := h
  refine ⟨h1, h2, h3, h4, ?_, ?_, h7⟩
  · rw [h5]; intro m hm; cases hm
  · rw [h6]; intro w hw; cases hw
theorem witness_tie (op : KnotOp) : TieOpen (tying 2 {}) (lane (tying 2 {})) 2 op ∧
    TieOpen (tying 1 {}) (lane (tying 1 {})) 2 op ∧
    TieOpen (tying 1 (oneMember 4 false)) (lane (tying 1 (oneMember 4 false))) 2 op :=
  ⟨tieOpen_of (by decide +kernel), tieOpen_of (by decide +kernel), tieOpen_of (by decide +kernel)⟩
theorem witness_tie_alone : ∀ s ∈ [tying 1 {}, tying 2 {}, tying 1 (oneMember 4 false)],
    aloneAt s { src := [two 2#7] } = true ∧ aloneAt s {} = true ∧
    (sk s).lr.draft = true ∧ (sk s).halted = false ∧ loadRoom (lane s) ∧ storeRoom (lane s) := by
  unfold loadRoom storeRoom; decide +kernel
theorem witness_dload_dend : (sk (tying 1 {})).draft.loaded = false ∧
    DraftMemberOf (lane (tying 1 (oneMember 4 false))) 0 ∧
    (sk (tying 1 (oneMember 4 false))).draft.undealt 0 = false := by unfold DraftMemberOf; decide +kernel

/-- The control register of a shape. -/
def shape (fmt rows cols layout : Nat) : BitVec 60 :=
  BitVec.ofNat 60 (fmt + rows * 2 ^ 4 + cols * 2 ^ 16 + layout * 2 ^ 25)

/-- Tiles: f32 accumulators of 8 by 8 and e4m3 operands of 8 by 16, and an int32 tile of 8 by 8. -/
def shapes : Table Tile :=
  [(0, { tc := shape 5 8 8 2 }), (1, { tc := shape 0 8 16 0 }), (2, { tc := shape 0 8 16 1 }),
   (3, { tc := shape 6 8 8 2 }), (4, { tc := shape 0 32 16 1 }), (5, { tc := shape 5 64 64 2 }),
   (6, { tc := shape 0 1 128 0 }), (7, { tc := shape 0 1 16 1 }), (8, { tc := shape 5 1 8 2 }),
   (9, { tc := shape 0 8 32 0 }), (10, { tc := shape 0 8 32 1 })]

/-- Knot 2 gathers two ties, in a skein with those tiles; or only one. -/
def tiled (c : Nat) : State := fib 0 id (fun x =>
  { x with
    knots := [(2, { memberMode := true, c := c })]
    tiles := shapes })
theorem witness_tile_ties (op : KnotOp) : TieOpen (tiled 2) (lane (tiled 2)) 2 op ∧
    TieOpen (tiled 1) (lane (tiled 1)) 2 op :=
  ⟨tieOpen_of (by decide +kernel), tieOpen_of (by decide +kernel)⟩
theorem witness_tile_words : ∀ c ∈ [1, 2], ∀ w ∈ [(⟨0, 0, 0, 1, 2⟩ : TileWord), ⟨1, 0, 0, 1, 2⟩, ⟨2, 0, 5, 1, 4⟩,
      { minor := 3, flags := 0, td := 8 }, { minor := 3, flags := 4, td := 6 },
      { minor := 4, flags := 0, ta := 8 }, { minor := 5, flags := 0, td := 0 }, { minor := 6, flags := 0, td := 7 },
      { minor := 7, flags := 0, td := 0, ta := 3 }, { minor := 8, flags := 0, td := 0 },
      { minor := 9, flags := 0, td := 0 }, { minor := 10, flags := 1, td := 0 }], tileLegal w (tiled c) (lane (tiled c)) := by
  unfold tileLegal; decide +kernel
theorem witness_knotted_transfers : NoOneWaits (tiled 1) 1 ∧ ((sk (tiled 1)).knot 2).ties + 1 = ((sk (tiled 1)).knot 2).c ∧
    (sk (tiled 1)).tops = [] ∧ (sk (tiled 1)).queues = [] ∧ ((sk (tiled 1)).knot 2).members = [] ∧
    ((sk (tiled 1)).tile 0).image = [] ∧ (tget (tiled 1).fibres 1).isSome = true :=
  ⟨noOneWaits_of (by decide +kernel), by decide +kernel⟩
theorem witness_tile_words_alone : ∀ c ∈ [1, 2], aloneAt (tiled c) {} = true ∧
    aloneAt (tiled c) { dst := [four 4#7] } = true ∧ aloneAt (tiled c) { src := [four 4#7] } = true ∧
    loadRoom (lane (tiled c)) ∧ storeRoom (lane (tiled c)) := by unfold loadRoom storeRoom; decide +kernel

/-- A front context of a skein with those tiles and the operations `ops`. -/
def frontTiled (ops : List TileOp) : State := fro 0 (fun x =>
  { x with
    tiles := shapes
    tops := ops
    tlq := ops.map (fun o => (o.id, false))
    front := x.front.set 2 (shape 5 8 8 2).toNat })
theorem witness_front_tiles : ∀ w ∈ [(⟨0, 0, 0, 1, 2⟩ : TileWord), ⟨1, 0, 0, 1, 2⟩, ⟨2, 0, 5, 1, 4⟩,
      { minor := 3, flags := 0, td := 8 }, { minor := 3, flags := 4, td := 6 },
      { minor := 4, flags := 0, ta := 8 }, { minor := 5, flags := 0, td := 0 }, { minor := 6, flags := 0, td := 7 },
      { minor := 7, flags := 0, td := 0, ta := 3 }, { minor := 8, flags := 0, td := 0 },
      { minor := 9, flags := 0, td := 0 }, { minor := 10, flags := 1, td := 0 }], TileReady (frontTiled []) 1 (sk (frontTiled [])) w := by
  unfold TileReady FrontReady; decide +kernel
theorem witness_tile_registers : (sk (frontTiled [])).marking 0 = false ∧ (sk (frontTiled [])).tileBusy 0 = false ∧
    tcLegal (((sk (frontTiled [])).front.reg 2).toNat % 2 ^ 60) = true ∧ tcLegal 0 = false := by decide +kernel

/-- An operation at the engine. -/
def engineOp (w : TileWord) : TileOp :=
  { id := 0, minor := w.minor, flags := w.flags, td := w.td, ta := w.ta, tb := w.tb, pc := 4, ovt := 0 }
theorem witness_tile_ops : ∀ w ∈ [(⟨0, 0, 0, 1, 2⟩ : TileWord), ⟨1, 0, 0, 1, 2⟩, { minor := 5, flags := 0, td := 0 },
      { minor := 7, flags := 0, td := 0, ta := 3 }, ⟨1, 0, 0, 9, 10⟩, { minor := 3, flags := 0, td := 8 },
      { minor := 3, flags := 4, td := 6 }, { minor := 3, flags := 2, td := 6 }, { minor := 6, flags := 0, td := 7 },
      { minor := 4, flags := 0, ta := 8 }], Inv (frontTiled [engineOp w]) = true ∧
    OneTileOp (frontTiled [engineOp w]) 1 (sk (frontTiled [engineOp w])) (engineOp w) ∧
    (sk (frontTiled [engineOp w])).onCore = true ∧ (engineOp w).held = false ∧ (sk (frontTiled [engineOp w])).slots = [] ∧
    (w.minor < 2 → productRule (frontTiled [engineOp w]) (sk (frontTiled [engineOp w])) w = none ∧
      TilesSet (sk (frontTiled [engineOp w])) [w.td, w.ta, w.tb]) ∧
    (w.minor ∈ [3, 4, 6] → moveRule (sk (frontTiled [engineOp w])) w = none ∧
      TilesSet (sk (frontTiled [engineOp w])) [if w.minor = 4 then w.ta else w.td]) := by
  unfold OneTileOp TilesSet; decide +kernel
theorem witness_sparse_load : (TileWord.sparse { minor := 3, flags := 0, td := 8 }, TileWord.sparse
    { minor := 3, flags := 4, td := 6 }, TileWord.sparse { minor := 3, flags := 2, td := 6 }) = (false, false, true) := by
  decide +kernel
theorem witness_mmz_steps : (stepsOf ((sk (frontTiled [])).tile 1) ((sk (frontTiled [])).tile 2)).length = 16 ∧
    (stepsOf ((sk (frontTiled [])).tile 9) ((sk (frontTiled [])).tile 10)).length = 32 ∧
    MmzStands (sk (frontTiled [])) (engineOp ⟨1, 0, 0, 9, 10⟩) ∧ MmzStands (sk (frontTiled [])) { engineOp ⟨1, 0, 0, 9, 10⟩ with
      step := 16
      sums := partialSums ((sk (frontTiled [])).tile 9) ((sk (frontTiled [])).tile 10) ((stepsOf ((sk (frontTiled [])).tile 9)
        ((sk (frontTiled [])).tile 10)).take 16) } := by
  unfold MmzStands; exact ⟨by decide +kernel, by decide +kernel, Or.inl rfl, Or.inr rfl⟩
theorem witness_conversion : cvtPair 6 5 = true ∧ TilesSet (sk (frontTiled [])) [0, 3] := by
  unfold TilesSet; decide +kernel

/-- Skein `n` of launch 1 on the core with place `n` in plane 0, with one ply. -/
def plying (begun : Bool) (n : Nat) : Skein :=
  let o := { engineOp ⟨2, 0, 5, 1, 4⟩ with
    ply := some 0
    begun := begun }
  { sk front with
    idx := n
    core := (planeOf 0).getD n 0
    tiles := shapes
    tops := [o]
    tlq := [(0, false)] }

/-- Sixteen skeins of a plane with a ply each. -/
def sixteen (begun : Bool) : State :=
  { plain with
    strands := []
    fibres := []
    skeins := (List.range 16).map (fun n => (n + 1, plying begun n)) }
/-- The same, where the first member accumulates and the others do not. -/
def disagreeing : State :=
  let s := sixteen false
  { s with skeins := s.skeins.map (fun e => if e.1 = 1 then (1, { e.2 with tops := e.2.tops.map (fun o =>
      { o with flags := 1 }) }) else e) }
/-- The plies of a set are members that passed their checks. -/
def plyMembers (s : State) (begun : Bool) : Prop := ∃ l, s.plySet 1 0 begun = some l ∧
  ∀ e ∈ l, PlyMember s e ((tget s.skeins e.1).getD (sk front))
theorem plyMembers_of {s : State} {b : Bool} (h : (s.plySet 1 0 b).isSome = true)
    (g : ∀ e ∈ (s.plySet 1 0 b).getD [], PlyMember s e ((tget s.skeins e.1).getD (sk front))) : plyMembers s b :=
  ⟨_, by cases e : s.plySet 1 0 b <;> simp_all, g⟩
theorem witness_plies : Inv (sixteen false) = true ∧ plyMembers (sixteen false) false ∧
    (sixteen false).plyTurn 1 0 = true := by
  refine ⟨by decide +kernel, plyMembers_of (by decide +kernel) ?_, by decide +kernel⟩
  unfold PlyMember OneTileOp TilesSet; decide +kernel
theorem witness_begun_plies : Inv (sixteen true) = true ∧ plyMembers (sixteen true) true := by
  refine ⟨by decide +kernel, plyMembers_of (by decide +kernel) ?_⟩
  unfold PlyMember OneTileOp TilesSet; decide +kernel
theorem witness_disagreeing_plies : Inv disagreeing = true ∧ plyMembers disagreeing false ∧
    disagreeing.plyTurn 1 0 = true := by
  refine ⟨by decide +kernel, plyMembers_of (by decide +kernel) ?_, by decide +kernel⟩
  unfold PlyMember OneTileOp TilesSet; decide +kernel
theorem witness_plies_agree :
    (∀ b ∈ [true, false], allEqual (((((sixteen b).plySet 1 0 b).getD []).map (sixteen b).plyKey)) = true) ∧
    allEqual (((disagreeing.plySet 1 0 false).getD []).map disagreeing.plyKey) = false := by decide +kernel

/-! ### Witnesses: draft sets, barriers and bobbin queues -/

theorem witness_draft : ∀ c ∈ [0, 4], ∀ b ∈ [true, false],
    let s := tying 1 (oneMember c b)
    DraftMemberOf (lane s) 0 ∧ aloneAt s { dst := [two 4#7], pdst := [2] } = true ∧
    aloneAt s { src := [two 4#7] } = true ∧ aloneAt s { src := [one 4#7] } = true ∧
    aloneAt s { dst := [two 4#7] } = true ∧ (sk s).draft.mode.getD (0, 0) = (0, 0) ∧
    ((sk s).draft.at_ 0).cursor * (sk s).draft.n + 0 = c ∧ (sk s).draft.total = 4 ∧
    ((sk s).draft.at_ 0).pending = b := by
  unfold DraftMemberOf; decide +kernel
theorem witness_dget : (sk (tying 1 { oneMember 4 false with reduced := 4 })).draft.total ≤
    (sk (tying 1 { oneMember 4 false with reduced := 4 })).draft.reduced := by decide +kernel

/-- Two fibres, of which only the first is in the strand. -/
def apart : State :=
  let s := split
  { s with
    fibres := s.fibres.map (fun e => if e.1 = 2 then (2, { e.2 with run := .filed }) else e)
    strands := [(1, { str s with fibs := [1] })] }
theorem witness_barrier : ∀ s ∈ [plain, apart], aloneAt s {} = true ∧
    aloneAt s { dst := [one 4#7] } = true ∧ aloneAt s { src := [one 4#7] } = true ∧
    (lane s).f.stores = [] ∧ (sk s).halted = false ∧ (∀ n ∈ [1, 2, 3], s.flushed 0 n = true) ∧
    (∀ n ∈ [0, 1, 2, 3], (arrived s (lane s) n).barrierDone 1 n 0 = s.fibres.all (fun e => e.2.sk == 1 && e.1 == 1) ∧
      s.barrierDone 1 n 0 = false ∧ s.barrierDone 1 n 0xFFFFFFFF = true) := by
  decide +kernel
theorem witness_barrier_waits : ∀ k, NoOneWaits plain k ∧ NoOneWaits apart k := fun _ =>
  ⟨noOneWaits_of (by decide +kernel), noOneWaits_of (by decide +kernel)⟩

/-- Queue 3 of depth 2, empty or with one entry. -/
def queued (n : Nat) : State := fib 0 (fun f => f.set 2 1) (fun x =>
  { x with queues := [(3, { init := true, base := 128, depth := 2, allow := 1, tail := n, count := n })] })
theorem witness_queue : ∀ n ∈ [0, 1], aloneAt (queued n) { src := [one 2#7] } = true ∧
    aloneAt (queued n) { dst := [one 2#7] } = true ∧
    3 < (sk (queued n)).lr.queues ∧ ((sk (queued n)).queue 3).init = true ∧ (sk (queued n)).slots = [] ∧
    (lane (queued n)).f.stores = [] ∧ (sk (queued n)).tileBusy 1 = false ∧
    ((lane (queued n)).f.reg 2).toNat ≤ ((sk (queued n)).queue 3).depth ∧ (sk (queued n)).halted = false := by
  decide +kernel
theorem witness_queue_waits : NoOneWaits (queued 0) 1 ∧ NoOneWaits (queued 1) 1 :=
  ⟨noOneWaits_of (by decide +kernel), noOneWaits_of (by decide +kernel)⟩
theorem witness_qinit : front.queueRefused (sk front) 0x0001000200000080 = false ∧
    NoOneWaits front 1 ∧ front.fibres.all (fun e => e.2.run == .filed) = true :=
  ⟨by decide +kernel, noOneWaits_of (by decide +kernel), by decide +kernel⟩

/-! ### Witnesses: layers, mappings and the reel -/

/-- A fibre whose constant store holds the descriptor `e` and, behind it, 1.0. -/
def layered (e clen : Nat) : State :=
  let s := fib 0 id (fun x => { x with lr := { x.lr with clen := clen } })
  { s with cores := tput s.cores 0 { s.core 0 with
      const := some { key := 0, addr := 0, bytes := putNum (putNum [] 0 16 e) 16 4 0x3F800000 } } }

/-- A layer of one weight at 16, without a bias. -/
def oneWeight : Nat := 1 + 2 ^ 16 + 16 * 2 ^ 32 + (2 ^ 32 - 1) * 2 ^ 64

/-- The descriptor at 0. -/
def layerOf (s : State) : MvcLayer := MvcLayer.ofRecord (ofBytes (s.constBytes (lane s).x.core 0 16))
theorem witness_layer : ∀ s ∈ [layered oneWeight 32], Inv s = true ∧ aloneAt s {} = true ∧
    aloneAt s (layerRegs true 4#7 2#7 (layerOf s)) = true ∧ 16 ≤ (lane s).x.lr.clen ∧
    layerOf s = { rows := 1, cols := 1, woff := 16, boff := 2 ^ 32 - 1, act := 0, reserved := 0 } ∧
    (s.mvcRows true (layerOf s) (lane s) 4 2 [0]).cond.raised (lane s).f.fpc = 0 := by decide +kernel
theorem witness_bad_layer : (lane (layered oneWeight 8)).x.lr.clen < 16 ∧
    (layerOf (layered (33 + 2 ^ 16) 32)).rows = 33 ∧ (layerOf (layered oneWeight 16)).woff = 16 ∧
    (lane (layered oneWeight 16)).x.lr.clen = 16 := by decide +kernel

/-- A mapping descriptor: a window at `base` of the first 256 bytes of a buffer. -/
def mapEntry (bind mode base : Nat) : Nat :=
  bind + mode * 2 ^ 6 + 256 * 2 ^ 128 + 256 * 2 ^ 192 + 2 ^ 224 + base * 2 ^ 256

/-- A front context with s2 at a descriptor in its page and s3 at slot 1. -/
def mappingAt (va e : Nat) : State :=
  let s := frontPaged (fun x => { x with front := (x.front.set 2 (BitVec.ofNat 64 va)).set 3 1 })
  { s with mem := putNum [] 0x120040 64 e }

/-- The descriptor that the front context reads. -/
def readEntry (s : State) : Nat :=
  match s.frontPieces (.who (.front 1)) 0 0 (piecesOf ((sk s).front.reg 2).toNat 64) with
  | .bytes l => ofBytes l
  | _ => 0
theorem witness_smap : Inv (mappingAt 64 (mapEntry 0 0 0)) = true ∧
    (∀ s ∈ [mappingAt 64 (mapEntry 0 0 0), mappingAt 65 0, mappingAt 64 (mapEntry 0 3 0),
      mappingAt 64 (mapEntry 0 0 524288), mappingAt 64 (mapEntry 1 0 0)], FrontReady s 1 (sk s) ∧
      (sk s).front.stores = [] ∧ tget (sk s).slots 1 = none) ∧
    readEntry (mappingAt 64 (mapEntry 0 0 0)) = mapEntry 0 0 0 ∧ descOk (mapEntry 0 0 0) = true ∧
    descOk (mapEntry 0 3 0) = false ∧ ((sk (mappingAt 65 0)).front.reg 2).toNat % 64 ≠ 0 := by
  unfold FrontReady; decide +kernel
theorem witness_smap_fits : let s := mappingAt 64 0
    let d := fun (b base : Nat) => MapDesc.ofBits (mapEntry b 0 base)
    s.windowFits (sk s) (d 0 0).sbase (d 0 0).top = true ∧
    s.windowFits (sk s) (d 0 524288).sbase (d 0 524288).top = false ∧
    (s.mapBuffer 0 (sk s).lr (d 0 0)).isSome = true ∧ s.mapBuffer 0 (sk s).lr (d 1 0) = none ∧
    s.keptRegion 0 0 (d 0 0).key = none ∧ (s.core 0).bufs.any (fun z => z.ctx == 0 && z.index == 0) = true := by
  decide +kernel
theorem witness_smap_at_hand : ∀ e, RangeAtHand (mappingAt 64 e) 0 0 64 64 := fun _ => rangeAtHand_of rfl _ _ _ _
theorem witness_smap_binding : ∀ b ∈ [0, 1], (mappingAt 64 (mapEntry b 0 0)).bindingHeld 0 bound b = false := by
  decide +kernel

/-- The descriptor of key 9, of which the core keeps a region. -/
def keptMapping : State :=
  let s := mappingAt 64 (mapEntry 0 0 0 + 9 * 2 ^ 32)
  { s with
    maps := [(6, { mapping with
      desc := { mapping.desc with
        key := 9
        sbase := 1024 } })]
    cores := tput s.cores 0 { s.core 0 with regions := [6] } }
theorem witness_smap_again : Inv keptMapping = true ∧ FrontReady keptMapping 1 (sk keptMapping) ∧
    readEntry keptMapping = mapEntry 0 0 0 + 9 * 2 ^ 32 ∧ descOk (readEntry keptMapping) = true ∧
    (keptMapping.keptRegion 0 0 9).any (fun e => e.1 == 6 && e.2.core == 0 && e.2.bufIndex == 0 &&
      e.2.desc.sameShape (MapDesc.ofBits (readEntry keptMapping))) = true ∧
    (keptMapping.mapBuffer 0 (sk keptMapping).lr (MapDesc.ofBits (readEntry keptMapping))).any (fun e => e.1 == 0) = true ∧
    keptMapping.windowFits (sk keptMapping) 0 256 = true := by
  unfold FrontReady; decide +kernel
theorem witness_smap_quiet : ∀ e, Quiet (mappingAt 64 e) := fun _ =>
  ⟨rfl, fun _ => congrArg (fun x : Die => x.walks) (by rfl : _ = ({} : Die))⟩

/-- A front context with `mapping` as `m` in slot 1, s2 = 1 and s3 = 2; a region of key 9 is kept. -/
def mapped (m : Mapping) : State :=
  let s := frontPaged (fun x => { x with
    slots := [(1, 5)]
    front := (x.front.set 2 1).set 3 2 })
  { s with
    maps := [(5, m), (6, { m with desc := { m.desc with
      key := 1
      sbase := 1024 } })]
    cores := tput s.cores 0 { s.core 0 with regions := [6] } }
theorem witness_slot : Inv (mapped mapping) = true ∧ FrontReady (mapped mapping) 1 (sk (mapped mapping)) ∧
    tableWf (mapped mapping).regs = true ∧ SlotHolds (mapped mapping) (sk (mapped mapping)) 1 5 mapping ∧
    tget (sk (mapped mapping)).slots 2 = none ∧ mapping.ilv ≠ 3 ∧ mapping.dirty = [] ∧
    ((mapped mapping).keptRegion 0 0 1).map (fun e => e.1) = some 6 ∧ (mapped mapping).keptRegion 0 0 2 = none ∧
    (mapped mapping).windowFits (sk (mapped mapping)) 1024 1280 = true ∧
    (mapped mapping).windowFits (sk (mapped mapping)) 128 384 = false := by
  unfold FrontReady SlotHolds; decide +kernel

/-- The mapping with one written byte. -/
def dirtied : Mapping := { mapping with
  dirty := [3] }
theorem witness_swb : SlotHolds (mapped dirtied) (sk (mapped dirtied)) 1 5 dirtied ∧ dirtied.poisoned = [] ∧
    (mapped dirtied).poison = [] ∧
    onOk ((mapped dirtied).xlateNow 0 0 (dirtied.va 3) true (some 0)) (fun z =>
      (mapped dirtied).homeGone (z.pa (dirtied.va 3)) == false && !isRegister (z.pa (dirtied.va 3))) = true ∧
    ((mapped dirtied).cached 0 0 (dirtied.va 3 / 2 ^ 15)).any (fun c => c.dirty) = true := by
  unfold SlotHolds; decide +kernel

/-- A record of a vector of 16 elements of one byte. -/
def vector16 : Shape :=
  { ver := 1, fmt := 1, kind := 0, rank := 1, clamp := false, strided := false, bind := 0, boff := 0,
    size := [16, 0, 0, 0, 0], stride := [1, 0, 0, 0, 0], box := [16, 0, 0, 0, 0], layout := 2, pitch := 16,
    scoff := 0, clean := true }

/-- A front context whose core holds the record `h` of address 64, in s2, and whose buffer is the entry `e`;
s3 is `args`. -/
def reeling (h : Shape) (e : Nat) (args : DWord) (g : Skein → Skein) : State :=
  let s := frontPaged (fun x => g { x with
    lr := { x.lr with pool := 256 }
    front := (x.front.set 2 64).set 3 args })
  { s with cores := tput s.cores 0 { s.core 0 with
      shapes := [{ ctx := 0, va := 64, shape := h }]
      bufs := [{ ctx := 0, index := 0, entry := BitVec.ofNat 512 e }] } }

/-- The entry of `withPage`, and one of remote data. -/
def pageEntry (ilv slot : Nat) : Nat :=
  2 ^ 15 * 2 ^ 64 + 0x1F * 2 ^ 128 + ilv * 2 ^ 152 + 2 ^ 158 + slot * 2 ^ 176 + 2 ^ 185

/-- What a command of a form on a record finds. -/
def commandOf (form : Nat) (h : Shape) (e : Nat) (args : DWord) : Option Trap :=
  commandTrap (reeling h e args id) 1 (sk (reeling h e args id)) form 4 h (ReelArgs.of args.toNat) 0

/-- A vector of 32 storage records' elements, and one of f32 elements that are reduced. -/
def records32 : Shape := { vector16 with
  fmt := 12
  kind := 1
  size := [32, 0, 0, 0, 0]
  box := [32, 0, 0, 0, 0]
  pitch := 32 }
def reduced4 : Shape := { vector16 with
  fmt := 10
  size := [4, 0, 0, 0, 0]
  stride := [4, 0, 0, 0, 0]
  box := [4, 0, 0, 0, 0] }
theorem witness_commands : commandOf 0 vector16 (pageEntry 0 0) 0 = none ∧ commandOf 1 vector16 (pageEntry 0 0) 0 = none ∧
    commandOf 2 vector16 (pageEntry 0 0) 0 = none ∧ commandOf 3 vector16 (pageEntry 0 0) 0 = none ∧
    commandOf 4 records32 (pageEntry 0 0) 0 = none ∧ commandOf 5 vector16 (pageEntry 0 2) 0 = none ∧
    commandOf 6 vector16 (pageEntry 3 0) 0 = none ∧ commandOf 7 reduced4 (pageEntry 3 0) 0 = none ∧
    commandOf 0 vector16 (pageEntry 0 0) 0x1000000 = some { cause := .reelFault, detail := 7 } := by decide +kernel
theorem witness_reel : let s := reeling vector16 (pageEntry 0 0) 0 id
    Inv s = true ∧ FrontReady s 1 (sk s) ∧ (sk s).front.stores = [] ∧ 1 < (sk s).lr.reels ∧ (sk s).cp < 7 ∧
    ((sk s).front.reg 2).toNat = 64 ∧ ((sk s).front.reg 4).toInt = 0 ∧ ((sk s).chan 1).failed = false ∧
    (s.core 0).shapes.any (fun e => e.ctx == 0 && e.va == 64 && e.shape == vector16) = true := by
  unfold FrontReady; decide +kernel
theorem witness_reel_record : let s := reeling vector16 (pageEntry 0 0) 0 id
    (shapeCopy s (sk s) 64).isSome = true ∧ (∀ n, entryOf (sk s) 0 vector16 = some n ↔ n = 0) ∧
    s.entryHeld 0 0 0 = false ∧ EntryAtHand s 0 0 0 ∧ s.remotes = [] := by
  refine ⟨by decide +kernel, ?_, by decide +kernel, entryAtHand_of (by decide +kernel), by decide +kernel⟩
  rw [show entryOf (sk (reeling vector16 (pageEntry 0 0) 0 id)) 0 vector16 = some 0 by decide +kernel]
  exact fun n => ⟨fun h => (Option.some.inj h).symm, fun h => h ▸ rfl⟩

/-- The same, with a channel 1 that has failed, or with seven commands under way. -/
def reelFailed : State := reeling vector16 (pageEntry 0 0) 0 (fun x => { x with chans := [(1, { failed := true })] })
def reelFull : State := reeling vector16 (pageEntry 0 0) 0 (fun x =>
  { x with cpq := (List.range 7).map (fun i => (i, false)) })
theorem witness_reel_failed : Inv reelFailed = true ∧ FrontReady reelFailed 1 (sk reelFailed) ∧
    ((sk reelFailed).chan 1).failed = true ∧ (0 : Nat) < (sk reelFailed).lr.knots ∧ (sk reelFailed).cp < 7 ∧
    commandTrap reelFailed 1 (sk reelFailed) 0 4 vector16 (ReelArgs.of 0) 0 = none ∧
    reelFailed.fibres.all (fun q => q.2.run == .filed) = true ∧ Inv reelFull = true ∧
    FrontReady reelFull 1 (sk reelFull) ∧ 7 ≤ (sk reelFull).cp := by unfold FrontReady; decide +kernel

/-- A front context whose record lies in its page, of which the core holds no copy. -/
def readingRecord : State :=
  let s := reeling vector16 (pageEntry 0 0) 0 id
  { s with cores := tput s.cores 0 { s.core 0 with shapes := [] } }
theorem witness_record_read : Inv readingRecord = true ∧ shapeCopy readingRecord (sk readingRecord) 64 = none ∧
    (match readingRecord.frontPieces (.who (.front 1)) 0 0 (piecesOf 64 192) with
      | .bytes l => l.length == 192
      | _ => false) = true ∧ RangeAtHand readingRecord 0 0 64 192 :=
  ⟨by decide +kernel, by decide +kernel, by decide +kernel, rangeAtHand_of rfl _ _ _ _⟩
theorem witness_reel_quiet : Quiet (reeling vector16 (pageEntry 0 0) 0 id) :=
  ⟨rfl, fun _ => congrArg (fun x : Die => x.walks) (by rfl : _ = ({} : Die))⟩

/-- A command of form `form` on a record. -/
def command (form : Nat) (h : Shape) (e line : Nat) : ReelCmd :=
  { id := 0, form := form, shape := h, stash := 0, rop := 0, vrows := 0, origin := [0], knot := none, ovt := 0,
    stream := 0, counter := 1, entry := BitVec.ofNat 512 e, line := line }

/-- Channel 1 of the skein has that command; slot 2 holds a key of context 0; the tag is that of 16 zero bytes
under key 0, or not. -/
def working (c : ReelCmd) (tag : Nat) : State :=
  let s := reeling vector16 (pageEntry 0 0) 0 (fun x =>
    { x with
      chans := [(1, { cmds := [c] })]
      cpq := [(0, false)] })
  { s with
    slots := [(2, { inst := true })]
    mem := putNum [] 0x120010 16 tag }
theorem witness_line : let c := command 0 vector16 (pageEntry 0 0) 0
    let s := working c 0
    Inv s = true ∧ (sk s).run = .resident ∧ (sk s).chan 1 = { cmds := [c] } ∧ (sk s).cpq = [(c.id, false)] ∧
    c.current = some (c.pieces) ∧ c.pieces.length = 16 := by decide +kernel

/-- A vector of one element. -/
def vector1 : Shape := { vector16 with
  size := [1, 0, 0, 0, 0]
  box := [1, 0, 0, 0, 0] }
/-- The accesses of a line lie at hand. -/
def atHand (s : State) (x : Skein) (l : List (Piece × List (Nat × Access))) : Bool :=
  l.all (fun e => e.2.all (fun u => u.2.pa % 128 + u.2.n ≤ 128 && s.reach u.2.pa u.2.n == .memory &&
    !s.readsPoison u.2 && !s.homeGone u.2.pa && u.2.remote.isNone && (s.cached x.core u.2.ctx (u.2.va / 2 ^ 15)).isSome &&
    !s.hostError u.2 && !s.readHeld x.core u.2))
theorem witness_last_line : let c := command 0 vector1 (pageEntry 0 0) 0
    let q : Piece := { so := 0, n := 1, src := .mem 0 }
    let s := working c 0
    c.current = some [q] ∧ c.buffer.isSome = true ∧ ({ c with
      line := 1
      asked := false
      got := [] } : ReelCmd).current = none ∧ (sk s).slots = [] ∧
    onOk (s.lineAccess (sk s) c false [q]) (fun l => atHand s (sk s) l && l.map (fun e => (e.1, e.2.map (fun u =>
      (u.1, u.2.n)))) == [(q, [(0, 1)])]) = true := by decide +kernel
theorem witness_no_line : (command 0 vector1 (pageEntry 0 0) 1).current = none := by decide +kernel
/-- What the verification of 16 zero bytes finds with a tag. -/
def verified (tag : Nat) : BitVec 8 :=
  let c := command 5 vector16 (pageEntry 0 2) 0
  let s := working c tag
  match s.lineAccess (sk s) c false ((boxIndices [16]).map c.piece ++ [{ so := 0, n := 16, src := .mem c.tagAt }]) with
  | .ok l =>
    let all := l.flatMap (fun e => (loadBytes s 1 c e).1)
    if atHand s (sk s) l then (decOutcome 0 (tgetD s.slots 2 {}) c (all.take (all.length - 16))
      (all.drop (all.length - 16))).1 else 99
  | .error _ => 98
theorem witness_verified : verified 0x8a97be16ed1517bff5bef99e0059f45e = 0 := by decide +kernel
theorem witness_not_verified : verified 0 = 4 := by decide +kernel
/-- The tag of 16 zero bytes under key 0 with IV 0: test case 14 of the GCM specification. -/
theorem test_gcm_tag : (gcmOpen (List.replicate 32 0) (List.replicate 12 0)
    [0xce, 0xa7, 0x40, 0x3d, 0x4d, 0x60, 0x6b, 0x6e, 0x07, 0x4e, 0xc5, 0xd3, 0xba, 0xf3, 0x9d, 0x18]).2 =
    [0xd0, 0xd1, 0xc8, 0xa7, 0x99, 0x99, 0x6b, 0xf0, 0x26, 0x5b, 0x98, 0xb5, 0xd4, 0x8a, 0xb9, 0x19] := by
  decide +kernel

/-- SHA-256 of the three bytes "abc": the example of FIPS 180-4. -/
theorem test_sha256 : sha256 [0x61, 0x62, 0x63] =
    [0xba, 0x78, 0x16, 0xbf, 0x8f, 0x01, 0xcf, 0xea, 0x41, 0x41, 0x40, 0xde, 0x5d, 0xae, 0x22, 0x23,
     0xb0, 0x03, 0x61, 0xa3, 0x96, 0x17, 0x7a, 0x9c, 0xb4, 0x10, 0xff, 0x61, 0xf2, 0x00, 0x15, 0xad] := by
  decide +kernel

/-! ### Witnesses: clauses, bins and strands -/

/-- A clause header of one word. -/
def headWord (cls ldt cpt : Nat) : Nat := Header.toWord
  { tag := 12, n := 1, cls := BitVec.ofNat 3 cls, ldt := BitVec.ofNat 4 ldt, stt := 15, cpt := BitVec.ofNat 3 cpt,
    tlt := 7, yld := false, crd := false, res := 0 }

/-- The line of code of a page at 0x120000. -/
def codeKey : Nat := codeLine none 0x120000

/-- A fibre stands at a header that the cache of its cluster holds, or not; it has `n` loads. -/
def fetching (front : Bool) (head : Option Nat) (n : Nat) : State :=
  let at_ : Pos := posAt 0
  let f : Fibre → Fibre := fun f => { f with
    pos := at_
    loads := List.replicate n (pendingLoad (.const 0)) }
  let h : Skein → Skein := fun x => { x with
    lr := bound
    front := { x.front with
      pos := at_
      clause := none } }
  let s := withPage (if front then fro 0 h else fib 0 f h)
  { s with
    strands := s.strands.map (fun e => (e.1, { e.2 with
      pos := at_
      clause := none }))
    icache := match head with
      | some w => [(0, [(codeKey, (bytesOf w 4 ++ bytesOf 5 4 ++ List.replicate 120 0))])]
      | none => []
    ifetch := [(0, [codeKey])] }

/-- The clause that a context at 0 fetches. -/
def fetched (front : Bool) (s : State) : Option Clause :=
  match s.fetchClause (.who (if front then .front 1 else .strand 1)) 0 bound (posAt 0) with
  | .clause c _ => some c
  | _ => none
theorem witness_fetch : ∀ n ∈ [0, 1], ∀ cls ∈ [0, 5],
    let s := fetching false (some (headWord cls 0 7)) n
    Inv s = true ∧ tget s.strands 1 = some (str s) ∧ s.lanes (str s) = [lane s] ∧ (str s).clause = none ∧
    (str s).pos.pc = (str s).pos.hdr ∧ (sk s).halted = false ∧ (lane s).f.ld = n ∧
    (∀ z ∈ (lane s).f.loads, z.poisoned = false) ∧ (lane s).f.pos.jumped = false ∧ (lane s).f.rejoin = none ∧
    s.strandRuns (str s) = true ∧ bound.codebuf = 0 ∧ (s.core 0).bufs.any (fun c => decide (c.ctx = 0 ∧ c.index = 0)) = true ∧
    (fetched false s).any (fun c => c.header.formOk 0 && c.header.ldt == 0 && c.header.cls.toNat == cls) = true := by
  decide +kernel
theorem witness_front_fetch : ∀ cls ∈ [0, 5],
    let s := fetching true (some (headWord cls 15 7)) 0
    Inv s = true ∧ tget s.skeins 1 = some (sk s) ∧ (sk s).front.run = .ready ∧ (sk s).run = .resident ∧
    (sk s).front.clause = none ∧ (sk s).halted = false ∧ (sk s).front.pos = posAt 0 ∧
    (s.core 0).bufs.any (fun c => decide (c.ctx = 0 ∧ c.index = 0)) = true ∧
    (fetched true s).any (fun c => c.header.formOk 0 && c.header.cls.toNat == cls && c.header.ldt == 15) = true := by
  decide +kernel
theorem witness_fetch_quiet : Quiet (fetching false none 0) ∧ Quiet (fetching true none 0) :=
  ⟨⟨rfl, fun _ => congrArg (fun x : Die => x.walks) (by rfl : _ = ({} : Die))⟩,
    ⟨rfl, fun _ => congrArg (fun x : Die => x.walks) (by rfl : _ = ({} : Die))⟩⟩
theorem witness_miss : (match (fetching true none 0).fetchClause (.who (.front 1)) 0 bound (posAt 0) with
      | .miss l => l == codeKey
      | _ => false) = true ∧ codeKey ∈ (tget (fetching true none 0).ifetch 0).getD [] ∧ Inv (fetching true none 0) = true ∧
    codeKey < 2 ^ 45 ∧ isPackage (codeKey * 128) = true ∧ (fetching true none 0).lineHeld none codeKey = false ∧
    (fetching true none 0).reach (codeKey * 128) 128 = .memory := by
  decide +kernel

/-- Both fibres are filed in one bin. -/
def binned : State :=
  let s := split
  { s with
    fibres := s.fibres.map (fun e => (e.1, { e.2 with run := .filed }))
    strands := []
    cores := tput s.cores 0 { s.core 0 with
      bins := [{ launch := 1, pc := 4, fibs := [(1, 0), (2, 0)], aged := true }] } }
theorem witness_bin : Inv binned = true ∧ (binned.core 0).bins.length = 1 ∧
    (binned.core 0).bins.all (fun b => binned.binEligible b && b.fibs != [] &&
      b.fibs.all (fun e => ((tget binned.fibres e.1).map (fun f => f.pos.hdr)) == some 0)) = true ∧
    binned.drawOpen 0 = true ∧ (binned.core 0).unfiled = [] ∧
    (binned.core 0).bins.all (fun b => decide ((b.fibs.map (fun e => e.1)).Nodup) && b.fibs.all (fun e =>
      (tget binned.fibres e.1).any (fun f => f.clause == none))) = true ∧
    ([1, 2].map (fun k => binned.laneOf k)).Nodup := by decide +kernel

/-- Ten strands of one slot, of which the first `n` are active, and strand 3 yields or not. -/
def crowded (n : Nat) (y : Bool) : State := { plain with
  strands := (List.range 10).map (fun i => (i + 1, { str plain with
    active := decide (i < n)
    since := i
    yields := y && i == 2
    fibs := if i = 0 then [1] else [] })) }
theorem witness_exchange : ∀ y ∈ [true, false], ∀ n ∈ [7, 8], let s := crowded n y
    Inv s = true ∧ (s.pendingOf 0 0).any (fun p => p.1 == n + 1 && !p.2.waits &&
      (s.pendingOf 0 0).all (fun e => e == p || decide (p.2.since < e.2.since))) = true ∧
    (s.activeOf 0 0).length = n ∧ ((s.activeOf 0 0).filter (fun e => e.2.waits || e.2.yields)).map (fun e => e.1) =
      if y then [3] else [] := by decide +kernel

/-! ### Witnesses: launch queues, placement and the end of a skein -/

/-- Queue 3 has one record to read at 0x400000, whose bytes are `l`; context 0 is described at 0x100000, with its
page table at 0x200000 and its buffer table at 0x101000. -/
def launching (l : List (Nat × Nat × Nat)) : State :=
  let m := putNum (putNum (putNum [] 0x100000 8 0x200001) 0x100008 8 0x101000) 0x100010 8 0x0101000000
  let m := putNum m 0x101000 64 (pageEntry 0 0)
  let m := putNum (putNum (putNum m 0x200000 8 0x210001) 0x210000 8 0x220001) 0x220000 8 0x300031
  { State.reset with
    ctxbase := 0x10
    ctxcnt := 1
    mem := l.foldl (fun m e => putNum m (0x400000 + e.1) e.2.1 e.2.2) m
    queues := [(3, { base := 0x400, en := true, widx := 1 })] }

/-- A record of one fibre of 16 registers in relay mode. -/
def goodRecord : List (Nat × Nat × Nat) := [(0, 8, 0x101), (0x20, 8, 0x100100000), (0x90, 8, 0x1000)]
theorem witness_lottery : Inv (launching goodRecord) = true ∧
    (List.range 64).filter (launching goodRecord).eligible = [] ++ 3 :: [] ∧
    (launching goodRecord).inflight.toNat < 256 ∧ (launching goodRecord).settled = true ∧ ((launching goodRecord).queue 3).tickets = 1 := by decide +kernel

/-- A front context whose record for queue 5 lies at 256 in its page; the queue has `n` records to read. -/
def offering (n : Nat) (q : LQueue → LQueue) : State :=
  let s := frontPaged (fun x => { x with front := x.front.set 2 (256 + 5) })
  { s with queues := [(5, q { base := 0x500, en := true, dev := true, widx := BitVec.ofNat 16 n })] }
theorem witness_launch : ∀ n ∈ [0, 1, 2], let s := offering n id
    Inv s = true ∧ FrontReady s 1 (sk s) ∧ ((sk s).front.reg 2).toNat % 64 = 5 ∧ (s.queue 5).size = 1 ∧
    (s.queue 5).sup = false ∧ (s.queue 5).ctx.toNat = (sk s).lr.ctx ∧
    ((s.queue 5).widx - (s.queue 5).ridx).toNat = n ∧
    (sk s).front.stores = [] ∧ (sk s).halted = false ∧ s.flushed 0 3 = true ∧ s.regs = [] := by
  unfold FrontReady; decide +kernel
theorem witness_launch_slot : ∀ n ∈ [0, 1], (List.range 256).all (fun i =>
    !(offering n id).homeGone (0x500000 + 256 * n + i)) = true := by decide +kernel
theorem witness_launch_record : (match (offering 0 id).frontPieces (.who (.front 1)) 0 0 (piecesOf 256 256) with
    | .bytes l => l.length == 256
    | _ => false) = true := by decide +kernel
theorem witness_launch_quiet : ∀ n q, Quiet (offering n q) := fun _ _ =>
  ⟨rfl, fun _ => congrArg (fun x : Die => x.walks) (by rfl : _ = ({} : Die))⟩
theorem witness_launch_refused : ((offering 0 (fun q => { q with dev := false })).queue 5).dev = false ∧
    ((offering 0 (fun q => { q with ctx := 1 })).queue 5).ctx.toNat ≠ 0 ∧
    ((offering 0 (fun q => { q with sup := true })).queue 5).sup = true ∧ (sk user).lr.sup = false := by decide +kernel

/-- The state after the draw of the generator. -/
def drawn (l : List (Nat × Nat × Nat)) : State := { launching l with lseed := nextSeed (launching l).lseed }
/-- A record whose skeins no die holds: groups of 2^20 clusters. -/
def wideRecord : List (Nat × Nat × Nat) := goodRecord ++ [(0x28, 2, 0x214), (0x38, 4, 0x100000)]
theorem witness_accepted : (drawn goodRecord).launchStatus false 0 ((drawn goodRecord).readLaunch 3) = none ∧
    (((drawn goodRecord).readLaunch 3).rec_ 0).fits ((drawn goodRecord).queue 3) = true := by decide +kernel
theorem witness_rejected : (drawn []).launchStatus false 0 ((drawn []).readLaunch 3) = some 1 ∧
    (drawn wideRecord).launchStatus false 0 ((drawn wideRecord).readLaunch 3) = none ∧
    (((drawn wideRecord).readLaunch 3).rec_ 0).fits ((drawn wideRecord).queue 3) = false := by decide +kernel

/-- A record of one fibre of 16 registers. -/
def smallRecord : LaunchRec := { fullRecord with
  regs := 16
  span := 8
  stash := 0
  tiles := 0
  knots := 0
  queues := 0
  reels := 0
  draft := false }
/-- A launch with one skein to place. -/
def waitingLaunch : Launch := { lr := smallRecord, queue := 3, ringIdx := 0, order := 1, waiting := [0] }
def toPlace : State := { launching [] with launches := [(1, waitingLaunch)] }
theorem witness_placement : Inv toPlace = true ∧
    (placeGroups toPlace 1 (toPlace.queue 3) smallRecord [[0]]).any (fun y =>
      (y.holds.drop toPlace.layout.holds.length).all (fun h => h.lr == smallRecord && h.idx == 0 &&
        (toPlace.core h.core).regions == []) && y.holds.length == 1) = true := by decide +kernel

/-- A skein to be admitted into a context that is described, or not. -/
def admitting (valid : Bool) : State :=
  let s := launching []
  { s with
    ctxcnt := if valid then 1 else 0
    skeins := [(1, { sk front with
      lr := smallRecord
      run := .admitting 2 })] }
theorem witness_admission : Inv (admitting true) = true ∧ Inv (admitting false) = true ∧
    ((admitting true).descriptor 0).isSome = true ∧ (admitting false).descriptor 0 = none ∧
    (sk (admitting true)).lr.maps = [] ∧ (sk (admitting true)).lr.clen = 0 ∧
    ((admitting true).core 0).bins.length < 32 ∧ (∀ v ∈ [true, false], let s := admitting v
      s.stashNeed 0 (s.newHolds 0) 0 ≤ 524288 ∧ s.coreStopped 0 = false) := by decide +kernel

/-- A skein whose fibres and front context have ended, of a launch with `w` still to place. -/
def ended (w : List Nat) : State := { plain with
  fibres := []
  strands := []
  launches := [(1, { waitingLaunch with waiting := w })]
  skeins := [(1, { sk plain with front := { (sk plain).front with run := .ended } })] }
theorem witness_end : ∀ w ∈ [[], [1]], Inv (ended w) = true ∧ (sk (ended w)).finished (ended w) 1 = true ∧
    (sk (ended w)).slots = [] ∧ ((ended w).core 0).regions.length ≤ 64 ∧ tget (ended w).launches 1 = some { waitingLaunch with waiting := w } ∧
    ∀ e ∈ (ended w).skeins, e.2.launch = 1 → e.1 = 1 := by decide +kernel

/-! ### Witnesses: switching, abort and failover -/

/-- A group of one skein at rest, of a launch in a context with a quantum, which has expired when `due`. -/
def resting (due : Bool) : State :=
  let s := launching []
  let y := { sk plain with
    lr := smallRecord
    quantum := 5
    save := 0x4000000
    front := { (sk plain).front with run := .ended } }
  { s with
    clk := 9
    launches := [(1, { waitingLaunch with
      waiting := []
      quanta := [(0, if due then 4 else 8)]
      expired := [0] }), (2, { waitingLaunch with lr := { smallRecord with ctx := 1 } })]
    skeins := [(1, y)]
    fibres := [(1, { fb plain with
      sk := 1
      run := .parked (.knot 0) (posAt 8) })] }
theorem witness_quantum : ∀ due ∈ [true, false], Inv (resting due) = true ∧
    (sk (resting due)).quantum = 5 ∧ OnlyInGroup (resting due) 1 0 1 (sk (resting due)) ∧
    allResident ((resting due).groupSkeins 1 0) = true ∧ ((tget (resting due).launches 1).bind (fun l =>
      tget l.quanta 0)) = some (if due then 4 else 8) := by unfold OnlyInGroup; decide +kernel
theorem witness_switch_out : (resting true).othersWait 1 0 = true ∧
    OnlyInGroup (resting true) 1 0 1 (sk (resting true)) ∧ (sk (resting true)).run = .resident ∧
    ((resting true).fibres.all (fun e => e.2.loads == [] && e.2.stores == [] && e.2.steers == [] &&
      e.2.run == .parked (.knot 0) (posAt 8))) = true ∧ (sk (resting true)).front.loads = [] ∧
    (sk (resting true)).front.stores = [] ∧ (sk (resting true)).chans = [] ∧ (sk (resting true)).tops = [] ∧
    (sk (resting true)).slots = [] ∧ (resting true).flushed 0 5 = true ∧ ((resting true).core 0).regions = [] ∧
    (resting true).inCharge 3 = true ∧ (tget (resting true).launches 1).any (fun l => l.expired == [0] &&
      l.leaving == []) = true ∧ (resting true).skeinsOnCores [0] = [(1, sk (resting true))] ∧
    (sk (resting true)).saved = [] ∧ (resting true).regs = [] ∧ (resting true).insvc = 0x1F ∧
    4 * smallRecord.rows * smallRecord.regs * smallRecord.span + smallRecord.stash + 16384 * smallRecord.tiles +
      smallRecord.clen ≤ 0x200000 ∧ (resting true).pools = [] := by
  unfold OnlyInGroup; decide +kernel

/-- The same group, switched out. -/
def switched : State :=
  let s := resting true
  { s with
    skeins := s.skeins.map (fun e => (e.1, { e.2 with
      run := .switchedOut none
      front := { e.2.front with run := .saved } }))
    fibres := s.fibres.map (fun e => (e.1, { e.2 with run := .saved none })) }
theorem witness_switch_in : Inv switched = true ∧ OnlyInGroup switched 1 0 1 (sk switched) ∧
    (sk switched).slots = [] ∧ switched.fibresOf 1 = [1] ∧ (sk switched).run = .switchedOut none ∧
    switched.inCharge 3 = true ∧ switched.imageChanged (sk switched) = false ∧ (sk switched).front.run = .saved ∧ (fb switched).run = .saved none ∧
    (placeGroups switched 1 (switched.queue 3) smallRecord [[0]]).any (fun y =>
      (y.holds.drop switched.layout.holds.length).all (fun h => h.idx == 0 && (switched.core h.core).regions == [] &&
        (switched.core h.core).bins.length < 32 && decide (switched.stashNeed h.core [] smallRecord.stash ≤ 524288)) &&
      y.holds.length == switched.layout.holds.length + 1) = true ∧
    ∀ e ∈ switched.skeins, e.2.launch = 1 → e.1 = 1 := by unfold OnlyInGroup; decide +kernel
theorem witness_abort : ((resting true).launchAt 3 0).isSome = true ∧ (resting true).inCharge 3 = true ∧
    (resting true).launches.all (fun e => e.2.leaving == []) = true ∧ (resting true).abusy = false ∧
    ({ resting true with abusy := true } : State).abusy = true ∧ 1 ∈ (resting true).cps ∧ 0 ∈ ({ resting true with
      cps := [0] } : State).cps ∧ (resting true).stopped = false := by decide +kernel

/-- An aborted launch whose one skein has drained. -/
def aborting : State :=
  let s := ended []
  { s with
    launches := s.launches.map (fun e => (e.1, { e.2 with aborting := true }))
    skeins := s.skeins.map (fun e => (e.1, { e.2 with run := .stopping })) }
theorem witness_abort_done : Inv aborting = true ∧ aborting.launches.map (fun e => e.1) = [1] ∧
    aborting.launches.all (fun e => e.2.aborting && e.2.waiting == []) = true ∧ (aborting.core 0).regions = [] ∧
    (∀ e ∈ aborting.skeins, e.2.run = .stopping ∧ aborting.drained e.1 e.2 = true ∧ e.2.slots = [] ∧
      aborting.fibresOf e.1 = [] ∧ aborting.flushed e.2.core 5 = true) := by decide +kernel

/-! ### Witnesses: stop records, commands and the watchdog -/

/-- A fibre stopped for system software, its front context stopped too, and the ring of stop records enabled. -/
def stopped (en : Bool) : State :=
  let s := fib 0 (fun f => { f with run := .stopped none }) (fun x =>
    { x with front := { x.front with run := .stopped none } })
  { s with
    strands := []
    dies := [(0, { sq := { en := en, base := 0x8000000000 }, stops := [stopRecord (sk s) 0 0 0 {}], sbusy := false })] }
/-- A command for the fibre, or for the front context, with a register number. -/
def target (front : Bool) (reg : BitVec 16) : StopTarget := { core := 0, slot := 0, fibre := 0, front := front, reg := reg }
theorem witness_stop_record : Inv (stopped true) = true ∧ ((stopped true).die 0).stops.length = 1 ∧
    ((stopped true).die 0).stops.all (fun r => r.words.length == 8) = true ∧ RingOpen (stopped true) ((stopped true).die 0).sq 64 ∧
    ((stopped false).die 0).sq.en = false := by unfold RingOpen GoesToMemory; decide +kernel
theorem witness_stop_command : (stopped true).stopCtx 0 (target false 2) = some (.fibre 1, sk (stopped true)) ∧
    MayGoOn (stopped true) 0 1 (fb (stopped true)) (sk (stopped true)) ∧ ((stopped true).die 0).opened = [] ∧
    (fb (stopped true)).run = .stopped none ∧ (fb (stopped true)).loads = [] ∧ ((stopped true).die 0).sbusy = false ∧
    (stopped true).stopCtx 0 (target true 0x202) = some (.front 1, sk (stopped true)) ∧
    (sk (stopped true)).front.run = .stopped none ∧ specialListed 9 = true ∧
    plain.stopCtx 0 (target false 2) = some (.fibre 1, sk plain) ∧ plain.isStopped (.fibre 1) = false := by
  unfold MayGoOn; decide +kernel

/-- A held skein, and a halted one. -/
def heldSkein (r : SkeinRun) (h : Bool) : State := { plain with
  fibres := []
  strands := []
  skeins := [(1, { sk plain with
    run := r
    halted := h })] }
theorem witness_release : ((heldSkein (.held 2) false).stopSkein 0 (target true 0)).any (fun e =>
      e.2.run == .held 2) = true ∧
    ((heldSkein .resident true).stopSkein 0 (target true 0)).any (fun e => e.2.run == .resident && e.2.halted) = true ∧
    (heldSkein .resident true).fibresOf 1 = [] := by decide +kernel

/-- A halted skein whose fibre was halted at its word or at a wait. -/
def haltedAt (w : Option (Wait × Pos)) : State :=
  let s := fib 0 (fun f => { f with run := .halted w }) (fun x => { x with halted := true })
  { s with strands := [] }
theorem witness_release_fibre : ∀ w ∈ [none, some (Wait.knot 0, posAt 8)], Inv (haltedAt w) = true ∧
    (haltedAt w).stopSkein 0 (target true 0) = some (1, sk (haltedAt w)) ∧ (haltedAt w).fibresOf 1 = [1] ∧
    (fb (haltedAt w)).run = .halted w ∧ (fb (haltedAt w)).sk = 1 ∧ (sk (haltedAt w)).halted = true ∧
    (sk (haltedAt w)).run = .resident ∧ ((haltedAt w).core 0).bins.length < 32 := by decide +kernel

/-- A command in progress, which ends fibre 1 or nothing. -/
def inProgress (f : Option Nat) (l : List Store) : State :=
  let s := fib 0 (fun f => { f with stores := l }) id
  { s with dies := [(0, { sbusy := true, ending := f })] }
theorem witness_done : ((inProgress none []).die 0).ending = none ∧ ((inProgress (some 1) []).die 0).sbusy = true ∧
    (fb (inProgress (some 1) [])).stores = [] ∧ (fb (inProgress (some 1) [])).steers = [] ∧
    (fb (inProgress (some 1) [fourBytes (.stash 0)])).stores ≠ [] := by decide +kernel

/-- A skein whose watchdog counter is `n`. -/
def watched (n : Nat) : State :=
  let s := fib 0 id (fun x => { x with dog := n })
  { s with wdlim := 5 }
theorem witness_watchdog : Inv (watched 5) = true ∧ (watched 5).wdlim.toNat ≤ (sk (watched 5)).dog ∧
    bitOf (sk (watched 5)).ctl.toNat 21 = false ∧ (fb (watched 5)).run.live = true ∧
    (sk (watched 4)).dog < (watched 4).wdlim.toNat ∧ (sk (watched 5)).watched = true ∧ (sk (watched 4)).watched = true := by
  decide +kernel

/-! ### Witnesses: faults, invalidations and regions -/

/-- A fault of fibre 1 that waits to be posted. -/
def faultWait : FaultWait :=
  { ctx := 0, va := 0x8000, cause := .translation 1, src := 0, write := true, core := 0, chan := 0,
    agent := .ctx (.fibre 1), tr := {}, pos := posAt 8 }
/-- Its record, when it is posted. -/
def faultOpen : FaultOpen :=
  { tag := 7, ctx := 0, page := 1, cause := .translation 1, stoppers := [.ctx (.fibre 1)] }
/-- A fibre with a fault to be posted. -/
def faulted : State :=
  let s := fib 0 (fun f => { f with run := .faulting }) id
  { s with
    strands := []
    dies := [(0, { fq := { en := true, base := 0x8000000000 }, waits := [faultWait] })] }
/-- A fibre stopped by a fault. -/
def faultStopped : State :=
  let s := fib 0 (fun f => { f with run := .stopped (some 7) }) id
  { s with
    strands := []
    dies := [(0, { opened := [faultOpen] })] }
theorem witness_fault : Inv faulted = true ∧ tget faulted.fibres 1 = some (fb faulted) ∧
    (faulted.die 0).waits = [faultWait] ∧ (faulted.die 0).opened = [] ∧ RingOpen faulted (faulted.die 0).fq 32 ∧
    Inv faultStopped = true ∧ (faultStopped.die 0).opened = [faultOpen] ∧
    MayGoOn faultStopped 0 1 (fb faultStopped) (sk faultStopped) ∧ (fb faultStopped).run = .stopped (some 7) := by
  unfold RingOpen GoesToMemory MayGoOn; decide +kernel

/-- An invalidation in progress, which waits for a store or for nothing. -/
def invalidating (l : List (Ctx × Nat)) : State :=
  let s := storing (.mem word16 none) 0
  { s with dies := [(0, { inval := some { kind := 0, ctx := 0, addr := 0, len := 8, stores := l } })] }
theorem witness_invalidation : Inv (invalidating []) = true ∧ (plain.die 0).inval = none ∧
    (∀ l ∈ [[], [(Ctx.fibre 1, 3)]], ((invalidating l).die 0).inval.isSome = true ∧
      ((invalidating l).die 0).inval.any (fun v => v.loads == [] && v.stores == l && v.remotes == []) = true) ∧
    (invalidating []).packets = [] ∧
    ((invalidating []).storesOf (.fibre 1)).any (fun y => y.id == 3) = true := by decide +kernel

/-- The window of die 0 ends, with one region. -/
def windowing (r : Region) : State := { plain with
  clk := 65536
  regions := [r] }
/-- A region of home die 0. -/
def aRegion (now before : List Nat) (moving : Option Nat) : Region :=
  { base := 0x120000, size := 256, holder := 0, now := now, before := before, moving := moving }
theorem witness_region : ∀ r ∈ [aRegion [0, 1] [] none, aRegion [1] [1] none, aRegion [1] [] (some 1)],
    Inv (windowing r) = true ∧ (windowing r).homeDie r.base = 0 ∧ 128 < r.size ∧
    65536 * ((tget (windowing r).windows 0).getD 0 + 1) ≤ (windowing r).clk.toNat ∧ (windowing r).packets = [] := by
  decide +kernel
/-- Two halves that nobody has accessed since they were split. -/
def halves : State :=
  let r : Region := { base := 0x120000, size := 256, holder := 0 }
  { plain with
    clk := 2 ^ 21
    regions := [r, { r with base := 0x120100 }] }
theorem witness_merge : Inv halves = true ∧ halves.homeDie 0x120000 = 0 ∧ halves.homeDie 0x120100 = 0 ∧
    0x120000 % (2 * 256) = 0 ∧ 2 ^ 20 ≤ halves.clk.toNat ∧ 65536 ≤ halves.clk.toNat ∧ halves.insvc.getLsbD 0 = true := by
  decide +kernel

/-- A region that moves to die 1, with its first line in the L2 of die 0, and a packet to its holder or none. -/
def movingRegion (l : List Packet) : State := { plain with
  regions := [aRegion [] [] (some 1)]
  l2 := [(0x2400, { die := 0, dirty := 1 })]
  packets := l }
theorem witness_move : Inv (movingRegion []) = true ∧ (movingRegion []).regs = [] ∧ lineOf 0x120000 = 0x2400 ∧
    ((movingRegion []).l2Set 1 0x2400).length < 24 := by decide +kernel
theorem witness_window_open : ({ windowing (aRegion [] [] none) with clk := 0 } : State).clk.toNat < 65536 := by decide

/-! ### Witnesses: packets, removal and remote requests -/

/-- A write packet from die 1 to die 0. -/
def packet (at_ : PacketAt) (inc : BitVec 8) (n : BitVec 12) : Packet :=
  { src := 1, dst := 0, origin := 64, inc := inc, stamp := [0, n, 0, 0, 0], access := word16, data := [1, 2, 3, 4],
    writer := none, at_ := at_ }
/-- The packet releases a store of fibre 1 that stays on ST. -/
def releasing : Packet := { packet .applied 0 1 with release := some (.fibre 1, 3) }
theorem witness_move_waits : let k := packet .flight 0 1
    k.dst = (aRegion [] [] (some 1)).holder ∧ k.at_ ≠ .applied ∧ k.access.pa < 0x120000 + 256 ∧
    0x120000 < k.access.pa + k.data.length := by decide
/-- It is the only packet. -/
def sending (k : Packet) : State := { plain with packets := [k] }
theorem witness_packet : (∀ k ∈ [packet .flight 0 1, packet .flight 1 1, packet .flight 0 2, packet .early 0 2,
      packet .applied 0 1, packet .lost 0 1], Inv (sending k) = true ∧ (sending k).packets = [k] ∧
      k.acked = false ∧ k.release = none ∧ (sending k).insvc.getLsbD 0 = true) ∧
    PacketPasses (sending (packet .flight 0 1)) (packet .flight 0 1) ∧
    ¬ PacketPasses (sending (packet .flight 0 2)) (packet .flight 0 2) ∧
    tgetD ((sending (packet .flight 0 1)).die 0).incs 1 0 = 0 ∧
    InMemory (sending (packet .flight 0 1)) word16 := by
  unfold PacketPasses coversMod InMemory; decide +kernel
theorem witness_removal : Inv plain = true ∧ plain.hstate = 0 ∧ plain.insvc.getLsbD 0 = true ∧ plain.packets = [] ∧
    plain.regs = [] ∧ plain.regions = [] ∧ plain.maps = [] ∧ plain.pools = [] ∧ (sk plain).core / 64 = 0 ∧
    (sk plain).holding = true ∧ (sending releasing).packets.all (fun k => k.release == some (.fibre 1, 3)) = true ∧
    (fb (sending releasing)).stores = [] ∧ ({ plain with insvc := 0x1E } : State).insvc.getLsbD 0 = false := by decide +kernel

/-- The event queue lies in host memory, and a packet is under way. -/
def removing (k : Packet) : State :=
  let s := sending k
  { s with eq := { s.eq with
      en := true
      base := 0x8000000000 } }
theorem witness_removal_of_packet : (∀ k ∈ [packet .flight 0 1, packet .early 0 2],
      Inv (removing k) = true ∧ (removing k).packets = [k] ∧ k.dst = 0 ∧ k.src = 1 ∧ k.src < 5 ∧ k.release = none) ∧
    EventsOpen (removing (packet .flight 0 1)) ∧
    (removing (packet .early 0 2)).homeGone (packet .early 0 2).access.pa = false ∧
    (removing (packet .early 0 2)).homeDie (packet .early 0 2).access.pa ≠ 1 ∧
    isPackage ((removing (packet .flight 0 1)).eq.slotAddr 32) = false := by
  unfold EventsOpen GoesToMemory; decide +kernel

/-- A buffer's bytes are exported to device 5, of which a line is held or not. -/
def exporting (held : Bool) : State := { plain with
  exports := [(0, { base := 0x24, len := 0x8000, src := 0x50005, rt := 15 })]
  packets := if held then [packet .early 0 2] else [] }
/-- A request of that device. -/
def request (op : RemoteOp) : RemoteReq := { src := 5, inc := 0, pa := 0x120010, op := op }
theorem witness_remote_request : (∀ op ∈ [RemoteOp.read 4, .write [1, 2], .atomic 0 4 1 0 true, .reduce 0 [1]],
      (exporting false).exports.any (fun e => e.2.grants 5 0x120010 op) = true ∧
      InMemory (exporting false) (unitAccess 0x120010 (remoteBytes op)) ∧
      (exporting false).outsideHeld 0x120010 (remoteBytes op) (remoteWrites op) = false ∧ 1 ≤ remoteBytes op) ∧
    Inv (exporting false) = true ∧ (exporting false).devinc = 0 ∧ isPackage 0x120010 = true ∧
    (exporting true).outsideHeld 0x120010 4 false = true ∧ plain.exports = [] := by unfold InMemory; decide +kernel

/-- A fibre's load waits for device 5; it was sent at 0, and RTMO is 10. -/
def remoteLoad (clk : DWord) (use : RemoteUse) : State :=
  let s := oneLoad (.remote word16 .waiting)
  { s with
    clk := clk
    rtmo := 10
    eq := { s.eq with
      en := true
      base := 0x8000000000 }
    remotes := [(4, { dev := 5, pa := 0x1000, use := use, sent := 0 })] }
theorem witness_remote_load : Inv (remoteLoad 10 (.load (.fibre 1) 5)) = true ∧
    (tget (remoteLoad 10 (.load (.fibre 1) 5)).fibres 1).any (fun f => f.loads.length == 1 && f.loads.all (fun y =>
      y.id == 5 && y.src == .remote word16 .waiting)) = true ∧ (remoteLoad 10 (.load (.fibre 1) 5)).rtmo.toNat = 10 ∧
    (remoteLoad 9 (.load (.fibre 1) 5)).clk.toNat < 10 ∧
    (remoteLoad 0 (.store 0 0 none)).eq.full = false ∧
    isPackage ((remoteLoad 0 (.store 0 0 none)).eq.slotAddr 32) = false ∧ tget plain.remotes 4 = none := by
  decide +kernel
theorem witness_only_due : OnlyDue (remoteLoad 10 (.load (.fibre 1) 5)) 4
    { dev := 5, pa := 0x1000, use := .load (.fibre 1) 5, sent := 0 } ∧ EventsOpen (remoteLoad 10 (.store 0 0 none)) ∧
    OnlyDue (remoteLoad 10 (.store 0 0 none)) 4 { dev := 5, pa := 0x1000, use := .store 0 0 none, sent := 0 } := by
  unfold OnlyDue EventsOpen GoesToMemory; decide +kernel

/-- Two stores of one context to one device, in one line or two, are lost together. -/
def twoStores (pa : Nat) : State :=
  let s := remoteLoad 10 (.store 0 0 none)
  { s with remotes := s.remotes ++ [(5, { dev := 5, pa := pa, use := .store 0 0 none, sent := 0 })] }
theorem witness_lost_together : ∀ pa ∈ [0x1008, 0x1080], (twoStores pa).remotes.map (fun e => (e.1, e.2.dev,
    decide (e.2.sent + (twoStores pa).rtmo.toNat ≤ (twoStores pa).clk.toNat))) = [(4, 5, true), (5, 5, true)] := by
  decide +kernel

/-- A reel line waits for a remote piece, of a read or a reduction. -/
def reelWaiting (clk : DWord) (use : RemoteUse) : State :=
  let c := command 6 vector16 (pageEntry 3 0) 0
  let s := working c 0
  { s with
    clk := clk
    rtmo := 10
    eq := { s.eq with
      en := true
      base := 0x8000000000 }
    remotes := [(4, { dev := 5, pa := 0x1000, use := use, sent := 0 })] }
theorem witness_reel_answer : ∀ u ∈ [RemoteUse.reel 1 1 0 0, .reduce 1 1 0 0 0], ∀ t ∈ [9, 10],
    Inv (reelWaiting (BitVec.ofNat 64 t) u) = true ∧ ((sk (reelWaiting (BitVec.ofNat 64 t) u)).chan 1).cmds.map (fun c => c.id) = [0] ∧
    EventsOpen (reelWaiting (BitVec.ofNat 64 t) u) := by unfold EventsOpen GoesToMemory; decide +kernel
theorem witness_ports : ({ plain with portup := 1 } : State).portup.getLsbD 0 = true ∧ plain.portup.getLsbD 0 = false ∧
    plain.remotes = [] ∧ plain.eq.full = false := by decide +kernel

/-! ### Witnesses: banks, memory errors and units -/

/-- A bank with one request, where row 3 is in slot 3 and row 5000 in none. -/
def banking (r : BankReq) : State := { plain with
  banks := [(0, { queue := [r], last := some 3 })] }
theorem witness_bank : Inv (banking { row := 3, op := 0, cls := .f }) = true ∧
    (∀ op ∈ [0, 1, 2, 3], (tgetD (banking { row := 3, op := op, cls := .c }).banks 0 {}).queue.length = 1) ∧
    (tgetD (banking { row := 3, op := 0, cls := .f }).banks 0 {}).slotOf 3 = some 3 ∧
    (tgetD (banking { row := 3, op := 0, cls := .f }).banks 0 {}).slotOf 5000 = none ∧
    requestClass (plain.stack 0) { row := 0, op := 0, cls := .s } = some .s ∧
    requestClass (plain.stack 0) { row := 0, op := 3, cls := .s } = none := by decide +kernel
/-- A bank with a request for row 5000, which is slow, with an alert or not. -/
def swapping (a : Bool) : State := { plain with
  banks := [(0, { queue := [{ row := 5000, op := 0, cls := .c }], alert := a })] }
theorem witness_swap : ∀ a ∈ [true, false], Inv (swapping a) = true ∧ (tgetD (swapping a).banks 0 {}).hand < 2048 ∧
    (swapping a).alerted 0 = a ∧ ((tgetD (swapping a).banks 0 {}).slotOf 5000).isNone = true := by decide +kernel
theorem witness_refresh_channel : (tgetD ({ plain with channels := [(1, { issued := 63, train := 0 })] } : State).channels 1
    {}).issued + 1 = (plain.stack 0).rtint.toNat := by decide +kernel
theorem witness_refresh : 0 < (tgetD ({ plain with pseudos := [(3, { owed := 8 })] } : State).pseudos 3 {}).owed ∧
    (tgetD plain.pseudos 3 {}).owed = 0 := by decide +kernel
theorem witness_memory_errors : isPackage (0x9000 * 32) = true ∧ isPackage (2 ^ 51 / 32 * 32) = false ∧
    ({ plain with channels := [(0, { errors := [(2, 16)], spares := 1 })] } : State).repairDue 0 2 = true ∧
    ({ plain with channels := [(0, { errors := [(2, 16)], spares := 0 })] } : State).repairDue 0 2 = true ∧
    plain.repairDue 0 2 = false ∧ plain.idlock = false ∧ ({ plain with idlock := true } : State).idlock = true := by
  decide +kernel
theorem witness_l2 : tget ({ plain with l2 := [(0x2400, { die := 0, dirty := 1 })] } : State).l2 0x2400 =
      some { die := 0, dirty := 1 } ∧ tget plain.l2 0x2400 = none ∧
    tget ({ filling with regs := [(0x2400, { map := 5, sline := 0, offs := [(3, 3)] })] } : State).regs 0x2400 =
      some { map := 5, sline := 0, offs := [(3, 3)] } := by decide +kernel
theorem witness_cluster : tableWf plain.pools = true ∧ (sk plain).run = .resident ∧ (sk plain).core / 8 = 0 ∧
    (storing (.pool 0) 0).pools.all (fun e => e.2.clus == 0 && (tget (storing (.pool 0) 0).launches e.2.launch).isSome) =
      true := by decide +kernel
theorem witness_repair : plain.rbusy = false ∧ plain.groupsOn 1 = [] ∧
    ({ plain with
      rbusy := true
      rcore := some 1 } : State).coreEmpty 1 = true := by decide +kernel

/-- Two skeins on two cores of a plane have begun a ply. -/
theorem witness_begun_on : PlyBegunOn (sixteen true) 1 0 (fun k => k ≠ 0) ∧ PlyBegunOn (sixteen true) 1 0 (fun k => k / 8 ≠ 0) := by
  let g := fun (i : Nat) => (((sixteen true).begunPly 1 0)[i]?).getD (0, engineOp ⟨2, 0, 5, 1, 4⟩)
  exact ⟨⟨g 1, by decide +kernel, (tget (sixteen true).skeins (g 1).1).getD (sk front), by decide +kernel, by decide +kernel⟩,
    ⟨g 15, by decide +kernel, (tget (sixteen true).skeins (g 15).1).getD (sk front), by decide +kernel, by decide +kernel⟩⟩
theorem witness_boot : BootPasses [] ∧ ¬ BootPasses [{ register := 0, bytes := [], version := 0, key := 0, signature := [] }] := by
  refine ⟨fun j i h => by simp at h, fun h => ?_⟩
  have := (h 0 _ rfl).1
  simp at this

/-! ### Witnesses: the package, registers, the host and the interfaces -/

theorem witness_package : plain.stopped = false ∧ (1 : Nat) ≤ (1#8).toNat ∧ (1#8).toNat ≤ 5 ∧ 5 < (6#8).toNat ∧
    (plain.die 0).wear.toNat < (7#10).toNat := by decide +kernel
theorem witness_registers_written : plain.recovery = false ∧ plain.inService 0 = true ∧
    ({ plain with insvc := 0x1E } : State).inService 0 = false ∧
    regBlock (Config.frontEndBase + 0x30) = some (1, 0, 0x30) ∧ regBlock (Config.translationBase 2 + 0x148) = some (2, 2, 0x148) ∧
    regBlock (Config.memoryBase + 0x10) = some (3, 0, 0x10) ∧ regBlock Config.hahanBase = some (4, 0, 0) ∧
    regBlock Config.krytistBase = some (5, 0, 0) ∧ regBlock Config.healthBase = some (7, 0, 0) ∧
    regBlock Config.securityBase = some (6, 0, 0) ∧ regBlock Config.regBase = some (0, 0, 0) ∧ regBlock 0 = none := by
  decide +kernel

/-- A TDI of a state and stream 1 that has context 0. -/
def interface (st : TdiState) (s : State) : State := { s with
  tdis := [(2, { state := st, stream := 1, ctxs := [0], queues := [3] })] }
theorem witness_host : rangeIn isHost (2 ^ 51) 4 = true ∧ rangeIn isPackage 0x120010 4 = true ∧
    rangeIn isRegister (Config.frontEndBase + 0x30) 8 = true ∧ (Config.frontEndBase + 0x30) % 8 = 0 ∧
    rangeIn isHost 0x120010 4 = false ∧ (exporting true).streamMay 0 0x120010 4 = true ∧
    plain.outsideHeld 0x120010 4 true = false ∧ InMemory plain (unitAccess 0x120010 4) ∧ (∀ e ∈ plain.tdis, e.2.state ≠ .run) := by
  unfold InMemory; decide +kernel
theorem witness_host_nowhere : (List.range 52).any (fun i => !isHost (2 ^ i) && !isPackage (2 ^ i) && !isRegister (2 ^ i)) =
    true := by decide +kernel
theorem witness_interface : (interface .unlocked plain).owned 0 = false ∧ (interface .run plain).owned 0 = true ∧
    (interface .locked plain).slotRead 2 = false ∧
    (interface .run (working (command 5 vector16 (pageEntry 0 2) 0) 0)).slotRead 2 = true ∧
    tableWf (interface .run plain).launches = true ∧ (interface .run plain).launches.all (fun e => e.2.lr.ctx == 0) =
      true := by decide +kernel
theorem witness_steps : nextTurn (ticked (State.reset.withSkein false 0x1C521400)) = some (.issue (.strand 1)) ∧
    (State.reset.withSkein false 0x1C521400).stopped = false := ⟨rfl, by decide +kernel⟩

/-- The turn of a message or of a request that waits. -/
def arriving (t : Turn) : State := { State.reset with
  turn := some t
  agenda := [.getMeasurements]
  waiting := [.keyclr 3] }
theorem witness_turns : (∀ t ∈ [Turn.event .getMeasurements, .again 0], nextTurn (ticked (arriving t)) = some t) ∧
    (arriving (.again 0)).stopped = false ∧ (ticked (arriving (.again 0))).waiting[0]? = some (.keyclr 3) := by
  refine ⟨fun t _ => rfl, by decide +kernel, rfl⟩
/-- In a package that a fatal error stopped the host's write waits its turn. -/
noncomputable def stoppedPackage : State := { plain with
  stopped := true
  agenda := [.registerWrite 0 0] }
theorem witness_stopped : stoppedPackage.turn = none ∧ stoppedPackage.hostWaits = false ∧
    stoppedPackage.agenda.head?.any isHostRequest = true ∧ turnWhenStopped (.issue (.strand 1)) = false := by
  decide +kernel
/-- Some choice of the part gives strand 1 its turn, where it has waited longest. -/
theorem witness_longest : (crowded 8 false).turn = none ∧ Safety.tablesWf (crowded 8 false) = true ∧
    (crowded 8 false).overdue = none ∧ (crowded 8 false).agenda = [] ∧
    (crowded 8 false).issuers.any (fun t => t.issuer == some (.strand 1)) = true ∧
    (crowded 8 false).passedOver 0 0 1 = false := by decide +kernel
theorem witness_issue :
    let s := State.reset.withSkein false 0x1C521400
    (s.clauseOf (.strand 1)).any (fun e => (e.2.1.raw e.1).any (fun r => r.word == 0x1C521400 &&
      onOk (checkWord e.2.2 (Header.ofWord e.2.1.head.toNat).cls.toNat r) (fun i =>
        decide (i = .lui 10 0x21400)))) = true := by decide +kernel
theorem witness_failed_check :
    let s := State.reset.withSkein false 0
    (s.clauseOf (.strand 1)).any (fun e => (e.2.1.raw e.1).any (fun r =>
      !onOk (checkWord e.2.2 7 r) (fun _ => true))) = true := by decide +kernel

/-! ### Ill-formed instructions (02 R56 and the code tables of the files) -/

/-- Shift amounts beyond 31, a pair of types that `cvt` has not, scope 6 of `lda` and `stl` (03 R77 R88, 05 R140). -/
theorem test_ill_formed_codes : [Instr.shli 1 2 32, .shriN32 1 2 32, .shriI32 1 2 63, .rotli 1 2 32, .cvt 1 2 3 3,
    .ldaN8 1 2 3 6, .ldaI8 1 2 3 6, .ldaN16 1 2 3 6, .ldaI16 1 2 3 6, .ldaB32 1 2 3 6, .ldaB64 2 2 3 6,
    .ldaB128 4 2 3 6, .stlB8 1 2 3 6, .stlB16 1 2 3 6, .stlB32 1 2 3 6, .stlB64 2 2 3 6,
    .stlB128 4 2 3 6].all (fun i => !i.wf) = true := by decide +kernel
/-- A fence with scope 6, or with flags that its flag bit does not announce (05 R144). -/
theorem test_ill_formed_fences : [Instr.fenceAcq 0 6 0 0 0, .fenceRel 0 6 0 0 0, .fenceAcqrel 0 6 0 0 0,
    .fenceSc 0 6 0 0 0, .fenceAcq 1 0 0 0 0, .fenceRel 0 0 1 0 0, .fenceAcqrel 0 0 0 1 0, .fenceSc 0 0 0 0 1].all
    (fun i => !i.wf) = true := by decide +kernel
/-- Sliver format 3; a knot named without its bit; `reel.wp` with equal registers (07 R199, 08 R216 R226). -/
theorem test_ill_formed_engines : [Instr.sstSliv 2 4 3, .sldSliv 2 4 3, .reelGet 2 4 1 0 0, .reelPut 2 4 1 0 0,
    .reelPget 2 4 1 0 0, .reelPput 2 4 1 0 0, .reelExp 2 4 1 0 0, .reelDec 2 4 1 0 0, .reelRget 2 4 1 0 0,
    .reelRred 2 4 1 0 0, .reelWp 3 3 0].all (fun i => !i.wf) = true := by decide +kernel
/-- Knot 15, which stands for no knot, in the knotted forms (09 R246). -/
theorem test_ill_formed_tiles : [Instr.mmaKnotted 0 1 2 15 0 0, .mmzKnotted 0 1 2 15 0 0, .plyKnotted 0 1 2 15 0 0,
    .tldKnotted 0 15 0 0 0, .tstKnotted 0 15 0 0, .tzeroKnotted 0 15, .tsclKnotted 0 15, .tcvtKnotted 0 1 15,
    .trd 0 4 15 0, .twr 0 4 15 0, .tstatKnotted 0 4 15 0].all (fun i => !i.wf) = true := by decide +kernel
/-- Types and operations of `dred` and `dget`, a condition of `cmps`, special registers (08 R235 R206, 01 R15). -/
theorem test_ill_formed_specials : [Instr.dred 1 3 0, .dred 1 0 3, .dget 1 3 0, .dget 1 0 3, .cmps 1 2 6, .rsr 1 7,
    .rsrFront 1 0x11, .wsr 1 0x26, .wsrFront 1 0x10].all (fun i => !i.wf) = true := by decide +kernel

/-! ### Words -/

/-- A word from its fields: the lowest bit and the value of each. -/
def word (l : List (Nat × Nat)) : Nat := (l.map (fun e => e.2 * 2 ^ e.1)).sum
/-- Words of the examples of 02, 03 and 04. -/
theorem test_words_arithmetic : readsAs false 0x1C1891A3 (.lui 3 0x91A3) = true ∧
    readsAs false 0x08183800 (.addi 3 3 0x800) = true ∧ readsAs false 0x08183E78 (.addi 3 3 0xE78) = true ∧
    readsAs false 0x18184805 (.shriI32 3 4 5) = true ∧ readsAs false 0x281840AE (.cmpLtF32 3 4 5) = true ∧
    readsAs false 0x5018950C (.cvt 3 9 10 12) = true ∧ readsAs false 0x64305101 (.xredAddF32 6 5 1) = true ∧
    readsAs false 0x60387110 (.xshflDown 7 7 8 0) = true ∧ readsAs false 0x85203FFD (.bruP 2 0 0x3FFD) = true := by
  decide +kernel
/-- Words from the tables of 03: major at 26, vd at 19, va at 12, vb at 5, fn at 0. -/
theorem test_words_tables : readsAs false (word [(26, 1), (19, 3), (12, 1), (5, 2), (0, 22)]) (.bfxN32 3 1 2) = true ∧
    readsAs false (word [(26, 3), (19, 3), (12, 1), (0, 0xFFF)]) (.andi 3 1 0xFFF) = true ∧
    readsAs false (word [(26, 8), (19, 3), (0, 0x7FFFF)]) (.movi 3 0x7FFFF) = true ∧
    readsAs false (word [(26, 9), (19, 4), (12, 2), (5, 6), (0, 9)]) (.shlB64 4 2 6) = true ∧
    readsAs false (word [(26, 0xB), (19, 3), (12, 1), (5, 2), (0, 3)]) (.pandn 3 1 2) = true ∧
    readsAs false (word [(26, 0xC), (19, 3), (12, 1), (5, 2), (4, 1), (0, 5)]) (.sel 3 1 2 1 5) = true ∧
    readsAs false (word [(26, 0x10), (19, 3), (12, 1), (5, 2)]) (.addF32 3 1 2) = true ∧
    readsAs false (word [(26, 0x11), (19, 4), (12, 2), (0, 7)]) (.negF64 4 2) = true ∧
    readsAs false (word [(26, 0x12), (19, 3), (12, 1), (5, 2), (0, 3)]) (.fmaF16x2 3 1 2) = true ∧
    readsAs false (word [(26, 0x15), (19, 3), (12, 1), (5, 2), (0, 3)]) (.dot4I8x4 3 1 2) = true ∧
    readsAs false (word [(26, 0x16), (19, 3), (12, 1), (4, 0xAB), (0, 1)]) (.mvcAcc 3 1 0xAB) = true := by
  decide +kernel
/-- Words from the tables of 04 and 06: control, knots and waits. -/
theorem test_words_control : readsAs false (word [(26, 0x20), (23, 5), (22, 1), (0, 0x3FFFFF)]) (.bra 5 1 0x3FFFFF) = true ∧
    readsAs false (word [(26, 0x22), (23, 1), (0, 4)]) (.call 1 0 4) = true ∧
    readsAs false (word [(26, 0x25), (24, 1), (0, 7)]) (.exitRelay 7) = true ∧
    readsAs false (word [(26, 0x26), (22, 3), (0, 1)]) (.tie 3) = true ∧
    readsAs false 0x98030000 (.karm 0 6) = true ∧ readsAs false 0x9FFD7000 (.wait 15 15 2 7) = true ∧
    readsAs false 0xE8000000 .barSkein = true ∧ readsAs false 0xEA005001 (.barvDie 5) = true ∧
    readsAs false 0xEA005002 (.barwDie 5) = true := by decide +kernel
/-- Words of the examples of 05 and 07: memory. -/
theorem test_words_memory : readsAs false 0xA440216A (.ldB64 8 2 5 1 0) = true ∧
    readsAs false 0xA4502060 (.ldB32 10 2 1 0 0) = true ∧ readsAs false 0xA8082060 (.stB32 1 2 1 0) = true ∧
    readsAs false 0xAC287063 (.ldaB32 5 7 1 3) = true ∧ readsAs false 0xB0287063 (.stlB32 5 7 1 3) = true ∧
    readsAs false 0xB4206080 (.atomAddI32 4 6 2 0) = true ∧ readsAs false 0xB42060AE (.atomFaddF32 4 6 2 1) = true ∧
    readsAs false 0xB8002304 (.fenceAcq 1 3 1 0 0) = true ∧ readsAs false 0xB8001C00 (.fenceSc 0 4 0 0 0) = true ∧
    readsAs false 0xBC282804 (.sldB32 5 2 4) = true ∧ readsAs false 0xC030AA01 (.sstB64 6 10 1) = true ∧
    readsAs false 0xBCA04000 (.sldN8 20 4 0) = true ∧
    readsAs false (word [(26, 0x31), (19, 3), (12, 1), (9, 4), (0, 2)]) (.cldB32 3 1 2) = true ∧
    readsAs false (word [(26, 0x32), (19, 4), (12, 1), (9, 6), (0, 2)]) (.pldB128 4 1 2) = true ∧
    readsAs true 0x6C418202 (.ldS64 4 6 2 2) = true := by decide +kernel
/-- Words of the examples of 07 and 08: slivers, queues, draft sets and the front context. -/
theorem test_words_engines : readsAs false 0xD142A000 (.sstSliv 40 42 0) = true ∧
    readsAs false 0xD1628001 (.sldSliv 44 40 0) = true ∧ readsAs false 0xD1828002 (.shdr 48 40) = true ∧
    readsAs false 0xD8380004 (.qhpop 7 0) = true ∧ readsAs true 0xD8100000 (.qinit 1 0) = true ∧
    readsAs false 0xE4008000 (.dload 8 0) = true ∧ readsAs false 0xE4011002 (.dred 17 0 0) = true ∧
    readsAs false 0xE4900003 (.dget 18 0 0) = true ∧ readsAs false 0xE4000004 (.dend 0) = true ∧
    readsAs false 0x34180024 (.dqpop 3 1) = true ∧ readsAs true 0xEC2A100F (.dqpush 5 2 4) = true ∧
    readsAs true 0xEC31C20C (.cmps 3 7 2) = true ∧ readsAs true 0xF051FFFF (.movsi 5 0x1FFFF) = true ∧
    readsAs true 0xF0384064 (.cmpiLt 3 1 100) = true ∧
    readsAs true (word [(26, 0x3D), (23, 2), (22, 1), (0, 0xFFFFF)]) (.fbra 2 1 0xFFFFF) = true := by decide +kernel
/-- Words of the examples of 09 and 10: tiles and special registers. -/
theorem test_words_tiles : readsAs true 0xE0807C03 (.mma 2 0 1 1 1) = true ∧
    readsAs false 0xE0804C13 (.mmzKnotted 2 0 1 3 1 1) = true ∧ readsAs true 0xE0083C46 (.tst 2 1 2) = true ∧
    readsAs false 0xE0820480 (.trd 2 8 1 0) = true ∧ readsAs false 0xE0C20495 (.twr 3 8 1 5) = true ∧
    readsAs true 0xE0813CA0 (.tstat 2 4 0) = true ∧ readsAs false 0xE0100840 (.tstKnotted 4 2 0 0) = true ∧
    readsAs true 0xEC40400D (.wtc 4 1) = true ∧ readsAs true 0xF8100202 (.rsrFront 1 2) = true := by decide +kernel

/-! ### Single steps, with the results of the spec's examples -/

/-- A fibre with some registers and sr.fpc. -/
def given (l : List (Nat × Word)) (fpc : Word) : State :=
  fib 0 (fun f => { l.foldl (fun f e => f.set e.1 e.2) f with fpc := fpc }) id
/-- The instruction leaves fibre 1 as a test wants. -/
def leaves (i : Instr) (s : State) (p : Fibre → Bool) : Bool :=
  match exec i s with
  | .next t => (tget t.fibres 1).any p
  | _ => false
/-- 03 R76, example. -/
theorem test_bit_fields : leaves (.bfxN32 3 1 2) (given [(1, 0xDEADBEEF), (2, 0x804)] 0) (fun f => f.reg 3 == 0xEE) = true ∧
    leaves (.bfxI32 3 1 2) (given [(1, 0xDEADBEEF), (2, 0x804)] 0) (fun f => f.reg 3 == 0xFFFFFFEE) = true ∧
    leaves (.bfi 3 1 2) (given [(1, 0xDEADBEEF), (2, 0x804)] 0) (fun f => f.reg 3 == 0xEF0) = true := by decide +kernel
/-- 03 R76, example: the products of 0x80000000 and 0xFFFFFFFF. -/
theorem test_products :
    let s := given [(1, 0x80000000), (2, 0xFFFFFFFF)] 0
    leaves (.mullo 3 1 2) s (fun f => f.reg 3 == 0x80000000) = true ∧
    leaves (.mulhiI32 3 1 2) s (fun f => f.reg 3 == 0) = true ∧
    leaves (.mulhiN32 3 1 2) s (fun f => f.reg 3 == 0x7FFFFFFF) = true := by decide +kernel
/-- A sum wraps, into a register that is also a source (03 R76). -/
theorem test_add_wraps : leaves (.add 1 1 2) (given [(1, 0xFFFFFFFF), (2, 2)] 0) (fun f => f.reg 1 == 1) = true := by
  decide +kernel
/-- 03 R77, example: a constant in three words. -/
theorem test_constant : leaves (.lui 3 0x91A3) (given [] 0) (fun f => f.reg 3 == 0x12346000) = true ∧
    leaves (.addi 3 3 0x800) (given [(3, 0x12346000)] 0) (fun f => f.reg 3 == 0x12345800) = true := by decide +kernel
/-- 03 R79 R83, example: zeros of both signs are equal; integers compare with and without sign. -/
theorem test_compares : leaves (.cmpLtF32 3 4 5) (given [(4, 0x80000000)] 0) (fun f => !f.pred 3) = true ∧
    leaves (.cmpLeF32 3 4 5) (given [(4, 0x80000000)] 0) (fun f => f.pred 3) = true ∧
    leaves (.cmpLtI32 3 4 5) (given [(4, 0x80000000)] 0) (fun f => f.pred 3) = true ∧
    leaves (.cmpLtN32 3 4 5) (given [(4, 0x80000000)] 0) (fun f => !f.pred 3) = true := by decide +kernel
/-- 03 R84, example: 1 + 2^-24 upward and to even, and the sign of an exact zero (01 R28). -/
theorem test_rounding :
    let l : List (Nat × Word) := [(2, 0x3F800000), (3, 0x33800000)]
    leaves (.addF32 1 2 3) (given l 3) (fun f => f.reg 1 == 0x3F800001) = true ∧
    leaves (.addF32 1 2 3) (given l 1) (fun f => f.reg 1 == 0x3F800000) = true ∧
    leaves (.subF32 1 2 2) (given l 3) (fun f => f.reg 1 == 0) = true ∧
    leaves (.subF32 1 2 2) (given l 4) (fun f => f.reg 1 == 0x80000000) = true := by decide +kernel
/-- 01 R35, example: an overflow without its trap, and with it: NONFINITE, and nothing is written. -/
theorem test_overflow :
    let l : List (Nat × Word) := [(18, 0xFF000000), (19, 0x40800000), (20, 7)]
    leaves (.mulF32 20 18 19) (given l 1) (fun f => f.reg 20 == 0xFF800000 && f.fpc == 0x20001) = true ∧
    leaves (.mulF32 20 18 19) (given l 0x201) (fun f => f.reg 20 == 7 && f.fpc == 0x201 &&
      f.tr.cause == 0x10 && f.tr.mask == 1) = true := by decide +kernel
/-- 03 R88, examples: 464.0 to e4m3 under RNE; 300.7 and a NaN to i8 (01 R27 R33). -/
theorem test_conversions :
    leaves (.cvt 3 9 10 12) (given [(9, 0x43E80000)] 1) (fun f => f.reg 3 == 0x7E && f.fpc == 1) = true ∧
    leaves (.cvt 3 9 10 0) (given [(9, 0x4396599A)] 1) (fun f => f.reg 3 == 0x7F) = true ∧
    leaves (.cvt 3 9 10 0) (given [(9, 0x7FC00000)] 1) (fun f => f.reg 3 == 0) = true := by decide +kernel
/-- A sum of four signed products and the accumulator: 10 - 1·1 + 2·3 - 128·2 + 127·1 (03 R90). -/
theorem test_dot : leaves (.dot4I8x4 3 1 2) (given [(1, 0x7F8002FF), (2, 0x01020301), (3, 10)] 0)
    (fun f => (f.reg 3).toInt == 10 - 1 + 6 - 256 + 127) = true := by decide +kernel
/-- 03 R95, example: an exact sum over members of which a chain of additions would lose 2. -/
theorem test_exact_sum :
    let v : Word → Fibre → Fibre := fun w f => f.set 5 w
    (match exec (.xredAddF32 6 5 0) (pair (v 0x4B800000) (v 0xCB7FFFFF) id) with
      | .next t => t.fibres.all (fun e => e.2.reg 6 == 0x3F800000)
      | _ => false) = true := by decide +kernel
/-- 04 R101: a taken branch goes to its clause header plus four times the offset. -/
theorem test_branch : leaves (.bra 0 0 0x3FFFFD) plain (fun f => f.pos.hdr == BitVec.ofInt 51 (-12)) = true ∧
    leaves (.bra 0 1 0x3FFFFD) plain (fun f => f.pos.hdr == 8) = true := by decide +kernel
/-- 04 R121 R122: a breakpoint without a route stops its fibre, with the record of its word. -/
theorem test_trap : leaves (.trap 9) plain (fun f => f.run == .stopped none && f.tr.mask == 1 && f.tr.pc == 4) = true := by
  decide +kernel
/-- 07 R176: a load of the stash, through its queue, reads bytes with the lowest first. -/
theorem test_stash : leaves (.loadComplete (.fibre 1) 5) (oneLoad (.stash 4)) (fun f => f.loads == []) = true ∧
    leaves (.storePerformed (.fibre 1)) (storing (.stash 8) 0) (fun f => f.stores == []) = true ∧
    (match exec (.storePerformed (.fibre 1)) (storing (.stash 8) 0) with
      | .next t => (List.range 4).map (t.stashByte 1 <| 8 + ·) == [1, 2, 3, 4]
      | _ => false) = true := by decide +kernel
/-- 05 R141: an atomic adds to memory and returns what was there. -/
theorem test_atomic : (match exec (.storePerformed (.fibre 1)) { storing (.atom word16 0 1 0 none) 0 with
      mem := [(0x120010, 100)] } with
    | .next t => t.readMem 0x120010 4 == 100 + 0x04030201
    | _ => false) = true := by decide +kernel
/-- 08 R234, example: rank 0 of the lengths 5, 0 and 2 is dealt (2, 1) as its third iteration, and no fourth. -/
theorem test_dealt :
    let m := fun (k len c : Nat) => ({ fib := k, start := 0, len := len, cursor := c } : DraftMember)
    let s := fun (c : Nat) => tying 1 { isOpen := true, n := 3, total := 7, members := [m 1 5 c, m 8 0 0, m 9 2 0] }
    leaves (.dnext 10 2) (s 2) (fun f => f.reg 10 == 1 && f.reg 11 == 2 && f.pred 2) = true ∧
    leaves (.dnext 10 2) (s 3) (fun f => !f.pred 2) = true := by decide +kernel
/-- 13 R321, example: the first three draws of the lottery's generator. -/
theorem test_seed : nextSeed 1 = 0x00042021 ∧ nextSeed 0x00042021 = 0x04080601 ∧ nextSeed 0x04080601 = 0x9DCCA8C5 := by
  decide +kernel
/-- 14 R335, example: the bank of an address in a slice of the package hash. -/
theorem test_address : State.reset.stackOf 0x1234577880 = 0 ∧ State.reset.homeDie 0x1234577880 = 0 ∧
    State.reset.bankOf 0x1234577880 = (17 * 2 + 1) * 16 + 2 := by decide +kernel
/-- 14 R339, example: a C load of row 9,029 skips slot 100, clears F in slot 101 and takes slot 102. -/
theorem test_clock_hand :
    let put := fun (l : Table RowSlot) (e : Nat × Nat × Bool × Bool) =>
      tput l e.1 { row := e.2.1, pin := e.2.2.1, ref := e.2.2.2 }
    let b : Bank :=
      { slots := [(100, 500, true, false), (101, 20, false, true), (102, 61, false, false)].foldl put []
        hand := 100
        queue := [{ row := 9029, op := 0, cls := .c }] }
    (match exec (.bankAccess 0) { plain with banks := [(0, b)] } with
      | .next t =>
        let c := tgetD t.banks 0 {}
        c.hand == 103 && c.slot 100 == { row := 500, pin := true, ref := false } &&
          c.slot 101 == { row := 20, pin := false, ref := false } &&
          c.slot 102 == { row := 9029, pin := false, ref := true }
      | _ => false) = true := by decide +kernel
/-- 09 R251, example: one element of a scaled product is rounded once in its block and once at the end. -/
theorem test_product :
    let z := fun (l : List Byte) => l.zipIdx.map (fun e => (e.2, e.1))
    let a : Tile := { tc := shape 0 1 128 0, image := z [0x78, 0x02, 0x02, 0x02], scales := [(0, 0x3F000000)] }
    let b : Tile := { tc := shape 0 1 128 1, image := z [0x38, 0x02, 0x02, 0x02], scales := [(0, 0x40400000)] }
    let d : Tile := { tc := shape 5 1 1 2, image := putNum [] 0 4 0x3F800000 }
    let o := engineOp ⟨0, 3, 0, 1, 2⟩
    let s := fro 0 (fun x => { x with
      tiles := [(0, d), (1, a), (2, b)]
      tops := [o]
      tlq := [(0, false)] })
    (match exec (.tileOpComplete 1) s with
      | .next t => (tget t.skeins 1).any (fun x => (List.range 4).map (fun i => tgetD (x.tile 0).image i 0) ==
          [0x03, 0x80, 0xC0, 0x43])
      | _ => false) = true := by decide +kernel
/-- 07 R179, example: 64 lanes of `sld.b32` at 4l, 8l and 12l need 2, 4 and 2 passes. -/
theorem test_passes : ([4, 8, 12].map (fun k => passesOf 4 ((List.range 64).map (fun l => (l, 1, k * l))))) = [2, 4, 2] := by
  decide +kernel
/-- 13 R318, 06 R157: the word that a fetch places runs in the very next step. -/
theorem test_fetched_word : (match step (State.reset.withFetchWord 32 0x1C1891A3) with
    | .next t => t.fibres.all (fun e => e.2.reg 3 == 0x12346000)
    | _ => false) = true := by decide +kernel

end Sys2Proof.Tests
end

section
/-! SUPPORT. The form of the state along a step: whatever an instruction does is a list of primitive effects,
each of which keeps the form (`Laws.apply_inv`), and choosing and taking a turn touches no part that the form
speaks of. With it, what the state after a package reset holds. -/

namespace Sys2Proof.Proofs

open Sys2Proof Machine Safety Laws

/-! ### Every step keeps the form -/

/-- Whatever the instruction, its next state comes of a list of effects: each arm of `exec` commits a plan. -/
theorem exec_effects (i : Instr) (s : State) : ∃ l : List Effect, exec i s = .next (applyAll l s) := by
  cases i <;> exact ⟨_, rfl⟩

theorem exec_inv {i : Instr} {s t : State} (h : Inv s = true) (ht : exec i s = .next t) : Inv t = true := by
  obtain ⟨l, he⟩ := exec_effects i s
  cases he.symm.trans ht
  exact applyAll_inv l s h

theorem ticked_inv {s : State} (h : Inv s = true) : Inv (ticked s) = true := applyAll_inv _ _ h

theorem noteTry_inv (w : Who) {s : State} (h : Inv s = true) : Inv (noteTry w s) = true := by
  cases w with
  | strand n =>
    unfold noteTry
    dsimp only
    split <;> exact h
  | front k =>
    unfold noteTry
    dsimp only
    split <;> exact h

theorem turnTaken_inv (t : Turn) {s : State} (h : Inv s = true) : Inv (turnTaken t s) = true := by
  unfold turnTaken
  extract_lets noted left tried
  have hnoted : Inv noted = true := by
    unfold noted
    split
    · exact noteTry_inv _ h
    · exact h
  have hleft : Inv left = true := by
    unfold left
    split
    · split <;> exact hnoted
    · exact hnoted
  have htried : Inv tried = true := by
    unfold tried
    split <;> exact hleft
  exact htried

/-- A context that takes its next word finds none there, executes it with nothing but the word being executed
noted, or takes a trap of the word's checks. -/
theorem takeWord_cases (w : Who) (s : State) :
    takeWord w s = .nothing ∨ (∃ i c, takeWord w s = .exec i { s with cur := c }) ∨
      ∃ l c, takeWord w s = .done (applyAll l { s with cur := c }) := by
  unfold takeWord
  split
  · exact .inl rfl
  · dsimp only
    split
    · exact .inl rfl
    · split
      · exact .inr (.inl ⟨_, _, rfl⟩)
      · exact .inr (.inr ⟨_, _, rfl⟩)

theorem perform_inv {t : Turn} {s u : State} (h : Inv s = true) (hp : perform t s = .next u) :
    Inv u = true := by
  have ht := turnTaken_inv t h
  unfold perform at hp
  cases t with
  | event i => exact exec_inv ht hp
  | again n =>
    dsimp only at hp
    split at hp
    · exact exec_inv ht hp
    · cases hp
      exact ht
  | issue w =>
    rcases takeWord_cases w (turnTaken (.issue w) s) with hw | ⟨i, c, hw⟩ | ⟨l, c, hw⟩
    · simp only [hw] at hp
      cases hp
      exact ht
    · simp only [hw] at hp
      exact exec_inv (s := { turnTaken (.issue w) s with cur := c }) ht hp
    · simp only [hw] at hp
      cases hp
      exact applyAll_inv l { turnTaken (.issue w) s with cur := c } ht

theorem step_inv {s t : State} (h : Inv s = true) (hs : step s = .next t) : Inv t = true := by
  unfold step at hs
  dsimp only at hs
  split at hs
  · cases hs
    exact ticked_inv h
  · split at hs
    · cases hs
    · exact perform_inv (ticked_inv h) hs

/-- Settles O60: time passing, taking a turn and executing an instruction each keep the form. -/
theorem everyStepKeepsTheForm : Obligations.EveryStepKeepsTheForm := fun _ _ => step_inv

/-! ### The state after a package reset -/

/-- Settles O56: memory and every table list nothing then. -/
theorem resetKeepsTheForm : Obligations.ResetKeepsTheForm := rfl

/-- Settles O55: a register of the package is a field of `State.reset`, and one of a die, a stack, a key slot
or a bank is a default, since the tables list nothing. -/
theorem resetRegistersHoldTheirValues : Obligations.ResetRegistersHoldTheirValues := by
  unfold Obligations.ResetRegistersHoldTheirValues
  refine ⟨rfl, rfl, rfl, rfl, rfl, rfl, rfl, rfl, rfl, rfl, rfl, rfl, rfl, rfl, rfl, rfl, rfl, rfl, rfl, rfl, rfl,
    rfl, rfl, rfl, rfl, ?dies, ?stackRegs, ?keySlots, ?banks, rfl, rfl, rfl, rfl⟩
  case dies => exact fun _ => ⟨rfl, rfl, rfl, rfl⟩
  case stackRegs => exact fun _ => ⟨rfl, rfl, rfl, rfl, rfl, rfl, rfl, rfl, rfl, rfl, rfl, rfl⟩
  case keySlots => exact fun _ => ⟨rfl, rfl, rfl, rfl, rfl⟩
  case banks => exact fun _ => ⟨rfl, rfl, fun _ => rfl⟩

end Sys2Proof.Proofs
end

section
/-! SUPPORT. A register write of the control processors: which block's write it is, what the write of a block
does at each offset, and the fields of the value written (00 R5 R8, 16 R379). -/

namespace Sys2Proof.Proofs

open Sys2Proof Machine Safety Laws

/-! ### Fields of the value -/

theorem bitsOf_low (x hi : Nat) : bitsOf x hi 0 = x % 2 ^ (hi + 1) := by
  simp [bitsOf]

theorem bitsOf_lt (x hi lo : Nat) : bitsOf x hi lo < 2 ^ (hi + 1 - lo) := Nat.mod_lt _ (Nat.two_pow_pos _)

/-- A register takes as many low bits as it holds, so that naming them changes nothing. -/
theorem ofNat_bitsOf (x hi lo w : Nat) (h : w + lo = hi + 1) :
    BitVec.ofNat w (bitsOf x hi lo) = BitVec.ofNat w (x / 2 ^ lo) := by
  have hw : hi + 1 - lo = w := by omega
  apply BitVec.eq_of_toNat_eq
  simp [bitsOf, hw]

theorem ofNat_bitsOf_low (x hi w : Nat) (h : w = hi + 1) :
    BitVec.ofNat w (bitsOf x hi 0) = BitVec.ofNat w x := by
  rw [ofNat_bitsOf x hi 0 w (by omega), Nat.pow_zero, Nat.div_one]

theorem toNat_bitsOf (x hi lo w : Nat) (h : w + lo = hi + 1) :
    (BitVec.ofNat w (bitsOf x hi lo)).toNat = bitsOf x hi lo := by
  have hlt := bitsOf_lt x hi lo
  rw [show hi + 1 - lo = w by omega] at hlt
  rw [BitVec.toNat_ofNat, Nat.mod_eq_of_lt hlt]

theorem bitOf_eq_bitsOf (x i : Nat) : bitOf x i = (bitsOf x i i == 1) := by
  simp [bitOf, bitsOf]

theorem setSize_fields (r : Ring) (v : Nat) :
    r.setSize v = { r with size := BitVec.ofNat 4 (bitsOf v 3 0), en := bitOf v 8 } := by
  rw [ofNat_bitsOf_low v 3 4 rfl]
  rfl

theorem setHead_fields (r : Ring) (v : Nat) : r.setHead v = { r with head := BitVec.ofNat 16 (bitsOf v 15 0) } := by
  rw [ofNat_bitsOf_low v 15 16 rfl]
  rfl

/-- The source mask of an entry of `exports` holds two fields of 14 bits (16 R392). -/
theorem exportSource_fields (v : Nat) :
    BitVec.ofNat 32 v &&& 0x3FFF3FFF = BitVec.ofNat 32 (bitsOf v 13 0 + 2 ^ 16 * bitsOf v 29 16) := by
  have hmask : ∀ i < 32, (0x3FFF3FFF : BitVec 32).getLsbD i = decide (i < 14 ∨ 16 ≤ i ∧ i < 30) := by decide
  have hlow : bitsOf v 13 0 < 2 ^ 16 := Nat.lt_trans (bitsOf_lt v 13 0) (by decide)
  apply BitVec.eq_of_getLsbD_eq
  intro i hi
  rw [BitVec.getLsbD_and, hmask i hi, Nat.add_comm (bitsOf v 13 0), BitVec.getLsbD_ofNat, BitVec.getLsbD_ofNat,
    Nat.testBit_two_pow_mul_add _ hlow]
  simp only [bitsOf, Nat.testBit_mod_two_pow, Nat.testBit_div_two_pow]
  by_cases h16 : i < 16
  · simp [h16, hi]
    grind
  · have hs : i - 16 + 16 = i := by omega
    simp [h16, hi, hs]
    grind

/-! ### Commits of one change -/

/-- A change of one die. -/
theorem commit_modDie (s : State) (d : Nat) (g : Die → Die) :
    ∃ t, commit s (modDie d g) = .next t ∧ OnlyDie s t d (g (s.die d)) := by
  refine ⟨_, rfl, rfl, fun i => ?_⟩
  show (tget (tput s.dies d (g (s.die d))) i).getD {} = _
  rw [tget_tput]
  by_cases h : d = i
  · simp [h]
  · simp [h, Ne.symm h, State.die, tgetD]

/-- Two actions after each other, where the second sees the state alone and not the effects before it. -/
theorem commit_seq {s : State} {a b : Act} (ha : Keeps a) (hb : Keeps b)
    (hnow : ∀ p q : Plan, p.now = q.now → (b p).now = (b q).now) :
    commit s (fun p => b (a p)) = commit (a { now := s, log := [] }).now b := by
  rw [commit_leads (act := fun p => b (a p)) (keeps_comp ha hb s _ (leads_start s)),
    commit_leads (hb _ _ (leads_start _))]
  exact congrArg _ (hnow _ _ rfl)

theorem forEach_now {α : Type} (l : List α) (act : α → Act)
    (h : ∀ x (p q : Plan), p.now = q.now → (act x p).now = (act x q).now) (p q : Plan) (hpq : p.now = q.now) :
    (forEach l act p).now = (forEach l act q).now := by
  induction l generalizing p q with
  | nil => exact hpq
  | cons x r ih => exact ih _ _ (h x p q hpq)

theorem modBank_now (k : Nat) (g : Bank → Bank) (p q : Plan) (h : p.now = q.now) :
    (modBank k g p).now = (modBank k g q).now := by
  simp only [modBank, Plan.emit, h]

theorem keeps_clearPins (st : Nat) : Keeps (clearPins st) := fun s p =>
  keeps_forEach _ _ (fun _ _ _ h => leads_emit h _) s p

theorem clearPins_now (st : Nat) (p q : Plan) (h : p.now = q.now) : (clearPins st p).now = (clearPins st q).now := by
  unfold clearPins
  rw [h]
  exact forEach_now _ _ (fun _ => modBank_now _ _) p q h

/-! ### The block of a write -/

section
variable {pa i o v : Nat}

/-- No register is written at an address outside the blocks, in the capability list or in the key slots
(16 R379 R385). -/
theorem writeRegister_none (h : regBlock pa = none ∨ (∃ o, regBlock pa = some (0, 0, o)) ∨
    ∃ o, regBlock pa = some (6, 0, o)) : writeRegister pa v = id := by
  rcases h with h | ⟨o, h⟩ | ⟨o, h⟩
  all_goals
    funext p
    simp only [writeRegister, h]
    rfl

theorem writeRegister_frontEnd (h : regBlock pa = some (1, i, o)) : writeRegister pa v = writeFrontEnd o v := by
  funext p
  simp only [writeRegister, h]

theorem commit_translation {s : State} (h : regBlock pa = some (2, i, o)) :
    commit s (writeRegister pa v) = if s.inService i then commit s (writeTranslation i o v) else .next s := by
  unfold commit
  simp only [writeRegister, h]
  split <;> rfl

theorem writeRegister_memory (h : regBlock pa = some (3, i, o)) : writeRegister pa v = writeMemoryBlock o v := by
  funext p
  simp only [writeRegister, h]

theorem writeRegister_hahan (h : regBlock pa = some (4, i, o)) : writeRegister pa v = writeHahan o v := by
  funext p
  simp only [writeRegister, h]

theorem writeRegister_krytist (h : regBlock pa = some (5, i, o)) : writeRegister pa v = writeKrytist o v := by
  funext p
  simp only [writeRegister, h]

theorem writeRegister_health (h : regBlock pa = some (7, i, o)) : writeRegister pa v = writeHealth o v := by
  funext p
  simp only [writeRegister, h]

end

theorem registerWrite_recovery {s : State} (pa : BitVec 52) (v : BitVec 64) (hr : s.recovery = true) :
    exec (.registerWrite pa v) s = .next s := by
  show commit s (actIf (!s.recovery) _) = _
  rw [hr]
  rfl

theorem registerWrite_running {s : State} (pa : BitVec 52) (v : BitVec 64) (hr : s.recovery = false) :
    exec (.registerWrite pa v) s = commit s (writeRegister pa.toNat v.toNat) := by
  show commit s (actIf (!s.recovery) _) = _
  rw [hr]
  rfl

/-! ### The arrays of a block -/

theorem writeFrontEnd_queue (q r v : Nat) (hq : q < 64) (hr : r < 0x40) :
    writeFrontEnd (0x1000 + 0x40 * q + r) v = writeQueue q r v := by
  have hdiv : (0x1000 + 0x40 * q + r - 0x1000) / 0x40 = q := by omega
  have hmod : (0x1000 + 0x40 * q + r - 0x1000) % 0x40 = r := by omega
  unfold writeFrontEnd
  rw [if_pos (by simp; omega), hdiv, hmod]

theorem writeMemoryBlock_stack (k r v : Nat) (hk : k < 8) (hr : r < 0x40) :
    writeMemoryBlock (0x100 + 0x40 * k + r) v = writeStack k r v := by
  have hdiv : (0x100 + 0x40 * k + r - 0x100) / 0x40 = k := by omega
  have hmod : (0x100 + 0x40 * k + r - 0x100) % 0x40 = r := by omega
  unfold writeMemoryBlock
  rw [if_pos (by simp; omega), hdiv, hmod]

theorem writeHahan_agent (a v : Nat) (ha : a < 5) :
    writeHahan (0x100 + 0x20 * a) v =
      if bitsOf v 41 32 ≠ 0 then modDie a (fun d => { d with emax := 0 }) else id := by
  have hdiv : (0x100 + 0x20 * a - 0x100) / 0x20 = a := by omega
  have hmod : (0x100 + 0x20 * a - 0x100) % 0x20 = 0 := by omega
  unfold writeHahan
  rw [if_pos (by simp; omega), hdiv, hmod]
  simp

theorem writeKrytist_export (e r v : Nat) (he : e < 64) (hr : r < 0x20) :
    writeKrytist (0x100 + 0x20 * e + r) v = writeExport e r v := by
  have hdiv : (0x100 + 0x20 * e + r - 0x100) / 0x20 = e := by omega
  have hmod : (0x100 + 0x20 * e + r - 0x100) % 0x20 = r := by omega
  unfold writeKrytist
  rw [if_pos (by simp; omega), hdiv, hmod]

/-! ### Commands -/

theorem invalidate_refused {kind : Nat} (die ctx : Nat) (h : 5 ≤ kind) :
    invalidate die kind ctx = modDie die (fun y => { y with inverr := true }) := by
  funext p
  unfold invalidate
  rw [if_pos (by simp [h])]

/-- The target that a stop command names (04 R127). -/
def stopTarget (v : Nat) : StopTarget :=
  { core := BitVec.ofNat 6 (bitsOf v 5 0)
    slot := BitVec.ofNat 6 (bitsOf v 11 6)
    fibre := BitVec.ofNat 10 (bitsOf v 21 12)
    front := bitOf v 22
    reg := BitVec.ofNat 16 (bitsOf v 47 32) }

theorem stopTarget_eq (v : Nat) : stopTarget v =
    { core := BitVec.ofNat 6 v
      slot := BitVec.ofNat 6 (v / 2 ^ 6)
      fibre := BitVec.ofNat 10 (v / 2 ^ 12)
      front := bitOf v 22
      reg := BitVec.ofNat 16 (v / 2 ^ 32) } := by
  rw [stopTarget, ofNat_bitsOf_low v 5 6 rfl, ofNat_bitsOf v 11 6 6 rfl, ofNat_bitsOf v 21 12 10 rfl,
    ofNat_bitsOf v 47 32 16 rfl]

/-! ### What the write of each register commits

The fields are named as the spec names them, by their bits in the word written. -/

section
variable (s : State)

theorem commit_ctxbase (v : Nat) :
    commit s (writeFrontEnd 0x000 v) = .next { s with ctxbase := BitVec.ofNat 36 (bitsOf v 51 16) } := rfl

theorem commit_ctxcnt (v : Nat) :
    commit s (writeFrontEnd 0x008 v) = .next { s with ctxcnt := BitVec.ofNat 17 (bitsOf v 16 0) } := by
  rw [ofNat_bitsOf_low v 16 17 rfl]
  rfl

theorem commit_lseed (v : Nat) :
    commit s (writeFrontEnd 0x010 v) = exec (.lseedWrite (BitVec.ofNat 32 (bitsOf v 31 0))) s := by
  rw [ofNat_bitsOf_low v 31 32 rfl]
  rfl

theorem commit_abort (v : Nat) :
    commit s (writeFrontEnd 0x020 v) =
      exec (.abort (BitVec.ofNat 6 (bitsOf v 5 0)) (BitVec.ofNat 16 (bitsOf v 31 16))) s := by
  show _ = commit s (abortAt (BitVec.ofNat 6 (bitsOf v 5 0)).toNat _)
  rw [toNat_bitsOf v 5 0 6 rfl]
  rfl

theorem commit_blockage (v : Nat) :
    commit s (writeFrontEnd 0x030 v) = .next { s with blockage := BitVec.ofNat 32 (bitsOf v 31 0) } := by
  rw [ofNat_bitsOf_low v 31 32 rfl]
  rfl

theorem commit_queue (q o : BitVec 6) (v : BitVec 64) :
    commit s (writeFrontEnd (0x1000 + 0x40 * q.toNat + o.toNat) v.toNat) =
      if o = 0x10 then exec (.widxWrite q (BitVec.ofNat 16 (bitsOf v.toNat 15 0))) s
      else exec (.queueControlWrite q o v) s := by
  rw [writeFrontEnd_queue q.toNat o.toNat v.toNat q.isLt o.isLt]
  by_cases ho : o = 0x10
  · subst ho
    rw [if_pos rfl, ofNat_bitsOf_low v.toNat 15 16 rfl]
    rfl
  · rw [if_neg ho]
    rfl

/-- The registers of a die that take a value or clear a bit (04 R126 R127, 12 R311). -/
theorem commit_dieRegisters (d v : Nat) :
    let sets := fun (o : Nat) (y : Die) => ∃ t, commit s (writeTranslation d o v) = .next t ∧ OnlyDie s t d y
    let x := s.die d
    sets 0x000 { x with fq := x.fq.setBase v } ∧ sets 0x008 { x with fq := x.fq.setSize v } ∧
    sets 0x010 { x with fq := x.fq.setHead v } ∧ sets 0x020 { x with inverr := x.inverr && !bitOf v 1 } ∧
    sets 0x080 { x with invaddr := BitVec.ofNat 51 v } ∧ sets 0x088 { x with invlen := BitVec.ofNat 51 v } ∧
    sets 0x100 { x with sq := x.sq.setBase v } ∧ sets 0x108 { x with sq := x.sq.setSize v } ∧
    sets 0x110 { x with sq := x.sq.setHead v } ∧ sets 0x120 { x with serr := x.serr && !bitOf v 1 } ∧
    sets 0x148 { x with sdata := BitVec.ofNat 64 v } ∧ sets 0x150 { x with spc := BitVec.ofNat 51 v } :=
  ⟨commit_modDie s d _, commit_modDie s d _, commit_modDie s d _, commit_modDie s d _, commit_modDie s d _,
    commit_modDie s d _, commit_modDie s d _, commit_modDie s d _, commit_modDie s d _, commit_modDie s d _,
    commit_modDie s d _, commit_modDie s d _⟩

theorem commit_closeFault (d v : Nat) :
    commit s (writeTranslation d 0x040 v) =
      if bitOf v 16 then exec (.faultDiscard d (BitVec.ofNat 16 (bitsOf v 15 0))) s
      else exec (.faultResume d (BitVec.ofNat 16 (bitsOf v 15 0))) s := by
  rw [ofNat_bitsOf_low v 15 16 rfl]
  show commit s (closeFault d _ (bitOf v 16)) = _
  cases bitOf v 16 <;> rfl

/-- The invalidation that a command names by its kind (12 R311 R312). -/
theorem commit_invalidate (d v : Nat) :
    let w := commit s (writeTranslation d 0x090 v)
    let ctx := BitVec.ofNat 16 (bitsOf v 31 16)
    (bitsOf v 2 0 = 0 → w = exec (.invalidateVaRange d ctx) s) ∧
    (bitsOf v 2 0 = 1 → w = exec (.invalidateContextTranslations d ctx) s) ∧
    (bitsOf v 2 0 = 2 → w = exec (.invalidateBufferEntries d ctx) s) ∧
    (bitsOf v 2 0 = 3 → w = exec (.invalidateContextAll d ctx) s) ∧
    (bitsOf v 2 0 = 4 → w = exec (.invalidateAllContexts d) s) ∧
    (5 ≤ bitsOf v 2 0 → ∃ t, w = .next t ∧ OnlyDie s t d { s.die d with inverr := true }) := by
  intro w ctx
  have hctx : ctx.toNat = bitsOf v 31 16 := toNat_bitsOf v 31 16 16 rfl
  have hw : w = commit s (invalidate d (bitsOf v 2 0) (if bitsOf v 2 0 = 4 then 0 else ctx.toNat)) := by
    rw [hctx]
    rfl
  refine ⟨?_, ?_, ?_, ?_, ?_, fun h => ?refused⟩
  case refused =>
    rw [hw, invalidate_refused d _ h]
    exact commit_modDie s d _
  all_goals
    intro h
    rw [hw, h]
    rfl

theorem commit_stopCommand (d v : Nat) :
    let w := commit s (writeTranslation d 0x140 v)
    let g := stopTarget v
    (bitsOf v 26 24 = 0 → w = exec (.stopResume d g) s) ∧ (bitsOf v 26 24 = 1 → w = exec (.stopResumeAt d g) s) ∧
    (bitsOf v 26 24 = 2 → w = exec (.stopEndTarget d g) s) ∧ (bitsOf v 26 24 = 3 → w = exec (.stopRelease d g) s) ∧
    (bitsOf v 26 24 = 4 → w = exec (.stopReadRegister d g) s) ∧
    (bitsOf v 26 24 = 5 → w = exec (.stopWriteRegister d g) s) ∧
    (6 ≤ bitsOf v 26 24 → w = exec (.stopCommandRefused d (BitVec.ofNat 3 (bitsOf v 26 24))) s) := by
  intro w g
  have hw : w = commit s (stopCommand d v) := rfl
  unfold stopCommand at hw
  rw [← stopTarget_eq] at hw
  refine ⟨?_, ?_, ?_, ?_, ?_, ?_, fun h => ?refused⟩
  case refused =>
    show _ = commit s (actIf (6 ≤ (BitVec.ofNat 3 (bitsOf v 26 24)).toNat) (refuseStop d))
    rw [toNat_bitsOf v 26 24 3 rfl, decide_eq_true h, hw]
    obtain ⟨k, hk⟩ := Nat.exists_eq_add_of_le' h
    rw [hk]
    rfl
  all_goals
    intro h
    rw [hw, h]
    rfl

theorem commit_idtab (v : BitVec 64) :
    commit s (writeMemoryBlock 0x000 v.toNat) = exec (.idtabWrite 0 v) s ∧
    commit s (writeMemoryBlock 0x008 v.toNat) = exec (.idtabWrite 1 v) s := by
  constructor
  · show commit s (writeIdtab false v.toNat) = execIdtabWrite 0 v s
    unfold writeIdtab execIdtabWrite
    simp only [if_true, Bool.false_eq_true, if_false]
  · show commit s (writeIdtab true v.toNat) = execIdtabWrite 1 v s
    unfold writeIdtab execIdtabWrite
    simp only [if_true, show ¬ ((1 : BitVec 1) = 0) by decide, if_false]

theorem commit_idlock (v : Nat) :
    commit s (writeMemoryBlock 0x010 v) = exec (.idlock (BitVec.ofNat 1 (bitsOf v 0 0))) s := by
  have hv : bitOf v 0 = (BitVec.ofNat 1 (bitsOf v 0 0) != 0) := by
    have hlt := bitsOf_lt v 0 0
    rw [bitOf_eq_bitsOf]
    generalize bitsOf v 0 0 = b at *
    obtain rfl | rfl : b = 0 ∨ b = 1 := by
      have : b < 2 := hlt
      omega
    · rfl
    · rfl
  show _ = commit s (modRest (fun t => { t with idlock := t.idlock || BitVec.ofNat 1 (bitsOf v 0 0) != 0 }))
  rw [← hv]
  rfl

/-- A stack's first word, with the command that clears its pins in bit 17 (14 R352). -/
theorem commit_stackPins (k : BitVec 3) (v : Nat) :
    let u := { s with hbms := tput s.hbms k.toNat { s.stack k.toNat with
      pinmax := BitVec.ofNat 11 (bitsOf v 10 0)
      pinen := bitOf v 16 } }
    commit s (writeStack k.toNat 0x00 v) = if bitOf v 17 then exec (.unpin k) u else .next u := by
  intro u
  cases h : bitOf v 17 with
  | false =>
    simp only [writeStack, h]
    rfl
  | true =>
    simp only [writeStack, h]
    exact commit_seq (keeps_modRest _) (keeps_clearPins _) (clearPins_now _)

theorem commit_stackRefresh (k v : Nat) :
    commit s (writeStack k 0x08 v) = .next { s with hbms := tput s.hbms k { s.stack k with
      rtint := BitVec.ofNat 8 (bitsOf v 7 0)
      lthr := BitVec.ofNat 16 (bitsOf v 31 16) } } := by
  rw [ofNat_bitsOf_low v 7 8 rfl]
  rfl

theorem commit_hahanCommand (v : Nat) :
    commit s (writeHahan 0x000 v) = if bitOf v 8 then exec .resync s else exec (.dieRemoval (bitsOf v 1 0)) s := by
  show commit s (if bitOf v 8 then resynchronise else removeDie (bitsOf v 1 0)) = _
  cases bitOf v 8 <;> rfl

theorem commit_rtmo (v : Nat) :
    commit s (writeKrytist 0x010 v) = .next { s with rtmo := BitVec.ofNat 32 (max 0x10000 (bitsOf v 31 0)) } := by
  rw [bitsOf_low]
  rfl

theorem commit_devnum (v : Nat) :
    commit s (writeKrytist 0x000 v) = .next { s with devnum := BitVec.ofNat 14 (bitsOf v 13 0) } := by
  rw [ofNat_bitsOf_low v 13 14 rfl]
  rfl

theorem commit_eqSize (v : Nat) :
    commit s (writeKrytist 0x020 v) = .next { s with eq := { s.eq with size := BitVec.ofNat 4 (bitsOf v 3 0) } } := by
  rw [ofNat_bitsOf_low v 3 4 rfl]
  rfl

theorem commit_exportSource (e v : Nat) :
    commit s (writeExport e 0x10 v) = .next { s with exports := tput s.exports e { tgetD s.exports e {} with
      src := BitVec.ofNat 32 (bitsOf v 13 0 + 2 ^ 16 * bitsOf v 29 16) } } := by
  rw [← exportSource_fields]
  rfl

theorem commit_exportRights (e v : Nat) :
    commit s (writeExport e 0x18 v) = .next { s with exports := tput s.exports e { tgetD s.exports e {} with
      rt := BitVec.ofNat 4 (bitsOf v 3 0) } } := by
  rw [ofNat_bitsOf_low v 3 4 rfl]
  rfl

theorem commit_wdlim (v : Nat) :
    commit s (writeHealth 0x000 v) = .next { s with wdlim := BitVec.ofNat 48 (bitsOf v 47 0) } := by
  rw [ofNat_bitsOf_low v 47 48 rfl]
  rfl

theorem commit_hevt (v : Nat) :
    commit s (writeHealth 0x008 v) = .next { s with hevt := s.hevt &&& ~~~ BitVec.ofNat 32 (bitsOf v 31 0) } := by
  rw [ofNat_bitsOf_low v 31 32 rfl]
  rfl

theorem commit_wearalert (v : Nat) :
    commit s (writeHealth 0x040 v) = .next { s with wearalert := BitVec.ofNat 10 (bitsOf v 9 0) } := by
  rw [ofNat_bitsOf_low v 9 10 rfl]
  rfl

theorem commit_repair (v : Nat) :
    let w := commit s (writeHealth 0x080 v)
    (bitsOf v 16 16 = 0 →
      (bitsOf v 1 0 = 0 → w = exec (.repairCore (bitsOf v 15 8)) s) ∧
      (bitsOf v 1 0 = 1 → w = exec (.repairDie (bitsOf v 15 8)) s) ∧
      (bitsOf v 1 0 = 2 → w = exec (.repairUcieLane (bitsOf v 15 8)) s) ∧
      (bitsOf v 1 0 = 3 → w = exec (.repairKrytistLane (bitsOf v 15 8)) s)) ∧
    (bitsOf v 16 16 = 1 → w =
      exec (.returnToService (BitVec.ofNat 2 (bitsOf v 1 0)) (BitVec.ofNat 8 (bitsOf v 15 8))) s) := by
  intro w
  have hw : w = commit s (repairCommand v) := rfl
  unfold repairCommand at hw
  rw [bitOf_eq_bitsOf] at hw
  refine ⟨fun hr => ?_, fun hr => ?_⟩
  · refine ⟨?_, ?_, ?_, ?_⟩
    all_goals
      intro h
      rw [hw, hr, h]
      rfl
  · show w = commit s (returnUnit (BitVec.ofNat 2 (bitsOf v 1 0)).toNat (BitVec.ofNat 8 (bitsOf v 15 8)).toNat)
    rw [toNat_bitsOf v 1 0 2 rfl, toNat_bitsOf v 15 8 8 rfl, hw, hr]
    rfl

end

/-- Settles O52: a write is that of its block, and each register of the block takes it as its lemma above says. -/
theorem registerWritesTakeEffect : Obligations.RegisterWritesTakeEffect := by
  intro s pa v w f at_ any base size head
  refine ⟨registerWrite_recovery pa v, fun hr => ?_⟩
  have hw : w = commit s (writeRegister pa.toNat v.toNat) := registerWrite_running pa v hr
  have hsize : ∀ r, size r = r.setSize v.toNat := fun r => (setSize_fields r _).symm
  have hhead : ∀ r, head r = r.setHead v.toNat := fun r => (setHead_fields r _).symm
  have hv : v = BitVec.ofNat 64 v.toNat := by simp
  refine ⟨?none, ?frontEnd, ?outOfService, ?translation, ?memory, ?hahan, ?krytist, ?health⟩
  case none => exact fun h => hw.trans (congrArg _ (writeRegister_none h))
  case frontEnd =>
    have hf : ∀ {o}, at_ 1 0 o → w = commit s (writeFrontEnd o v.toNat) := fun h =>
      hw.trans (congrArg _ (writeRegister_frontEnd h))
    refine ⟨fun h => (hf h).trans (commit_ctxbase s _), fun h => (hf h).trans (commit_ctxcnt s _),
      fun h => (hf h).trans (commit_lseed s _), fun h => (hf h).trans (commit_abort s _),
      fun h => (hf h).trans (commit_blockage s _), ?frontReadOnly, fun q o h => (hf h).trans (commit_queue s q o v)⟩
    case frontReadOnly =>
      rintro ⟨o, ho, h⟩
      simp only [List.mem_cons, List.not_mem_nil, or_false] at ho
      rcases ho with rfl | rfl | rfl <;> exact hf h
  case outOfService =>
    intro d o h hd
    rw [hw, commit_translation h, if_neg (by simp [hd])]
  case translation =>
    intro d hd x sets ctx tag g
    have hf : ∀ {o}, at_ 2 d o → w = commit s (writeTranslation d o v.toNat) := fun h => by
      rw [hw, commit_translation h, if_pos hd]
    have hsets : ∀ {o y}, (∃ t, commit s (writeTranslation d o v.toNat) = .next t ∧ OnlyDie s t d y) →
        at_ 2 d o → sets y := by
      intro o y hy h
      show ∃ t, w = .next t ∧ _
      rwa [hf h]
    obtain ⟨fqBase, fqSize, fqHead, inverr, invaddr, invlen, sqBase, sqSize, sqHead, serr, sdata, spc⟩ :=
      commit_dieRegisters s d v.toNat
    rw [← hsize] at fqSize sqSize
    rw [← hhead] at fqHead sqHead
    rw [← ofNat_bitsOf_low v.toNat 50 51 rfl] at invaddr invlen spc
    rw [← hv] at sdata
    refine ⟨hsets fqBase, hsets fqSize, hsets fqHead, hsets inverr, fun h => (hf h).trans (commit_closeFault s d _),
      hsets invaddr, hsets invlen, fun h => ?invalidate, hsets sqBase, hsets sqSize, hsets sqHead, hsets serr,
      fun h => ?stop, hsets sdata, hsets spc, ?dieReadOnly⟩
    case invalidate =>
      obtain ⟨va, ctxs, bufs, ctxAll, all, refused⟩ := commit_invalidate s d v.toNat
      rw [hf h]
      exact ⟨va, ctxs, bufs, ctxAll, all, fun e => hsets (refused e) h⟩
    case stop =>
      rw [hf h]
      exact commit_stopCommand s d v.toNat
    case dieReadOnly =>
      rintro ⟨o, ho, h⟩
      simp only [List.mem_cons, List.not_mem_nil, or_false] at ho
      rcases ho with rfl | rfl | rfl <;> exact hf h
  case memory =>
    have hf : ∀ {o}, at_ 3 0 o → w = commit s (writeMemoryBlock o v.toNat) := fun h =>
      hw.trans (congrArg _ (writeRegister_memory h))
    obtain ⟨idtabLow, idtabHigh⟩ := commit_idtab s v
    refine ⟨fun h => (hf h).trans idtabLow, fun h => (hf h).trans idtabHigh,
      fun h => (hf h).trans (commit_idlock s _), ?_⟩
    intro k o
    have hk : ∀ {r}, r < 0x40 → at_ 3 0 (o + r) → w = commit s (writeStack k.toNat r v.toNat) := fun hr h =>
      (hf h).trans (congrArg _ (writeMemoryBlock_stack k.toNat _ v.toNat k.isLt hr))
    refine ⟨fun h => (hk (r := 0) (by decide) h).trans (commit_stackPins s k _),
      fun h => (hk (by decide) h).trans (commit_stackRefresh s k.toNat _), ?stackReadOnly⟩
    case stackReadOnly =>
      rintro ⟨o, ho, h⟩
      simp only [List.mem_cons, List.not_mem_nil, or_false] at ho
      rcases ho with rfl | rfl | rfl | rfl | rfl <;> exact hk (by decide) h
  case hahan =>
    have hf : ∀ {o}, at_ 4 0 o → w = commit s (writeHahan o v.toNat) := fun h =>
      hw.trans (congrArg _ (writeRegister_hahan h))
    refine ⟨fun h => (hf h).trans (commit_hahanCommand s _), hf, fun h => ?rlogSize, fun h => ?rlogHead, ?hahanReadOnly,
      fun a ha h => ?agent⟩
    case rlogSize => rw [hsize]; exact hf h
    case rlogHead => rw [hhead]; exact hf h
    case hahanReadOnly =>
      rintro ⟨o, ho, h⟩
      simp only [List.mem_cons, List.not_mem_nil, or_false] at ho
      rcases ho with rfl | rfl <;> exact hf h
    case agent =>
      rw [hf h, writeHahan_agent a v.toNat ha]
      refine ⟨fun hne => ?_, fun hz => ?_⟩
      · rw [if_pos hne]
        exact commit_modDie s a _
      · rw [if_neg (Decidable.not_not.mpr hz)]
        rfl
  case krytist =>
    have hf : ∀ {o}, at_ 5 0 o → w = commit s (writeKrytist o v.toNat) := fun h =>
      hw.trans (congrArg _ (writeRegister_krytist h))
    refine ⟨fun h => (hf h).trans (commit_devnum s _), fun h => (hf h).trans (commit_rtmo s _), hf,
      fun h => (hf h).trans (commit_eqSize s _), fun h => ?eqHead, ?krytistReadOnly, fun e he => ?exports⟩
    case eqHead => rw [hhead]; exact hf h
    case krytistReadOnly =>
      rintro ⟨o, ho, h⟩
      simp only [List.mem_cons, List.not_mem_nil, or_false] at ho
      rcases ho with rfl | rfl | rfl <;> exact hf h
    case exports =>
      intro o x sets
      have hx : ∀ {r}, r < 0x20 → at_ 5 0 (o + r) → w = commit s (writeExport e r v.toNat) := fun hr h =>
        (hf h).trans (congrArg _ (writeKrytist_export e _ v.toNat he hr))
      refine ⟨hx (r := 0) (by decide), fun h => ?len, fun h => (hx (by decide) h).trans (commit_exportSource s e _),
        fun h => (hx (by decide) h).trans (commit_exportRights s e _)⟩
      rw [hv]
      exact hx (by decide) h
  case health =>
    have hf : ∀ {o}, at_ 7 0 o → w = commit s (writeHealth o v.toNat) := fun h =>
      hw.trans (congrArg _ (writeRegister_health h))
    obtain ⟨repair, unrepair⟩ := commit_repair s v.toNat
    refine ⟨fun h => (hf h).trans (commit_wdlim s _), fun h => (hf h).trans (commit_hevt s _),
      fun h => (hf h).trans (commit_wearalert s _), fun h hz => ?repairs, fun h h1 => (hf h).trans (unrepair h1),
      ?healthReadOnly⟩
    case repairs =>
      rw [hf h]
      exact repair hz
    case healthReadOnly =>
      rintro ⟨o, ho, h⟩
      simp only [List.mem_cons, List.not_mem_nil, or_false] at ho
      rcases ho with rfl | rfl | rfl | rfl | rfl | rfl | rfl | rfl | rfl | rfl <;> exact hf h

end Sys2Proof.Proofs
end

section
/-! SUPPORT. Words whose checks fail: what the operand and privilege checks of a fibre word answer (01 R11, 02 R57),
the one trap of lanes that trap alike (04 R120), and the traps of indirect targets and of floating words. -/

namespace Sys2Proof.Proofs

open Sys2Proof Machine Safety Laws

/-! ### The checks that depend on no lane -/

section
variable {rg : Regs} {g : Nat}

theorem check_beyond (denied : Bool) (h : ∃ o ∈ rg.src ++ rg.dst, g < o.r + o.n) :
    rg.check g denied = some .illegalField := by
  have hany : (rg.src ++ rg.dst).any (fun o => decide (g < o.r + o.n)) = true := by
    simpa only [List.any_eq_true, decide_eq_true_eq] using h
  unfold Regs.check
  simp only [hany, if_true]

theorem any_beyond_false (h : ∀ o ∈ rg.src ++ rg.dst, o.r + o.n ≤ g) :
    (rg.src ++ rg.dst).any (fun o => decide (g < o.r + o.n)) = false := by
  rw [List.any_eq_false]
  intro o ho
  have := h o ho
  simp only [decide_eq_true_eq]
  omega

theorem check_denied (h : ∀ o ∈ rg.src ++ rg.dst, o.r + o.n ≤ g) : rg.check g true = some .privileged := by
  unfold Regs.check
  simp only [any_beyond_false h]
  rfl

theorem check_misaligned (h : ∀ o ∈ rg.src ++ rg.dst, o.r + o.n ≤ g) (hm : ∃ o ∈ rg.src ++ rg.dst, o.r % o.al ≠ 0) :
    rg.check g false = some .operandAlign := by
  have hany : (rg.src ++ rg.dst).any (fun o => o.r % o.al != 0) = true := by
    simpa only [List.any_eq_true, bne_iff_ne] using hm
  unfold Regs.check
  simp only [any_beyond_false h, hany]
  rfl

end

/-- A fibre word whose operands or privilege fail in the lanes of its strand traps and does nothing else. -/
theorem fibreWord_fails {n : Nat} {x : Strand} {rg : Regs} {denied : Skein → Bool} {body : Nat → List Lane → Act}
    {p : Plan} {c : Cause} (h : Issues p.now n x)
    (hc : ∀ l ∈ p.now.lanes x, rg.check l.x.lr.regs (denied l.x) = some c) :
    fibreWord rg denied body p = trapWord { cause := c, mask := maskOf (p.now.lanes x) } p := by
  obtain ⟨hw, hx, hne⟩ := h
  unfold fibreWord
  rw [hw]
  simp only [hx]
  cases hl : p.now.lanes x with
  | nil => exact absurd hl hne
  | cons l r => simp only [hc l (by rw [hl]; exact List.mem_cons_self)]

theorem bothWord_strand {n : Nat} {fibre front : Act} {p : Plan} (h : p.now.cur.who = some (.strand n)) :
    bothWord fibre front p = fibre p := by
  unfold bothWord
  rw [h]

/-- Two meanings that do the same from a state take it to the same next state. -/
theorem commit_congr {s : State} {a b : Act} (h : a { now := s, log := [] } = b { now := s, log := [] }) :
    commit s a = commit s b := by
  unfold commit
  rw [h]

/-! ### Lanes that trap alike -/

theorem maskOf_cons (l : Lane) (r : List Lane) : maskOf (l :: r) = l.bit ||| maskOf r := by
  have hbits : ∀ ls : List Lane, maskOf ls = (ls.map Lane.bit).foldl (· ||| ·) 0 := fun _ => List.foldl_map.symm
  rw [hbits, hbits, List.map_cons, List.foldl_cons, BitVec.or_comm, List.foldl_assoc]

/-- The details of some lanes together. -/
def detailsOf (d : Lane → Nat) (ls : List Lane) : Nat := ls.foldl (fun m l => m ||| d l) 0

theorem detailsOf_cons (d : Lane → Nat) (l : Lane) (r : List Lane) :
    detailsOf d (l :: r) = d l ||| detailsOf d r := by
  have hdetails : ∀ ls, detailsOf d ls = (ls.map d).foldl (· ||| ·) 0 := fun _ => List.foldl_map.symm
  rw [hdetails, hdetails, List.map_cons, List.foldl_cons, Nat.or_comm, List.foldl_assoc]

theorem detailsOf_zero (ls : List Lane) : detailsOf (fun _ => 0) ls = 0 := by
  induction ls with
  | nil => rfl
  | cons l r ih => rw [detailsOf_cons, ih, Nat.or_zero]

/-- The trap that a lane of a word raises. -/
def laneTrap (c : Cause) (addr : Nat) (d : Lane → Nat) (l : Lane) : Trap :=
  { cause := c, detail := d l, mask := l.bit, addr := addr }

/-- Lanes that trap for one cause trap together: for NONFINITE with their details joined (04 R120, 01 R35). -/
theorem worstTrap_alike {c : Cause} {d : Lane → Nat} (hd : c = .nonfinite ∨ d = fun _ => 0) (addr : Nat)
    {ls : List Lane} (hne : ls ≠ []) :
    worstTrap (ls.map (laneTrap c addr d)) =
      some { cause := c, detail := detailsOf d ls, mask := maskOf ls, addr := addr } := by
  induction ls with
  | nil => exact absurd rfl hne
  | cons l r ih =>
    rw [List.map_cons, maskOf_cons, detailsOf_cons]
    cases r with
    | nil => simp [worstTrap, laneTrap, maskOf, detailsOf]
    | cons m q =>
      rw [worstTrap, ih (List.cons_ne_nil m q)]
      simp only [laneTrap, Nat.lt_irrefl, if_false]
      rcases hd with rfl | rfl
      · rfl
      · simp [detailsOf_zero]

theorem filterMap_of_some {α β : Type} {f : α → Option β} {g : α → β} {l : List α} (h : ∀ a ∈ l, f a = some (g a)) :
    l.filterMap f = l.map g := by
  induction l with
  | nil => rfl
  | cons a r ih =>
    rw [List.forall_mem_cons] at h
    obtain ⟨ha, hr⟩ := h
    rw [List.filterMap_cons_some ha, ih hr, List.map_cons]

/-! ### Indirect targets -/

/-- An indirect transfer whose target fails its check in every lane traps with that check's trap (04 R97). -/
theorem indirect_traps {n : Nat} {x : Strand} {a : BitVec 7} {body : Nat → Strand → List Lane → List (Nat × Pos) → Act}
    {p : Plan} {v : DWord} {c : Cause} {addr : Nat} (h : Ready p.now n x { src := [two a] })
    (hv : ∀ l ∈ p.now.lanes x, l.f.pair a.toNat = v) (ht : targetTrap v = some { cause := c, addr := addr }) :
    indirect a [] body p = trapWord { cause := c, addr := addr, mask := maskOf (p.now.lanes x) } p := by
  obtain ⟨-, hx, hne⟩ := h.1
  have htraps : (p.now.lanes x).filterMap (fun l => (targetTrap (l.f.pair a.toNat)).map (fun t =>
      { t with mask := l.bit })) = (p.now.lanes x).map (laneTrap c addr (fun _ => 0)) := by
    refine filterMap_of_some (fun l hl => ?_)
    rw [hv l hl, ht]
    rfl
  unfold indirect
  rw [fibreWord_ready h (fun _ _ => rfl)]
  simp only [hx, htraps, worstTrap_alike (.inr rfl) addr hne, detailsOf_zero]

theorem targetTrap_misaligned {v : DWord} (h : v.toNat % 4 ≠ 0) :
    targetTrap v = some { cause := .misaligned, addr := v.toNat } := if_pos (by simpa using h)

theorem targetTrap_beyond {v : DWord} (h : v.toNat % 4 = 0) (hv : 2 ^ 51 ≤ v.toNat) :
    targetTrap v = some { cause := .bounds, addr := v.toNat } := by
  unfold targetTrap
  rw [if_neg (by simpa using h), if_pos hv]

/-! ### Floating words -/

/-- A word that computes in each lane alone traps when the lanes' traps have a worst one (04 R119 R120). -/
theorem laneWord_traps {n : Nat} {x : Strand} {rg : Regs} {g : State → Lane → LaneOut} {p : Plan} {t : Trap}
    (h : Ready p.now n x rg)
    (ht : worstTrap ((p.now.lanes x).filterMap (fun l =>
      (l.result rg (g p.now)).trap.map (fun t => { t with mask := l.bit }))) = some t) :
    laneWord rg g p = trapWord t p := by
  unfold laneWord
  rw [fibreWord_ready h (fun _ _ => rfl)]
  simp only [List.filterMap_map, Function.comp_def, ht]

/-- The trap of a floating result in a lane: NONFINITE where the lane is active and raises an enabled condition. -/
theorem floatOut_trap (rg : Regs) (d n : Nat) (r : Lane → FRes) (l : Lane) :
    (l.result rg (fun l => floatOut l d n (r l))).trap.map (fun t => { t with mask := l.bit }) =
      if (l.on && (r l).cond.raised l.f.fpc != 0) = true then
        some (laneTrap .nonfinite 0 (fun l => (r l).cond.raised l.f.fpc) l) else none := by
  unfold Lane.result Lane.on floatOut
  cases l.act with
  | active => by_cases hz : (r l).cond.raised l.f.fpc = 0 <;> simp [hz, laneTrap]
  | zero => rfl
  | merge => rfl

/-- A floating word in which an active lane raises an enabled condition takes NONFINITE, which names the lanes that
raised one and their conditions together (01 R35). -/
theorem floatWord_traps {n : Nat} {x : Strand} {rg : Regs} {d k : Nat} {r : State → Lane → FRes} {p : Plan}
    (h : Ready p.now n x rg) :
    let up := fun (l : Lane) => (r p.now l).cond.raised l.f.fpc
    let bad := (p.now.lanes x).filter (fun l => l.on && up l != 0)
    bad ≠ [] → laneWord rg (fun s l => floatOut l d k (r s l)) p =
      trapWord { cause := .nonfinite, mask := maskOf bad, detail := detailsOf up bad } p := by
  intro up bad hbad
  refine laneWord_traps h ?_
  have htraps : (p.now.lanes x).filterMap (fun l => (l.result rg (fun l => floatOut l d k (r p.now l))).trap.map
      (fun t => { t with mask := l.bit })) = bad.map (laneTrap .nonfinite 0 up) := by
    rw [← List.filterMap_eq_map, List.filterMap_filter]
    exact congrArg (fun f => (p.now.lanes x).filterMap f) (funext (floatOut_trap rg d k (r p.now)))
  rw [htraps, worstTrap_alike (.inl rfl) 0 hbad]

/-- The value of an operand of one register. -/
theorem val_one (f : Fibre) (r : Nat) : f.val r 1 = (f.reg r).toNat := by
  simp [Fibre.val]

/-- A form of two f32 sources in which an active lane raises an enabled condition (01 R35, 03 R84). -/
theorem float2_traps {n : Nat} {x : Strand} {d a b : BitVec 7} {op : Fmt → FMode → FV → FV → FRes} {p : Plan}
    (h : Ready p.now n x { src := [one a, one b], dst := [one d] }) :
    let up := fun (l : Lane) =>
      let md := p.now.mode l.f
      (op .f32 md (inVal .f32 md (l.f.reg a.toNat).toNat) (inVal .f32 md (l.f.reg b.toNat).toNat)).cond.raised l.f.fpc
    let bad := (p.now.lanes x).filter (fun l => l.on && up l != 0)
    bad ≠ [] → float2 .f32 d a b (onVals2 .f32 op) p =
      trapWord { cause := .nonfinite, mask := maskOf bad, detail := detailsOf up bad } p := by
  intro up bad hbad
  have hword : float2 .f32 d a b (onVals2 .f32 op) =
      laneWord { src := [one a, one b], dst := [one d] } (fun s l => floatOut l d.toNat 1
        (op .f32 (s.mode l.f) (inVal .f32 (s.mode l.f) (l.f.reg a.toNat).toNat)
          (inVal .f32 (s.mode l.f) (l.f.reg b.toNat).toNat))) := by
    simp only [← val_one]
    rfl
  rw [hword]
  exact floatWord_traps h hbad

/-! ### The statement -/

/-- An `add` with an operand beyond G, and an `add.i64` with one beyond G or a misaligned one below it (01 R11). -/
theorem operandChecks_trap {s : State} {n : Nat} {x : Strand} {g : Nat} (d a b : BitVec 7) (h : Issues s n x)
    (hg : ∀ l ∈ s.lanes x, l.x.lr.regs = g) :
    ((g ≤ d.toNat ∨ g ≤ a.toNat ∨ g ≤ b.toNat) →
      TakesTrap (.add d a b) s { cause := .illegalField, mask := maskOf (s.lanes x) }) ∧
    ((g < d.toNat + 2 ∨ g < a.toNat + 2 ∨ g < b.toNat + 2) →
      TakesTrap (.addI64 d a b) s { cause := .illegalField, mask := maskOf (s.lanes x) }) ∧
    (d.toNat + 2 ≤ g ∧ a.toNat + 2 ≤ g ∧ b.toNat + 2 ≤ g →
      (d.toNat % 2 = 1 ∨ a.toNat % 2 = 1 ∨ b.toNat % 2 = 1) →
      TakesTrap (.addI64 d a b) s { cause := .operandAlign, mask := maskOf (s.lanes x) }) := by
  have fails : ∀ {rg : Regs} {f : State → Lane → LaneOut} {c : Cause}, rg.check g false = some c →
      commit s (laneWord rg f) = commit s (trapWord { cause := c, mask := maskOf (s.lanes x) }) :=
    fun hc => commit_congr (fibreWord_fails h (fun l hl => by rw [hg l hl]; exact hc))
  refine ⟨fun hr => fails (check_beyond false ?_), fun hr => fails (check_beyond false ?_),
    fun hr hm => fails (check_misaligned ?_ ?_)⟩
  · simp [one]; omega
  · simp [two]; omega
  · simp [two]; omega
  · simp [two]; omega

theorem specialListed_of_specialRS {r : Nat} (h : specialRS r = true) : specialListed r = true := by
  simp [specialRS, specialListed] at *
  omega

/-- `wsr` of a supervisor register, `lovt` and `halt` by user code (02 R58, 01 R15, 04 R116 R118). -/
theorem userCode_privileged {s : State} {n : Nat} {x : Strand} (a : BitVec 7) (r : BitVec 8) (h : Issues s n x)
    (hu : ∀ l ∈ s.lanes x, l.x.lr.sup = false ∧ a.toNat + 2 ≤ l.x.lr.regs) :
    (specialRS r.toNat = true → TakesTrap (.wsr a r) s { cause := .privileged, mask := maskOf (s.lanes x) }) ∧
    TakesTrap (.lovt a) s { cause := .privileged, mask := maskOf (s.lanes x) } ∧
    TakesTrap .halt s { cause := .privileged, mask := maskOf (s.lanes x) } := by
  have fails : ∀ {rg : Regs} {denied : Skein → Bool} {body : Nat → List Lane → Act},
      (∀ l ∈ s.lanes x, denied l.x = true) → (∀ o ∈ rg.src ++ rg.dst, o.r + o.n ≤ a.toNat + 2) →
      fibreWord rg denied body { now := s, log := [] } =
        trapWord { cause := .privileged, mask := maskOf (s.lanes x) } { now := s, log := [] } :=
    fun hd ho => fibreWord_fails h (fun l hl => by
      rw [hd l hl]
      exact check_denied (fun o hm => Nat.le_trans (ho o hm) (hu l hl).2))
  have user : ∀ l ∈ s.lanes x, supervisorOnly l.x = true := fun l hl => by
    unfold supervisorOnly
    rw [(hu l hl).1]
    rfl
  refine ⟨fun hrs => commit_congr ?wsr, commit_congr ?lovt, commit_congr ?halt⟩
  case wsr =>
    simp only [specialListed_of_specialRS hrs, Bool.not_true, Bool.false_eq_true, if_false]
    refine fails (fun l hl => ?_) (fun o ho => ?_)
    · simp [hrs, (hu l hl).1]
    · simp only [List.append_nil, List.mem_singleton] at ho
      subst ho
      split <;> simp [one, two]
  case lovt => exact fails user (by simp [one])
  case halt =>
    rw [bothWord_strand h.1]
    exact fails user (by simp)

/-- Settles O7: each check that fails turns the word into its trap, by the lemma of the check above. -/
theorem failedChecksTrap : Obligations.FailedChecksTrap := by
  refine ⟨fun s n x g d a b => operandChecks_trap d a b, fun s n x a r => userCode_privileged a r, ?targets, ?floats⟩
  case targets =>
    intro s m x a v h hv i hi
    have traps : ∀ {c : Cause} {addr : Nat}, targetTrap v = some { cause := c, addr := addr } →
        TakesTrap i s { cause := c, addr := addr, mask := maskOf (s.lanes x) } := fun ht => by
      simp only [List.mem_cons, List.not_mem_nil, or_false] at hi
      rcases hi with rfl | rfl | rfl <;> exact commit_congr (indirect_traps h hv ht)
    exact ⟨fun hm => traps (targetTrap_misaligned hm), fun ha hb => traps (targetTrap_beyond ha hb)⟩
  case floats =>
    intro s n x d a b h e he up bad hbad
    simp only [List.mem_cons, List.not_mem_nil, or_false] at he
    rcases he with rfl | rfl | rfl | rfl <;> exact commit_congr (float2_traps h hbad)

end Sys2Proof.Proofs
end

section
/-! SUPPORT. One step: what taking a turn changes, what a turn that is taken comes to, and where the next turn comes
from, with the strand that has waited longest (06 R160-R162, 16 R398). -/

namespace Sys2Proof.Proofs

open Sys2Proof Machine Safety Laws

/-! ### What a table lists -/

/-- The keys of a table that rises from a bound lie above it. -/
theorem headFrom_le {α : Type} {b : Nat} {t : Table α} (h : headFrom b t = true) (hw : tableWf t = true) :
    ∀ e ∈ t, b ≤ e.1 := by
  induction t generalizing b with
  | nil => exact fun e he => absurd he List.not_mem_nil
  | cons a r ih =>
    obtain ⟨i, x⟩ := a
    rw [tableWf_cons, Bool.and_eq_true] at hw
    have hb : b ≤ i := of_decide_eq_true h
    rw [List.forall_mem_cons]
    exact ⟨hb, fun e he => Nat.le_trans hb (Nat.le_of_succ_le (ih hw.1 hw.2 e he))⟩

/-- A table whose keys rise strictly reads as what it lists. -/
theorem tget_of_mem {α : Type} {t : Table α} (hw : tableWf t = true) {k : Nat} {x : α} (h : (k, x) ∈ t) :
    tget t k = some x := by
  induction t with
  | nil => exact absurd h List.not_mem_nil
  | cons a r ih =>
    obtain ⟨i, y⟩ := a
    rw [tableWf_cons, Bool.and_eq_true] at hw
    rw [tget_cons]
    rcases List.mem_cons.mp h with h | h
    · cases h
      exact if_pos rfl
    · have hlt : i + 1 ≤ k := headFrom_le hw.1 hw.2 _ h
      rw [if_neg (by omega)]
      exact ih hw.2 h

/-! ### Taking a turn -/

/-- A note of a core is of whom its slots or its front thread tried. -/
theorem core_noted (s : State) (k : Nat) (l : Table Nat) (n c : Nat) :
    ∃ l' n', ({ s with cores := tput s.cores k { s.core k with tried := l, turn := n } } : State).core c =
      { s.core c with tried := l', turn := n' } := by
  by_cases h : k = c
  · subst h
    refine ⟨l, n, ?_⟩
    simp [State.core, tgetD]
  · refine ⟨(s.core c).tried, (s.core c).turn, ?_⟩
    simp [State.core, tgetD, tget_tput, h]

/-- Noting a try changes the notes of a core alone. -/
theorem noteTry_kept (w : Who) (s : State) :
    noteTry w s = { s with cores := (noteTry w s).cores } ∧
      ∀ c, ∃ l n, (noteTry w s).core c = { s.core c with tried := l, turn := n } := by
  cases w with
  | strand n =>
    unfold noteTry
    dsimp only
    split
    · exact ⟨rfl, fun c => ⟨_, _, rfl⟩⟩
    · exact ⟨rfl, core_noted s _ _ _⟩
  | front k =>
    unfold noteTry
    dsimp only
    split
    · exact ⟨rfl, fun c => ⟨_, _, rfl⟩⟩
    · exact ⟨rfl, core_noted s _ _ _⟩

/-- The state in which the slot or the front thread of a turn's context has tried it. -/
def afterTry (t : Turn) (s : State) : State :=
  match t.issuer with
  | some w => noteTry w s
  | none => s

theorem afterTry_kept (t : Turn) (s : State) :
    afterTry t s = { s with cores := (afterTry t s).cores } ∧
      ∀ c, ∃ l n, (afterTry t s).core c = { s.core c with tried := l, turn := n } := by
  unfold afterTry
  split
  · exact noteTry_kept _ s
  · exact ⟨rfl, fun c => ⟨_, _, rfl⟩⟩

/-- The agenda after a turn: the event at its head has left it, unless the state fixed the turn. -/
def agendaAfter (t : Turn) (s : State) : List Instr :=
  match s.turn, t with
  | none, .event i => if s.agenda.head? = some i then s.agenda.drop 1 else s.agenda
  | _, _ => s.agenda

/-- The requests that wait after a turn. -/
def waitingAfter (t : Turn) (s : State) : List Waiting :=
  match t with
  | .again n => s.waiting.eraseIdx n
  | _ => s.waiting

theorem turnTaken_eq (t : Turn) (s : State) :
    turnTaken t s = { s with
      turn := none
      agenda := agendaAfter t s
      waiting := waitingAfter t s
      cores := (afterTry t s).cores } := by
  have hunfold : turnTaken t s = { afterTry t s with
      turn := none
      agenda := agendaAfter t (afterTry t s)
      waiting := waitingAfter t (afterTry t s) } := by
    unfold turnTaken
    extract_lets noted left again
    change { again with turn := none } = { noted with
      turn := none
      agenda := agendaAfter t noted
      waiting := waitingAfter t noted }
    unfold again left agendaAfter waitingAfter
    cases t with
    | event i =>
      cases noted.turn with
      | none => dsimp only; split <;> rfl
      | some w => rfl
    | again n => cases noted.turn <;> rfl
    | issue w => cases noted.turn <;> rfl
  rw [hunfold, (afterTry_kept t s).1]
  rfl

theorem turnTaken_kept (t : Turn) (s : State) : TurnKept t s (turnTaken t s) := by
  refine ⟨?fields, ?notes, fun h => ?cores⟩
  case fields =>
    rw [turnTaken_eq]
    rfl
  case notes =>
    rw [turnTaken_eq]
    exact (afterTry_kept t s).2
  case cores =>
    rw [turnTaken_eq]
    unfold afterTry
    rw [h]

/-- A context stands at the same word once its turn is taken. -/
theorem clauseOf_turnTaken (t : Turn) (s : State) (w : Who) : (turnTaken t s).clauseOf w = s.clauseOf w := by
  rw [turnTaken_eq]
  cases w <;> rfl

/-! ### What a turn comes to -/

section
variable {s : State} {t : Turn}

theorem step_of_turn (h : nextTurn (ticked s) = some t) (hr : s.stopped = false ∨ turnWhenStopped t = true) :
    step s = perform t (ticked s) := by
  unfold step
  simp only [h]
  refine if_neg ?_
  rcases hr with hr | hr <;> simp [hr]

theorem step_of_stopped (hs : s.stopped = true) (h : nextTurn (ticked s) = some t) (ht : turnWhenStopped t = false) :
    step s = .fault .packageStopped := by
  unfold step
  simp only [h]
  exact if_pos (by simp [hs, ht])

end

section
variable {s : State} {w : Who} {pos : Pos} {c : Clause} {front : Bool} {r : RawWord}

/-- The state in which a context's word is the one being executed. -/
def naming (w : Who) (r : RawWord) (s : State) : State := { s with cur := {
  who := some w
  word := BitVec.ofNat 32 r.word
  pfx := r.pfx.map (fun x => BitVec.ofNat 32 x) } }

theorem perform_issue_ok {i : Instr} (hc : s.clauseOf w = some (pos, c, front)) (hr : c.raw pos = some r)
    (hi : checkWord front (Header.ofWord c.head.toNat).cls.toNat r = .ok i) :
    perform (.issue w) s = exec i (naming w r (turnTaken (.issue w) s)) := by
  have htake : takeWord w (turnTaken (.issue w) s) = .exec i (naming w r (turnTaken (.issue w) s)) := by
    unfold takeWord
    simp only [clauseOf_turnTaken, hc, hr, hi]
    rfl
  unfold perform
  simp only [htake]

theorem perform_issue_error {e : Cause} (hc : s.clauseOf w = some (pos, c, front)) (hr : c.raw pos = some r)
    (he : checkWord front (Header.ofWord c.head.toNat).cls.toNat r = .error e) :
    perform (.issue w) s = commit (naming w r (turnTaken (.issue w) s)) (checkTrap w e) := by
  have htake : ∃ v, takeWord w (turnTaken (.issue w) s) = .done v ∧
      commit (naming w r (turnTaken (.issue w) s)) (checkTrap w e) = .next v := by
    unfold takeWord
    simp only [clauseOf_turnTaken, hc, hr, he]
    exact ⟨_, rfl, rfl⟩
  obtain ⟨v, hv, hcommit⟩ := htake
  unfold perform
  simp only [hv, hcommit]

theorem perform_again {n : Nat} {q : Waiting} (h : s.waiting[n]? = some q) :
    perform (.again n) s = exec q.request (turnTaken (.again n) s) := by
  unfold perform
  simp only [h]

end

/-! ### Where the next turn comes from -/

section
variable {s : State} {t : Turn}

/-- A turn that the state does not fix is a watchdog's or one of those that may come next. -/
theorem nextTurn_cases (hs : s.turn = none) (h : nextTurn s = some t) :
    (∃ k, t = .event (.watchdogExpiry k)) ∨ t ∈ s.openTurns := by
  unfold nextTurn at h
  simp only [hs] at h
  split at h
  · cases h
    exact .inl ⟨_, rfl⟩
  · exact .inr (List.mem_of_getElem? h)

theorem mem_turns_of_open (h : t ∈ s.openTurns) : t ∈ s.turns := by
  unfold State.openTurns at h
  split at h
  · exact (List.mem_filter.mp h).1
  · exact h

theorem whenStopped_of_open (hs : s.stopped = true) (h : t ∈ s.openTurns) : turnWhenStopped t = true := by
  unfold State.openTurns at h
  rw [if_pos hs] at h
  exact (List.mem_filter.mp h).2

theorem issuer_of_whenStopped (h : turnWhenStopped t = true) : t.issuer = none := by
  unfold turnWhenStopped at h
  rw [Bool.and_eq_true] at h
  exact Option.isNone_iff_eq_none.mp h.1

theorem whenStopped_of_hostRequest {i : Instr} (h : isHostRequest i = true) : turnWhenStopped (.event i) = true := by
  cases i with
  | clauseIssue w => exact absurd h Bool.false_ne_true
  | lotteryDraw => exact absurd h Bool.false_ne_true
  | placement => exact absurd h Bool.false_ne_true
  | skeinAdmission k => exact absurd h Bool.false_ne_true
  | contextSwitchOut l g => exact absurd h Bool.false_ne_true
  | contextSwitchIn l g => exact absurd h Bool.false_ne_true
  | _ => rfl

/-- In a stopped package the request at the head of the host's path may come next. -/
theorem hostRequest_open {i : Instr} (hs : s.stopped = true) (ha : s.agenda.head? = some i)
    (hi : isHostRequest i = true) (hw : s.hostWaits = false) : (.event i) ∈ s.openTurns := by
  have harrival : s.arrival = [.event i] := by
    obtain ⟨r, hr⟩ := List.head?_eq_some_iff.mp ha
    unfold State.arrival
    simp [hr, hw]
  unfold State.openTurns
  rw [if_pos hs, List.mem_filter]
  refine ⟨?_, whenStopped_of_hostRequest hi⟩
  unfold State.turns
  simp [harrival]

/-! ### Which strand a slot tries -/

theorem accesses_issuer (s : State) : ∀ i ∈ s.accesses, (Turn.event i).issuer = none := by
  unfold State.accesses
  simp only [List.forall_mem_append, List.forall_mem_flatMap, List.forall_mem_map]
  refine ⟨fun e _ => ⟨⟨fun _ _ => rfl, ?stores⟩, fun _ _ => rfl⟩, fun e _ => ⟨fun _ _ => rfl, ?frontStores⟩⟩
  case stores => split <;> simp [Turn.issuer]
  case frontStores => split <;> simp [Turn.issuer]

theorem coreUnits_issuer (s : State) : ∀ i ∈ s.coreUnits, (Turn.event i).issuer = none := by
  unfold State.coreUnits
  simp only [List.forall_mem_append, List.forall_mem_flatMap, List.forall_mem_map, List.forall_mem_cons]
  simp [Turn.issuer]

theorem dieUnits_issuer (s : State) : ∀ i ∈ s.dieUnits, (Turn.event i).issuer = none := by
  unfold State.dieUnits
  simp only [List.forall_mem_append, List.forall_mem_flatMap, List.forall_mem_map, List.forall_mem_cons]
  simp [Turn.issuer]

theorem packageUnits_issuer (s : State) : ∀ i ∈ s.packageUnits, (Turn.event i).issuer = none := by
  unfold State.packageUnits
  simp only [List.forall_mem_append, List.forall_mem_flatMap, List.forall_mem_map, List.forall_mem_cons]
  refine ⟨⟨⟨?front, ?launches⟩, fun e _ => ⟨?access, ?alerts⟩⟩, ?refreshes⟩
  case alerts => split <;> simp [Turn.issuer]
  all_goals simp [Turn.issuer]

theorem turnOf_issuer (s : State) (w : Who) : (s.turnOf w).issuer = some w := by
  unfold State.turnOf
  split <;> rfl

/-- A turn of a strand is of the one that a slot tries next, unless an event of the agenda is such a turn. -/
theorem slotNext_of_turns {n : Nat} (ha : ∀ q, s.agenda.head? ≠ some (.clauseIssue q)) (h : t ∈ s.turns)
    (ht : t.issuer = some (.strand n)) : ∃ c i, s.slotNext c i = some n := by
  have units : ∀ i ∈ s.accesses ++ s.coreUnits ++ s.dieUnits ++ s.packageUnits, (Turn.event i).issuer = none := by
    simp only [List.forall_mem_append]
    exact ⟨⟨⟨accesses_issuer s, coreUnits_issuer s⟩, dieUnits_issuer s⟩, packageUnits_issuer s⟩
  unfold State.turns at h
  rw [List.mem_append, List.mem_append, List.mem_append] at h
  rcases h with ((h | h) | h) | h
  case inl.inl.inl =>
    unfold State.arrival at h
    split at h
    · exact absurd h List.not_mem_nil
    · rename_i i r hag
      split at h
      · exact absurd h List.not_mem_nil
      · rw [List.mem_singleton] at h
        subst h
        unfold Turn.issuer at ht
        split at ht
        case h_1 he => cases he
        case h_2 he => cases he; exact absurd (by rw [hag]; rfl) (ha _)
        case h_3 => cases ht
  case inl.inl.inr =>
    obtain ⟨k, -, rfl⟩ := List.mem_map.mp h
    cases ht
  case inl.inr =>
    unfold State.issuers at h
    obtain ⟨c, -, h⟩ := List.mem_flatMap.mp h
    rcases List.mem_append.mp h with h | h
    · obtain ⟨i, -, hi⟩ := List.mem_filterMap.mp h
      obtain ⟨m, hm, rfl⟩ := Option.map_eq_some_iff.mp hi
      rw [turnOf_issuer] at ht
      cases ht
      exact ⟨c, i, hm⟩
    · obtain ⟨k, -, rfl⟩ := Option.map_eq_some_iff.mp (Option.mem_toList.mp h)
      rw [turnOf_issuer] at ht
      cases ht
  case inr =>
    obtain ⟨i, hi, rfl⟩ := List.mem_map.mp h
    rw [units i hi] at ht
    cases ht

end

theorem longest_eq_none {l : Table Strand} (h : longest l = none) : l = [] := by
  cases l with
  | nil => rfl
  | cons e r =>
    unfold longest at h
    split at h
    · cases h
    · split at h <;> cases h

/-- The strand that has waited longest is one of those that wait. -/
theorem longest_mem {l : Table Strand} {e : Nat × Strand} (h : longest l = some e) : e ∈ l := by
  induction l with
  | nil => cases h
  | cons a r ih =>
    unfold longest at h
    split at h
    · cases h
      exact List.mem_cons_self
    · rename_i f hf
      split at h
      · cases h
        exact List.mem_cons_of_mem _ (ih hf)
      · cases h
        exact List.mem_cons_self

theorem longest_least {l : Table Strand} {e : Nat × Strand} (h : longest l = some e) :
    ∀ y ∈ l, e.2.since ≤ y.2.since := by
  induction l generalizing e with
  | nil => cases h
  | cons a r ih =>
    unfold longest at h
    rw [List.forall_mem_cons]
    split at h
    · rename_i hr
      cases h
      rw [longest_eq_none hr]
      exact ⟨Nat.le_refl _, fun y hy => absurd hy List.not_mem_nil⟩
    · rename_i f hf
      have hleast := ih hf
      split at h
      · rename_i hlt
        cases h
        exact ⟨Nat.le_of_lt hlt, hleast⟩
      · rename_i hge
        cases h
        exact ⟨Nat.le_refl _, fun y hy => Nat.le_trans (Nat.not_lt.mp hge) (hleast y hy)⟩

/-- A strand that its slot tries is active there; where it is not passed over, it has waited as long as any other
that is not. -/
theorem slotNext_longest {s : State} {c i n : Nat} (h : s.slotNext c i = some n) :
    ∃ x, (n, x) ∈ s.activeOf c i ∧ (s.passedOver c i n = false →
      ∀ m y, (m, y) ∈ s.activeOf c i → s.passedOver c i m = false → x.since ≤ y.since) := by
  unfold State.slotNext at h
  dsimp only at h
  split at h
  · rename_i e he
    cases h
    refine ⟨e.2, (List.mem_filter.mp (longest_mem he)).1, fun _ m y hy hm => ?_⟩
    exact longest_least he (m, y) (List.mem_filter.mpr ⟨hy, by simp [hm]⟩)
  · rename_i hnone
    obtain ⟨e, he, rfl⟩ := Option.map_eq_some_iff.mp h
    have hmem := longest_mem he
    refine ⟨e.2, hmem, fun hp => absurd (longest_eq_none hnone) (List.ne_nil_of_mem (a := e) ?_)⟩
    exact List.mem_filter.mpr ⟨hmem, by simp [hp]⟩

theorem mem_activeOf {s : State} {c i : Nat} {e : Nat × Strand} (h : e ∈ s.activeOf c i) :
    e ∈ s.strands ∧ e.2.core = c ∧ e.2.slot = i := by
  unfold State.activeOf State.slotStrands at h
  simp only [List.mem_filter, Bool.and_eq_true, beq_iff_eq] at h
  obtain ⟨⟨hm, hc, hi⟩, -⟩ := h
  exact ⟨hm, hc, hi⟩

/-- A strand that takes a turn which the state does not fix, and that is not passed over, has waited as long as any
active strand of its slot that is not (06 R160). -/
theorem issuer_waited_longest {s : State} {t : Turn} {n : Nat} {x : Strand} (hs : s.turn = none)
    (hw : tableWf s.strands = true) (ha : ∀ q, s.agenda.head? ≠ some (.clauseIssue q)) (h : nextTurn s = some t)
    (ht : t.issuer = some (.strand n)) (hx : tget s.strands n = some x) (hp : s.passedOver x.core x.slot n = false) :
    ∀ m y, (m, y) ∈ s.activeOf x.core x.slot → s.passedOver x.core x.slot m = false → x.since ≤ y.since := by
  rcases nextTurn_cases hs h with ⟨k, rfl⟩ | hopen
  · cases ht
  · obtain ⟨c, i, hnext⟩ := slotNext_of_turns ha (mem_turns_of_open hopen) ht
    obtain ⟨y, hy, hleast⟩ := slotNext_longest hnext
    obtain ⟨hmem, rfl, rfl⟩ := mem_activeOf hy
    cases (tget_of_mem hw hmem).symm.trans hx
    exact hleast hp

/-- Settles O58: time passes, and the turn that comes next does what the lemma of its kind above says. -/
theorem stepRunsTheDecodedWord : Obligations.StepRunsTheDecodedWord := by
  intro s u
  refine ⟨⟨Config.cycles s.fresh, rfl⟩, fun t => turnTaken_kept t u, ?issue, fun i h hr => step_of_turn h hr,
    fun n q h hq => (step_of_turn h (.inr rfl)).trans (perform_again hq), ?longest, fun hs => ?stopped⟩
  case issue =>
    intro hrun w pos c front r h hc hr v cls
    have hstep : step s = perform (.issue w) u := step_of_turn h (.inl hrun)
    exact ⟨fun i _ hi => hstep.trans (perform_issue_ok hc hr hi),
      fun e he => hstep.trans (perform_issue_error hc hr he)⟩
  case longest =>
    intro hs htables ha w n h hn x hx hp
    unfold tablesWf at htables
    simp only [Bool.and_eq_true] at htables
    obtain ⟨⟨⟨⟨⟨-, hstrands⟩, -⟩, -⟩, -⟩, -⟩ := htables
    exact issuer_waited_longest (s := u) hs hstrands ha h hn hx hp
  case stopped =>
    refine ⟨fun w h hw => step_of_stopped hs h hw, fun hnone w h => ?_,
      fun i ha hi hw => hostRequest_open (s := u) hs ha hi hw⟩
    rcases nextTurn_cases (s := u) hnone h with ⟨k, rfl⟩ | hopen
    · rfl
    · exact issuer_of_whenStopped (whenStopped_of_open (s := u) hs hopen)

end Sys2Proof.Proofs
end
